-- ==== Sys2Proof/Word.lean ====
section
/-! DEFINITION. The word types of the block: bytes and the 64-bit words its registers hold. -/

namespace Sys2Proof

/-- One byte of a record, a beat or a memory. -/
abbrev Byte := BitVec 8

/-- A run of bytes, the byte at the lowest address first (R6). -/
abbrev Bytes := List Byte

/-- The width of the control-port registers (R52). -/
abbrev Word64 := BitVec 64

/-- One bit per memory channel, link, lane set or source, as a register holds it. -/
abbrev Word32 := BitVec 32

end Sys2Proof
end

