-- ==== Sys2Proof/Syntax.lean ====
section
/-! DEFINITION. The commands the block takes: one constructor per row of spec/opcode_table.json, in the table's order.
A row is one whole step of the part (spec/95_what_each_step_holds.md). Operands are what the outside gives that step: a
port, a tag, a beat, a control-port access, a flit group, the outcome of a physical test. What the block itself knows
(registers, queues, programs, memory) is read from State. -/

namespace Sys2Proof

/-- Where a Rinlin command is taken from (R90): an instance mailbox, the privileged mailbox or a submission queue.
A MGMT command message is the row COMMAND. -/
inductive CmdSrc where
  | mailbox (vi : Nat)
  | privileged
  | queue (i : Nat)
  deriving DecidableEq, Repr

/-- What the physical tests of a start find (R65, R396, R397, R424, R440). -/
structure StartIn where
  /-- OTP words whose two reads differ at sensing (R440). -/
  badWords : List Nat
  /-- Step-2 known-answer tests pass (R397). -/
  kat2 : Bool
  /-- The entropy start-up test passes (R396). -/
  health : Bool
  /-- Step-4 known-answer tests pass (R397). -/
  kat4 : Bool
  /-- Pair-wise consistency of the keys made in step 4 passes (R397). -/
  pairwise : Bool
  /-- Gesso cores whose SHAKE128 known-answer test fails (R397). -/
  badCores : List Nat
  /-- Rows (region 0-5, row) that the march finds failing (R424). -/
  badRows : List (Nat × Nat)
  deriving DecidableEq, Repr

/-- What SELFTEST meets (R398): whether every test but the cores' own passed, and the Gesso cores that failed theirs. -/
structure TestIn where
  passed : Bool
  badCores : List Nat
  deriving DecidableEq, Repr

/-- One stream beat with its sideband (R44). -/
structure Beat where
  data : Bytes
  par : List Bool
  bytes : Nat
  cid : Nat
  layout : Nat
  eot : Bool
  eoc : Bool
  deriving DecidableEq, Repr

/-- One control-port write (R52): byte strobes, data and the issuing instance. -/
structure CtlWrite where
  strb : BitVec 8
  data : Word64
  vi : Nat
  deriving DecidableEq, Repr

/-- The arbitration points of R355. At a Palette bank the waiting requesters come with the command: they depend on lane
timing, which the model leaves out. -/
inductive ArbPoint where
  | context (q : Nat) (write : Bool)
  | channel (n : Nat) (write : Bool)
  | ring (hop : Nat)
  | egress (port : Nat)
  | palette (bank : Nat)
  deriving DecidableEq, Repr

/-- The kinds of unit that hold a recovery counter (R418), coded as R425 codes them. -/
inductive UnitKind where
  | lane | channel | link | core | decoder | region
  deriving DecidableEq, Repr

/-- A detection reaching the collector: the oldest raised pin, or one raised by hardware that has no row of its own
(lockstep, SRAM, crossing, lane, decoder, Palette, XTS errors): source, unit, context if any, detail. -/
inductive DetIn where
  | raised
  | pin (src unit : Nat) (ctx : Option Nat) (detail : Nat)
  deriving DecidableEq, Repr

/-- What a cross-check step finds (R423): two idle lanes or two idle cores with their digest pairs, or the third lane. -/
inductive CrossIn where
  | lanes (a b da db : Nat)
  | third (q c dc : Nat)
  | cores (a b da db : Nat)
  deriving DecidableEq, Repr

/-- What a scrub read finds in a word (R422). -/
inductive ScrubIn where
  | clean | corrected | uncorrectable
  deriving DecidableEq, Repr

/-- The tamper sources of R405 and R458. -/
inductive TamperIn where
  | pin | supply | clock | temperature
  deriving DecidableEq, Repr

/-- The AO detectors of R458 beyond their warning threshold. -/
inductive WarnIn where
  | supply (island : Nat)
  | temperature (island : Nat)
  | neighbour (a b : Nat)
  deriving DecidableEq, Repr

/-- The ports that drive lv_alive (R35). -/
inductive LvPort where
  | channel (n : Nat) | stream (n : Nat) | link (n : Nat)
  deriving DecidableEq, Repr

/-- Whose open writes the 4 µs bound of R115 or R178 counts. -/
inductive WriteBound where
  | vi (v : Nat) | context (c : Nat)
  deriving DecidableEq, Repr

/-- The commands, one per row of the table. -/
inductive Instr where
  -- starts and islands
  | coldStart (k : StartIn)
  | warmStart (k : StartIn)
  | islandReset (island : Nat) (release : Bool)
  | readyLocal
  -- memory channels
  | mcReadCredit (ch : Nat)
  | mcWriteCredit (ch : Nat)
  | mcReadResponse (ch tag resp : Nat) (data : Bytes) (par : List Bool) (chk : Bytes)
  | mcWriteResponse (ch tag resp : Nat)
  | tagTimeout (ch : Nat) (write : Bool) (tag : Nat)
  | capIVld (ch : Nat) (cap : Word64)
  | channelModeFix (ch : Nat)
  | channelNegotiationTimeout (ch : Nat)
  | capIVldLoss (ch : Nat)
  | channelWaitRetryTick (ch : Nat)
  | thermChange (ch : Nat) (therm : BitVec 2)
  -- stream ports, request lines, power domains
  | streamIngressBeat (port : Nat) (beat : Beat)
  | streamEgressBeat (port : Nat)
  | drq (line : Nat)
  | pdReq (d : Nat)
  | pdAck (d : Nat)
  | drainBoundExpiry (d : Nat)
  | pdReqRelease (d : Nat)
  -- link training and groups
  | trnDone (port : Nat)
  | rxLockLoss (port : Nat)
  | retrain (port : Nat)
  | fecUncorr (port lane : Nat)
  | trainingTimeout (port : Nat)
  | fencedPortRetry (port : Nat)
  | capabilityResend (port : Nat)
  | idMismatchRepeat (port : Nat)
  | flitGroup (port : Nat) (group : Bytes)
  | linkEgressGroup (port : Nat)
  | linkBlockIdleClose (port : Nat)
  -- messages received on a link
  | write (port : Nat)
  | read (port : Nat)
  | rdata (port : Nat)
  | ack (port : Nat)
  | redAddmod (port : Nat)
  | redFp32 (port : Nat)
  | redBf16 (port : Nat)
  | redMax (port : Nat)
  | redMin (port : Nat)
  | fadd (port : Nat)
  | swatch (port : Nat)
  | keepalive (port : Nat)
  | keepaliveSend (port : Nat)
  | keepaliveLoss (port : Nat)
  | capability (port : Nat)
  | sessionInit (port : Nat)
  | sessionResp (port : Nat)
  | sessionFin (port : Nat)
  | sessionTimeout (port : Nat)
  | sessionRetry (port : Nat)
  | slip (port : Nat)
  | slipQuantum (group : Nat)
  | abort (port : Nat)
  | command (port : Nat)
  | completion (port : Nat)
  | linkTimeout (port rix : Nat)
  | collectiveTimeout (ctx : Nat)
  | creditStall (port vc dl : Nat)
  -- control port
  | registerWrite (addr : Nat) (w : CtlWrite)
  | submissionTail (addr : Nat) (w : CtlWrite)
  | completionHead (addr : Nat) (w : CtlWrite)
  | hostcfg (w : CtlWrite)
  | fltStatus (w : CtlWrite)
  | otpPgo (w : CtlWrite)
  | otpProgramDone (readbackOk : Bool)
  | targetP0 (w : CtlWrite)
  | targetP1 (w : CtlWrite)
  | targetP2 (w : CtlWrite)
  | targetP3 (w : CtlWrite)
  | powerStateEntry
  | powerTransitionDone
  | close (w : CtlWrite)
  | debugUnlockExpiry
  | dbgPcmdRead (w : CtlWrite)
  | dbgPcmdWrite (w : CtlWrite)
  | dbgAtlHalt (w : CtlWrite)
  -- Rinlin commands
  | nop (src : CmdSrc)
  | sqCreate (src : CmdSrc)
  | sqDestroy (src : CmdSrc)
  | cqCreate (src : CmdSrc)
  | cqDestroy (src : CmdSrc)
  | trackerAlloc (src : CmdSrc)
  | trackerFree (src : CmdSrc)
  | canvasCreate (src : CmdSrc)
  | canvasDestroy (src : CmdSrc)
  | programSubmit (src : CmdSrc)
  | chainSubmit (src : CmdSrc)
  | contextResume (src : CmdSrc)
  | contextAbort (src : CmdSrc)
  | contextInspect (src : CmdSrc)
  | poolAlloc (src : CmdSrc)
  | poolFree (src : CmdSrc)
  | instanceCreate (src : CmdSrc)
  | instanceReset (src : CmdSrc)
  | instanceDestroy (src : CmdSrc)
  | setupUpdate (src : CmdSrc)
  | telemetryRead (src : CmdSrc)
  | logConfigure (src : CmdSrc)
  | streamOpen (src : CmdSrc)
  | streamClose (src : CmdSrc)
  | selftest (src : CmdSrc) (found : TestIn)
  | attest (src : CmdSrc)
  | keyGenerate (src : CmdSrc)
  | keyImport (src : CmdSrc)
  | keyDestroy (src : CmdSrc)
  | random (src : CmdSrc)
  | identCertLoad (src : CmdSrc)
  | zeroise (src : CmdSrc)
  | lifecycleAdvance (src : CmdSrc)
  | fwVersionRaise (src : CmdSrc)
  | debugUnlock (src : CmdSrc)
  | status (src : CmdSrc)
  -- channel-program instructions, by context
  | move (ctx : Nat)
  | gather (ctx : Nat)
  | scatter (ctx : Nat)
  | maskmove (ctx : Nat)
  | expand (ctx : Nat)
  | automorph (ctx : Nat)
  | rnscast (ctx : Nat)
  | reduce (ctx : Nat)
  | corner (ctx : Nat)
  | loop (ctx : Nat)
  | endloop (ctx : Nat)
  | waitFlag (ctx : Nat)
  | waitRequestLine (ctx : Nat)
  | waitQueueLevel (ctx : Nat)
  | waitSatisfied (ctx : Nat)
  | flagPoll (ctx : Nat)
  | waitTimeout (ctx : Nat)
  | signalFlag (ctx : Nat)
  | signalTracker (ctx : Nat)
  | signalShift (ctx : Nat)
  | fence (ctx : Nat)
  | fenceComplete (ctx : Nat)
  | flush (ctx : Nat)
  | pred (ctx : Nat)
  | chain (ctx : Nat)
  | endProgram (ctx : Nat)
  | drainComplete (ctx : Nat)
  | unitAdmission (quadrant : Nat)
  | burstGrant (point : ArbPoint)
  | walkComplete (walk : Nat)
  | ringSlotHandover (ctx : Nat)
  | unitCommit (ctx seq unit : Nat)
  | halt (ctx : Nat)
  | windowBoundary (island : Nat)
  -- tamper, faults, maintenance
  | tamperEvent (t : TamperIn)
  | detectorWarning (w : WarnIn)
  | islandClockLoss (island : Nat)
  | obsSel (v : Nat)
  | detection (d : DetIn)
  | quietTimer (kind : UnitKind) (idx : Nat)
  | fltNHoldExpiry
  | recordWrite (ringOk : Bool)
  | crossCheck (c : CrossIn)
  | crossCheckTimeout (quadrant : Nat)
  | scrub (region word : Nat) (found : ScrubIn)
  | probe (receiver : Nat) (step : Int) (endStop : Bool)
  | drbgReseed
  | healthTestFailure
  | lvAliveToggle (port : LvPort)
  | openWriteBoundExpiry (w : WriteBound)
  | portNotReadyTimeout (ctx : Nat)
  deriving DecidableEq, Repr

end Sys2Proof
end

