-- ==== Sys2Proof/Decode.lean ====
section
/-! DEFINITION. The decoder of table words. No row of spec/opcode_table.json gives bits (their encodings are unread and
the block fetches no instruction words), so every word spells no command. -/

namespace Sys2Proof

/-- The command a table word spells: none, as no row gives bits. (DESIGN CHOICE, log 7) -/
def decodeTableWord (_nbits _w : Nat) : Option Instr := none

end Sys2Proof
end

