-- ==== Sys2Proof/Machine/Bits.lean ====
section
/-! DEFINITION. Little-endian fields, bit fields, signed values and the sparse tables that hold registers, buffers and
memories. A table lists only what differs from the value an unlisted key reads as, with strictly rising keys, so that
equal contents are equal data. -/

namespace Sys2Proof

/-- The number whose little-endian bytes are given (R6). -/
def leNat : Bytes → Nat
  | [] => 0
  | b :: bs => b.toNat + 256 * leNat bs

/-- The `n` little-endian bytes of a number. -/
def natLe : Nat → Nat → Bytes
  | 0, _ => []
  | n + 1, v => BitVec.ofNat 8 v :: natLe n (v / 256)

/-- The field of `n` bytes at offset `off` of a record; bytes beyond the record count as 0. -/
def fieldAt (b : Bytes) (off n : Nat) : Nat := leNat ((b.drop off).take n)

/-- Exactly `n` bytes from offset `off`, missing ones 0. -/
def sliceAt (b : Bytes) (off n : Nat) : Bytes :=
  let t := (b.drop off).take n
  t ++ List.replicate (n - t.length) 0

/-- Bits [hi:lo] of a number (R5). -/
def bitsOf (v hi lo : Nat) : Nat := v / 2 ^ lo % 2 ^ (hi + 1 - lo)

/-- Bit `i` of a number. -/
def bitOf (v i : Nat) : Bool := v / 2 ^ i % 2 == 1

/-- The two's complement value of the low `w` bits of `v`. -/
def signedOf (w v : Nat) : Int :=
  let u := v % 2 ^ w
  if 2 * u < 2 ^ w then (u : Int) else (u : Int) - (2 ^ w : Nat)

/-- The low `w` bits of an integer, as a code. -/
def codeOf (w : Nat) (v : Int) : Nat := (v % ((2 ^ w : Nat) : Int)).toNat

/-- Division rounding up. -/
def ceilDiv (a b : Nat) : Nat := (a + b - 1) / b

/-- 1 for true. -/
def b2n (b : Bool) : Nat := if b then 1 else 0

/-- Whether every byte is zero (reserved bytes). -/
def allZero (b : Bytes) : Bool := b.all (· == 0)

/-- The largest power of two not above `x`, 0 for 0 (R190). -/
def pow2floor (x : Nat) : Nat := if x = 0 then 0 else 2 ^ x.log2

/-- Even parity of one byte: 1 when its number of ones is odd (R37). -/
def parityBit (b : Byte) : Bool :=
  (List.range 8).foldl (fun p i => p != bitOf b.toNat i) false

/-- Even parity of each byte of a run. -/
def parityOf (d : Bytes) : List Bool := d.map parityBit

/-- A table of values by number; see the head of this file. -/
abbrev Tab (α : Type) := List (Nat × α)

/-- The value at key `k`, `d` where the table lists none. -/
def Tab.get {α : Type} (d : α) : Tab α → Nat → α
  | [], _ => d
  | (j, v) :: t, k => if j = k then v else Tab.get d t k

/-- The table without key `k`. -/
def Tab.erase {α : Type} : Tab α → Nat → Tab α
  | [], _ => []
  | (j, v) :: t, k => if j = k then Tab.erase t k else (j, v) :: Tab.erase t k

/-- The table with `v` at key `k`, keys kept rising. -/
def Tab.insert {α : Type} : Tab α → Nat → α → Tab α
  | [], k, v => [(k, v)]
  | (j, w) :: t, k, v =>
    if k < j then (k, v) :: (j, w) :: t
    else if j = k then (k, v) :: t
    else (j, w) :: Tab.insert t k v

/-- Writes `v` at key `k`; a value equal to what an unlisted key reads as removes the entry. -/
def Tab.put {α : Type} [DecidableEq α] (d : α) (t : Tab α) (k : Nat) (v : α) : Tab α :=
  if v = d then t.erase k else t.insert k v

/-- Applies `f` at key `k`. -/
def Tab.upd {α : Type} [DecidableEq α] (d : α) (t : Tab α) (k : Nat) (f : α → α) : Tab α :=
  Tab.put d t k (f (Tab.get d t k))

/-- The canonical form: keys strictly rise and no entry equals the default. -/
def Tab.wf {α : Type} [DecidableEq α] (d : α) : Tab α → Bool
  | [] => true
  | [(_, v)] => v != d
  | (j, v) :: (k, w) :: t => v != d && decide (j < k) && Tab.wf d ((k, w) :: t)

/-- Applies `f` to every listed entry. -/
def Tab.mapVals {α : Type} [DecidableEq α] (d : α) (t : Tab α) (f : Nat → α → α) : Tab α :=
  t.foldl (fun a e => Tab.put d a e.1 (f e.1 e.2)) t

/-- The keys listed, rising. -/
def Tab.keys {α : Type} (t : Tab α) : List Nat := t.map (·.1)

/-- The bytes at addresses `a` to `a + n - 1` of a byte table. -/
def readBytes (d : Byte) (t : Tab Byte) (a : Nat) : Nat → Bytes
  | 0 => []
  | n + 1 => Tab.get d t a :: readBytes d t (a + 1) n

/-- Writes a run of bytes from address `a` upward. -/
def writeBytes (d : Byte) (t : Tab Byte) (a : Nat) : Bytes → Tab Byte
  | [] => t
  | b :: bs => writeBytes d (Tab.put d t a b) (a + 1) bs

/-- Merges `new` into `old` under a bit mask, byte by byte: a set mask bit takes the new bit. -/
def mergeMasked : Bytes → Bytes → Bytes → Bytes
  | o :: os, n :: ns, m :: ms => ((o &&& ~~~m) ||| (n &&& m)) :: mergeMasked os ns ms
  | os, _, _ => os

/-- Replaces the element at position `i`. -/
def setAt {α : Type} : List α → Nat → α → List α
  | [], _, _ => []
  | _ :: t, 0, v => v :: t
  | h :: t, i + 1, v => h :: setAt t i v

/-- Overwrites the bytes of a record from offset `off`, keeping its length. -/
def patchAt (b : Bytes) (off : Nat) (v : Bytes) : Bytes :=
  (b.take off ++ v ++ b.drop (off + v.length)).take b.length

/-- The lowest number not in a rising list, from `i` on. -/
def lowestFree : List Nat → Nat → Nat
  | [], i => i
  | k :: ks, i => if k = i then lowestFree ks (i + 1) else i

/-- The lowest index below `n` that a rising list does not hold. -/
def lowestIn (keys : List Nat) (n : Nat) : Option Nat :=
  let i := lowestFree keys 0
  if i < n then some i else none

/-- Applies a step function `n` times. -/
def iterate {α : Type} (f : α → α) : Nat → α → α
  | 0, a => a
  | n + 1, a => iterate f n (f a)

/-! ### Sorting -/

def insertBy {α : Type} (k : α → Nat) (x : α) : List α → List α
  | [] => [x]
  | y :: t => if k x ≤ k y then x :: y :: t else y :: insertBy k x t

/-- Stable insertion sort by a key. -/
def sortBy {α : Type} (k : α → Nat) (l : List α) : List α := l.foldr (insertBy k) []

end Sys2Proof
end

