-- ==== Sys2Proof/Machine/State.lean ====
section
/-! DEFINITION. The state of the block as plain data, part by part, and the state after reset. Every array is a table
(Tab) that lists only the entries that differ from their reset value. INVENTORY.md names the rule behind each part. -/

namespace Sys2Proof.Machine

/-- The block stops the model nowhere: every error the spec names is a status, a halted context, a fault bit or a boot
stage, and so a next state. The type has no constructor: no meaning raises a fault. -/
inductive Fault where
  deriving DecidableEq, Repr

/-- Why a command has no meaning. -/
inductive Refusal where
  /-- Raised by an arm of exec whose row has no meaning yet; safe: the model stops where the block goes on. -/
  | notModelled (mnemonic : String)
  deriving DecidableEq, Repr

/-- The Rinlin statuses of R117; `held` is none of them: an access waits for its power domain (R371, R373). -/
inductive Status where
  | held
  | ok | badHandle | bounds | badType | badOpcode | xlateFault | permission | keySelect
  | busRetryExhausted | uncorrectable | parity | instanceReset | domainOff | thermalStop
  | doubleFree | notOwner | poolEmpty | locked | staleRole | writeOnce | digestMismatch | seedDigest
  | linkDown | route | taskAborted | queueFull
  deriving DecidableEq, Repr

/-! ### Setup image (R84, R110, R340, R342, R365, R415) -/

/-- An instance template (R110, R367). -/
structure Template where
  sq : Nat := 0
  cq : Nat := 0
  trackers : Nat := 0
  canvases : Nat := 0
  contexts : Nat := 0
  palette : Nat := 0
  keys : Nat := 0
  bulk : Bool := false
  remote : Bool := false
  pfWmax : Nat := 0
  rate : Nat := 0
  depth : Nat := 0
  deriving DecidableEq, Repr

/-- A power domain of section 0x0004 (R365). -/
structure Domain where
  valid : Bool := false
  chMask : Nat := 0
  spMask : Nat := 0
  fail : Bool := false
  range : Bool := false
  lo : Nat := 0
  hi : Nat := 0
  deriving DecidableEq, Repr

/-- A group record (R342). -/
structure GroupCfg where
  topo : Nat := 0
  pa : Option Nat := none
  pb : Option Nat := none
  children : Nat := 0
  slipq : Nat := 0
  lo : Nat := 0
  hi : Nat := 0
  slipcap : Nat := 0
  deriving DecidableEq, Repr

/-- What the active setup image settles; the values of R86 with no image. -/
structure Setup where
  chipId : Nat := 0xFFFF
  populated : Nat := 0xFFFFFF
  trusted : Nat := 0
  warmMarch : Nat := 0
  linkCfg : List Nat := [0x18, 0x18, 0x18, 0x18, 0x18, 0x18, 0x18, 0x18]
  neighbours : List Nat := [0xFFFF, 0xFFFF, 0xFFFF, 0xFFFF, 0xFFFF, 0xFFFF, 0xFFFF, 0xFFFF]
  templates : List Template := []
  severities : List Nat := []
  quietUs : Nat := 20000
  limit : Nat := 6
  pct : List Nat := [45, 45, 10]
  domains : List Domain := []
  routed : Bool := false
  routes : Tab Nat := []
  groups : List GroupCfg := []
  steer : Option Bytes := none
  deriving DecidableEq, Repr

/-- Boot progress (R64-R73, R86, R432, R433). -/
structure Boot where
  stage : Nat := 1
  warm : Bool := false
  fwVersion : Nat := 0
  fwDigest : Bytes := []
  fwKey : Bytes := []
  setupKey : Bytes := []
  slotA : Bool := false
  slotB : Bool := false
  active : Option Nat := none
  seq : Nat := 0
  payloadDigest : Bytes := []
  /-- A warm start has been ordered and has not begun. -/
  startPending : Bool := false
  /-- The ordered start goes on with the start-up that a tamper event cut, from step 2 (R73). -/
  again : Bool := false
  /-- The march the next warm start runs: the policy of the setup image last active (R65). -/
  policy : Nat := 0
  /-- A start that waits before step 3 for M0: the march it runs and what it meets (R66). -/
  stalled : Option (Nat × StartIn) := none
  /-- The ordered start runs a destructive march (R408). -/
  destructive : Bool := false
  /-- A tamper event met the block in P3: the warm start waits for the exit (R405). -/
  tamperHeld : Bool := false
  /-- RESET_CHIP is in force (R414). -/
  resetChip : Bool := false
  deriving DecidableEq, Repr

/-- Islands, numbered by their flt_safe bit (R60). -/
structure Islands where
  /-- Islands out of reset. -/
  out : Tab Bool := []
  safe : BitVec 38 := 0
  /-- Window counters (R463), at the value of the last boundary or reset release. -/
  win : Tab Nat := []
  /-- lv_alive levels: channels 0-23, stream ports 32-39, links 40-47. -/
  alive : Tab Bool := []
  lost : Tab Bool := []
  deriving DecidableEq, Repr

/-! ### Accesses -/

/-- Whose access a granule request is. -/
inductive Owner where
  /-- A source burst; `run` tells the bursts of a unit apart. -/
  | unitRead (ctx seq unit run : Nat)
  | unitWrite (ctx seq unit burst : Nat)
  | readback (ctx : Nat)
  | signal (ctx : Nat)
  /-- An instruction fetch of a context (R145), and the flag read of a WAIT or PRED (R163, R171). -/
  | fetch (ctx : Nat)
  | flag (ctx : Nat)
  /-- A granule of a record on another chip, read for a context's row, or for the Atelier (256) (R276, R330). -/
  | recRead (reader : Nat)
  /-- The walker's read of a table entry, on behalf of a context that missed (R289). -/
  | walk (id ctx : Nat)
  /-- A record the Atelier writes on another chip: a completion entry, a tracker word, a report (R305); the completion queue whose
  entry it is, and the number of the command that writes it. -/
  | record (cq : Option Nat) (job : Nat)
  /-- Its answer is discarded (R115, R178). -/
  | discard
  /-- A Palette write-back (R310); the context of the FLUSH, none for an eviction or a free. -/
  | writeback (ctx : Option Nat)
  /-- A request received over a link: port, rix, source chip, ordered stream key (none when unordered). -/
  | remote (port rix chip : Nat) (stream : Option Nat) (reply : Bool)
  deriving DecidableEq, Repr

/-- One element a read-modify-write combines: byte offset in the granule, operand code and modulus. -/
structure RedElt where
  off : Nat
  val : Nat
  q : Nat
  deriving DecidableEq, Repr

/-- What a read-modify-write does to the granule it read (R142, R220, R339, R389). -/
inductive Rmw where
  | merge
  | reduce (mode type : Nat) (elts : List RedElt)
  | addFlag (off size val : Nat)
  deriving DecidableEq, Repr

/-- A request for one granule (R37-R42). -/
structure Acc where
  ch : Nat
  /-- PA[47:8]. -/
  gran : Nat
  owner : Owner
  write : Bool
  /-- 256 data bytes of a write, and the bit mask of what it changes. -/
  data : Bytes
  mask : Bytes
  /-- The first byte of interest and their number, and the VA of the first. -/
  off : Nat
  len : Nat
  va : Nat
  vi : Nat
  ksel : Nat
  retries : Nat
  /-- The tag an answered access reissues on (R41). -/
  tag : Option Nat
  rmw : Option Rmw
  /-- The read-modify-write's read has returned and its value is combined (R220). -/
  combined : Bool
  /-- The read fills a Palette line (R309). -/
  fill : Bool
  /-- Made on behalf of a request received over a link (R363). -/
  remoteClass : Bool
  deriving DecidableEq, Repr

/-- A write request as it stands at a channel's port (R37, R40): granule, tag, data, byte enables, byte parity, and the
check bits of a channel that negotiated an ECC symbol mode, else none (R23). -/
structure WriteReq where
  gran : Nat
  tag : Nat
  data : Bytes
  be : List Bool
  par : List Bool
  chk : Bytes
  deriving DecidableEq, Repr

/-- Negotiated mode of a channel (R76). -/
structure ChanMode where
  full : Bool
  run : Nat
  sym8 : Bool
  therm : Bool
  drainable : Bool
  trusted : Bool
  tagMax : Nat
  deriving DecidableEq, Repr

/-- Where a channel stands (R77, R78, R419). -/
inductive ChanService where
  | reset | offered | inService | lost | fenced
  deriving DecidableEq, Repr

/-- A memory channel interface. -/
structure Chan where
  service : ChanService := .reset
  rcred : Nat := 0
  wcred : Nat := 0
  rtags : List (Nat × Acc) := []
  wtags : List (Nat × Acc) := []
  rquar : List Nat := []
  wquar : List Nat := []
  rwait : List Acc := []
  wwait : List Acc := []
  capO : Word64 := 0
  capOVld : Bool := false
  capI : Option Word64 := none
  mode : Option ChanMode := none
  therm : BitVec 2 := 0
  budget : Nat := 0
  used : Nat := 0
  tokR : Nat := 0
  tokW : Nat := 0
  tokX : Nat := 0
  /-- The last read request presented, granule and tag, and the last write request. -/
  rqOut : Option (Nat × Nat) := none
  wqOut : Option WriteReq := none
  /-- The accesses of rows that wait since they found the channel lost: reader, granule, RETRYs counted (R78). -/
  found : List (Nat × Nat × Nat) := []
  deriving DecidableEq, Repr

/-! ### Canvases (R118-R141, R236) -/

structure Canvas where
  base : Nat := 0
  allocBase : Nat := 0
  allocLen : Nat := 0
  e : List Nat := [1, 1, 1, 1, 1]
  s : List Int := [0, 0, 0, 0, 0]
  type : Nat := 0
  cls : Nat := 0
  layout : Nat := 0
  cached : Bool := false
  compressed : Bool := false
  lparam : Nat := 0
  link : Nat := 0
  shift : Int := 0
  grpDim : Nat := 0
  grpLog : Nat := 0
  satThr : Nat := 0
  mSteps : Nat := 0
  rank : Nat := 1
  bmask : Nat := 0
  writable : Bool := false
  scale2 : Nat := 0
  padLo : List Nat := [0, 0, 0, 0, 0]
  padHi : List Nat := [0, 0, 0, 0, 0]
  modtab : Nat := 0
  deriving DecidableEq, Repr

/-- Tint's statistics record of a canvas slot (R236-R240). -/
structure Stats where
  amax : Nat := 0
  nsat : Nat := 0
  nquart : Nat := 0
  nelem : Nat := 0
  below : Nat := 0
  prop : Int := 0
  steps : Nat := 0
  deriving DecidableEq, Repr

structure Slot where
  used : Bool := false
  canvas : Canvas := {}
  vi : Nat := 0
  gen : Nat := 0
  uses : Nat := 0
  /-- When the slot was last freed, in frees since the start (R118). -/
  freedAt : Nat := 0
  stats : Stats := {}
  deriving DecidableEq, Repr

structure CanvTable where
  slots : Tab Slot := []
  frees : Nat := 0
  deriving DecidableEq, Repr

/-! ### Rinlin (R90-R117) -/

/-- Where a completion goes (R90). -/
inductive Path where
  | mailbox (vi : Nat)
  | privileged
  | queue (i : Nat) (head : Nat)
  | mgmt (chip req vi : Nat)
  deriving DecidableEq, Repr

/-- What a command's completion needs. -/
structure Reply where
  path : Path
  vi : Nat
  tag : Nat
  opcode : Nat
  quiet : Bool
  deriving DecidableEq, Repr

/-- A completion (R106), without its phase. -/
structure Cpl where
  status : Nat
  tag : Nat
  opcode : Nat
  sq : Nat
  result : Nat
  detail : Nat
  sqHead : Nat
  deriving DecidableEq, Repr

structure Sq where
  live : Bool := false
  vi : Nat := 0
  base : Nat := 0
  k : Nat := 0
  direct : Bool := false
  cq : Nat := 0
  head : Nat := 0
  tail : Nat := 0
  fill : Nat := 0
  /-- Commands started and not ended. -/
  started : Nat := 0
  /-- An SQ_DESTROY or CQ_DESTROY works on the queue (R105). -/
  dying : Bool := false
  /-- The SQ_DESTROY to complete when the started commands have ended. -/
  owed : Option Reply := none
  deriving DecidableEq, Repr

structure Cq where
  live : Bool := false
  vi : Nat := 0
  base : Nat := 0
  k : Nat := 0
  irq : Bool := false
  group : Nat := 0
  head : Nat := 0
  tail : Nat := 0
  phase : Bool := true
  /-- Completions held while the ring is full (R100), or while an entry's write to another chip awaits its answer
  (`out`, R305). -/
  waiting : List Cpl := []
  out : Bool := false
  /-- A CQ_DESTROY works on the queue (R105): completions owed to it are dropped. -/
  dying : Bool := false
  owed : Option Reply := none
  deriving DecidableEq, Repr

structure Mbox where
  cmd : Bytes := List.replicate 64 0
  cpl : Bytes := List.replicate 32 0
  busy : Bool := false
  done : Bool := false
  /-- The Atelier has taken the command. -/
  taken : Bool := false
  deriving DecidableEq, Repr

/-- `told`: the word in memory holds the count (R107). -/
structure Tracker where
  vi : Nat
  va : Nat
  count : Nat
  told : Bool := false
  deriving DecidableEq, Repr

/-- A virtual instance (R109). `stage` is the step of a running INSTANCE_RESET or INSTANCE_DESTROY (R115), 0 when none;
`owed` the commands answered when it ends (R116). -/
structure Vinst where
  live : Bool := false
  gen : Nat := 0
  tpl : Template := {}
  root : Nat := 0
  stage : Nat := 0
  destroying : Bool := false
  owed : List Reply := []
  later : List Reply := []
  bucket : Nat := 0
  deriving DecidableEq, Repr

/-- A command's completion that waits for the command's writes on another chip (R305). -/
structure Job where
  reply : Reply
  status : Status
  result : Nat
  detail : Nat
  deriving DecidableEq, Repr

structure Rin where
  sqs : Tab Sq := []
  cqs : Tab Cq := []
  mboxes : Tab Mbox := []
  trackers : List (Nat × Tracker) := []
  vis : Tab Vinst := []
  tokPa : Word64 := 0
  tokLen : Word64 := 0
  jobs : List (Nat × Job) := []
  nextJob : Nat := 0
  /-- Round robin (R98): the instance served last, and of each instance the queue served last. (DESIGN CHOICE, log 46) -/
  lastVi : Nat := 255
  lastSq : Tab Nat := []
  deriving DecidableEq, Repr

/-! ### Contexts (R143-R179) -/

inductive CtxState where
  | free | running | waiting | halted
  deriving DecidableEq, Repr

/-- One loop level (R158): the LOOP's address, its ENDLOOP's address, iterations left and the iteration index. -/
structure LoopLevel where
  start : Nat
  stop : Nat
  left : Nat
  it : Nat
  deriving DecidableEq, Repr

/-- What a context waits for: WAITING at a WAIT, a ring or a full completion queue (R163-R165, R173, R100), or still
RUNNING while the flag read of a PRED is under way (R171). -/
inductive WaitFor where
  | flag (va width cmp val : Nat) (cached : Bool)
  | pred (cmp val : Nat)
  | line (i : Nat)
  | level (q n high low : Nat)
  | ring
  | cqFull
  deriving DecidableEq, Repr

/-- An element of a work unit. Positions count nibbles: of a byte address, of a stream, or of Gesso's output. Source none:
nothing is read and the zero encoding is written. Limbs index the modulus entries; `scale` is the position of its scale
element. A `tail` is the second part of an element split at a 2,048-byte address (R159), counted in its first unit. `img` is the image of an
AUTOMORPH it belongs to (R205), `occ` the index occurrence of a GATHER it is read for (R246), `blk` the raw block that feeds its
burst, plus 1, where bursts are cut at raw blocks (R267). -/
structure UElem where
  src : Option Nat
  dst : Nat
  slimb : Nat := 0
  dlimb : Nat := 0
  scale : Option Nat := none
  neg : Bool := false
  tail : Bool := false
  img : Nat := 0
  occ : Nat := 0
  blk : Nat := 0
  /-- A zero position of an interleaved tile group (R128). -/
  fill : Bool := false
  deriving DecidableEq, Repr

/-- A run of source bytes not yet read: VA, length, data class. -/
structure Run where
  va : Nat
  len : Nat
  cls : Nat
  deriving DecidableEq, Repr

/-- A destination burst (R159, R176). -/
structure Burst where
  num : Nat
  va : Nat
  data : Bytes
  mask : Bytes
  red : List RedElt
  deriving DecidableEq, Repr

inductive UnitPhase where
  | waiting | reading | writing | committed | failed
  deriving DecidableEq, Repr

/-- A Swatch decoder at work for a unit: the block it holds, the vectors it has still to emit, and the output in its
buffer once it has the block's bytes (R266, R267). -/
structure Decoding where
  block : Nat
  dec : Nat
  left : Nat := 0
  out : Option Bytes := none
  deriving DecidableEq, Repr

/-- A work unit (R180). -/
structure WorkUnit where
  n : Nat
  firstBurst : Nat
  nBursts : Nat
  elems : List UElem
  phase : UnitPhase := .waiting
  lane : Option Nat := none
  /-- The unit still holds its lane. -/
  onLane : Bool := false
  /-- The Swatch decoders that hold its blocks, and the blocks its lane has drained, decoded (R267). -/
  decs : List Decoding := []
  raw : List (Nat × Bytes) := []
  /-- Its source runs, those not yet granted, and the bytes read, by VA. -/
  reads : List Run := []
  runs : List Run := []
  got : List (Nat × Byte) := []
  /-- Stream or ring bytes of the execution the unit needs. -/
  need : Nat := 0
  writes : List Burst := []
  dsrc : Nat := 0
  ddst : Nat := 0
  stats : Stats := {}
  /-- A failure known before the unit starts, and its VA (R245, R251). -/
  fail : Option (Status × Nat) := none
  deriving DecidableEq, Repr

/-- The path an execution takes through Tint (R218, R224). -/
inductive Cast where
  | bypass | container | lift | modred | scale | plain | expand | rns
  deriving DecidableEq, Repr

/-- The Swatch header and tables an execution read (R262-R263). -/
structure SwatchHdr where
  cbits : Nat := 8
  lr : Nat := 0
  area : Nat := 0
  codebook : Bytes := []
  index : List Nat := []
  deriving DecidableEq, Repr

/-- One execution of a data instruction, with everything it sampled at its start (R148, R187). -/
structure Exec where
  seq : Nat
  pcA : Nat
  ins : Bytes
  /-- Iteration indices of the loops open at its start, and their remaining counts. -/
  its : List Nat
  lefts : List Nat := []
  src : Canvas
  dst : Canvas
  /-- The destination's slot, and the use of it that the handle named. -/
  dstSlot : Nat
  dstUses : Nat := 0
  cast : Cast
  scale : Option Canvas
  smods : List Nat
  dmods : List Nat
  /-- Seed records in the order of R215, and the (record, limb) streams handed to Gesso cores, each with its core
  (R216). -/
  seeds : List Bytes
  streams : List (Nat × Nat × Nat) := []
  swatch : SwatchHdr
  /-- Units have closed element sets (R201); slices of a SCATTER collide (R246). -/
  closed : Bool
  race : Bool := false
  units : List WorkUnit := []
  dsrc : Nat := 0
  ddst : Nat := 0
  /-- Destination bursts complete, and those one of whose writes failed (R176). -/
  doneBursts : List Nat := []
  badBursts : List Nat := []
  /-- Execution footprints in VAs (R161), none for a side outside memory. -/
  sfoot : Option (Nat × Nat) := none
  dfoot : Option (Nat × Nat) := none
  stopped : Bool := false
  /-- The execution holds a codebook store, which its unit `loader` loads (R268). -/
  store : Bool := false
  loader : Option Nat := none
  /-- The request line that paces it (R164). -/
  line : Option Nat := none
  /-- Stream numbers of its port sides, and the bytes of its source stream or ring: received and in all. -/
  snum : Nat := 0
  dnum : Nat := 0
  sgot : Bytes := []
  slen : Nat := 0
  /-- Output for its destination stream or ring: nibbles by place, not yet in order; in bytes, the next to leave, the number in all, the
  tile ends, and how many have transferred. -/
  out : List (Nat × Nat) := []
  outNext : Nat := 0
  outLen : Nat := 0
  tileEnds : List Nat := []
  sent : Nat := 0
  /-- The failure of a digest compare waits for the next instruction boundary (R176, R201). -/
  mismatch : Bool := false
  deriving DecidableEq, Repr

/-- What a SIGNAL does (R167), with everything it sampled at its start. -/
inductive SigAct where
  | flag (va size : Nat) (cached add : Bool) (val : Nat)
  | tracker (i : Nat) (add : Bool) (val : Nat)
  /-- The slot and the use of it that the handle named. -/
  | shift (slot uses : Nat) (apply : Bool) (val : Nat)
  deriving DecidableEq, Repr

/-- A drain in progress (R168): the FINAL write that issues when it ends, none for END, and whether its read-backs have
been issued. -/
structure Drain where
  act : Option SigAct
  readbacks : Bool
  deriving DecidableEq, Repr

structure Fence where
  /-- Executions before this number are earlier (R169). -/
  seq : Nat
  rd : Bool
  wr : Bool
  sc : Bool
  deriving DecidableEq, Repr

/-- A small read of a context under way (R145, R163, R171): the VA and length it reads, and the bytes that have come, by
VA. -/
structure SmallRead where
  va : Nat
  len : Nat
  cached : Bool := false
  /-- The page walk it waits for, before it is issued. -/
  walk : Option Nat := none
  got : List (Nat × Byte) := []
  deriving DecidableEq, Repr

structure Ctx where
  st : CtxState := .free
  epoch : Nat := 0
  vi : Nat := 0
  gen : Nat := 0
  weight : Nat := 0
  limit : Nat := 3
  failPolicy : Bool := false
  prog : Nat := 0
  pc : Nat := 0
  ibuf : List (Nat × Bytes) := []
  /-- The instruction fetch, and the flag read of a WAIT or PRED, under way. -/
  fetch : Option SmallRead := none
  /-- A fetch that failed: the address it began at, its status, the VA that failed and its retries. -/
  fetchBad : Option (Nat × Status × Nat × Nat) := none
  load : Option SmallRead := none
  /-- The address of an instruction that waits for what is before it (R47). -/
  stuckAt : Option Nat := none
  loops : List LoopLevel := []
  pred : Bool := true
  hystQ : Option Nat := none
  hystHigh : Bool := false
  wait : Option WaitFor := none
  timeout : Nat := 0
  paced : Option Nat := none
  execs : List Exec := []
  nextSeq : Nat := 0
  drain : Option Drain := none
  fence : Option Fence := none
  owed : Option Reply := none
  owedResult : Bool := true
  /-- A halt that has begun (R176): status and faulting VA. -/
  halting : Option (Status × Nat) := none
  /-- The execution that halts, none for the current instruction; and the address of the halted instruction. -/
  haltSeq : Option Nat := none
  haltPc : Nat := 0
  haltStatus : Nat := 0
  haltRetries : Nat := 0
  faultVa : Nat := 0
  resume : Nat := 0
  mask : Nat := 0
  /-- Last granule written per destination since the previous drain (R168): key, VA, access. -/
  lastW : List (Nat × Acc) := []
  /-- The burst stalls on this page walk (R290). -/
  walk : Option Nat := none
  /-- Groups the context takes part in, with the epoch recorded (R345). -/
  groups : List (Nat × Nat) := []
  slip : Nat := 0
  chain : Option (Nat × Nat) := none
  /-- Buffers the context names, by first unit (R113). -/
  bufs : List Nat := []
  /-- CONTEXT_ABORT is at work (R178), and the commands it answers. -/
  aborting : Bool := false
  aborts : List Reply := []
  deriving DecidableEq, Repr

/-- A chain ring between two stages (R172, R173). -/
structure Ring where
  buf : Nat
  slotLog : Nat
  count : Nat
  full : List Bytes := []
  cur : Bytes := []
  eoc : Bool := false
  deriving DecidableEq, Repr

structure Chain where
  live : Bool := false
  vi : Nat := 0
  stages : List Nat := []
  rings : List Ring := []
  ended : List Nat := []
  owed : Option Reply := none
  result : Nat := 0
  /-- The job of the stage records' writes to another chip, and the first of them that failed (R305). -/
  job : Option Nat := none
  lost : Option (Status × Nat) := none
  deriving DecidableEq, Repr

/-! ### Palette (R112, R292, R308, R422) -/

structure PoolSlot where
  alloc : Bool := false
  freeing : Bool := false
  count : Nat := 0
  units : Nat := 0
  use : Nat := 0
  vi : Nat := 0
  gen : Nat := 0
  /-- Role epoch of a ring, 0 before the unit's first. (DESIGN CHOICE, log 2) -/
  epoch : Nat := 0
  owed : Option Reply := none
  /-- First failing write-back of a free and the number of lines lost (R464). -/
  wbFail : Option (Nat × Nat) := none
  wbLost : Nat := 0
  deriving DecidableEq, Repr

/-- A cache line (R308, R309): its buffer's first unit and its place in the buffer; its bytes stand in the Palette.
`filling`: the granule is being read into it; `writing`: a write-back is under way; `newer`: written since it began; `drop`:
the line goes when it ends. -/
structure Line where
  buf : Nat
  pos : Nat
  vi : Nat
  ksel : Nat
  dirty : Bool := false
  stamp : Nat := 0
  filling : Bool := false
  writing : Bool := false
  newer : Bool := false
  drop : Bool := false
  deriving DecidableEq, Repr

structure Palette where
  mem : List Host.Cell := []
  slots : Tab PoolSlot := []
  lines : List (Nat × Line) := []
  stamp : Nat := 0
  /-- Words (by 64-byte word number) that read uncorrectable (R422). -/
  badWords : List Nat := []
  /-- Rows mapped onto spares this start: region and row (R424). -/
  spared : List (Nat × Nat) := []
  deriving DecidableEq, Repr

/-! ### Translation (R288, R289) -/

structure TlbEntry where
  vi : Nat
  gen : Nat
  va : Nat
  log : Nat
  leaf : Nat
  deriving DecidableEq, Repr

structure PtrEntry where
  vi : Nat
  gen : Nat
  level : Nat
  va : Nat
  table : Nat
  deriving DecidableEq, Repr

/-- What a walk has found: the leaf and its level, or the status it fails with. -/
inductive Found where
  | leaf (e level : Nat)
  | fail (s : Status)
  deriving DecidableEq, Repr

/-- Who waits for a walk: a context with a burst, of an execution at a VA, with its fetch, or with its flag read. -/
inductive Waiter where
  | burst (ctx seq va : Nat)
  | fetch (ctx va : Nat)
  | flag (ctx va : Nat)
  deriving DecidableEq, Repr

structure Walk where
  vi : Nat
  gen : Nat
  va : Nat
  waiters : List Waiter
  discard : Bool
  /-- The walk has one of the 64 places (R289); one without waits for a place. -/
  running : Bool := false
  /-- The level and table whose entry is read next, and what the walk has found. -/
  level : Nat := 3
  table : Nat := 0
  found : Option Found := none
  /-- Retries of the entry read that failed. -/
  tries : Nat := 0
  /-- The pointer entries passed (R289). -/
  passed : List PtrEntry := []
  deriving DecidableEq, Repr

structure Xlate where
  l1 : Tab (List TlbEntry) := []
  /-- The second level, slice by slice (R16, R288). -/
  l2 : Tab (List TlbEntry) := []
  ptrs : List PtrEntry := []
  walks : List (Nat × Walk) := []
  nextWalk : Nat := 0
  deriving DecidableEq, Repr

/-! ### Arbitration (R357-R361) -/

structure ArbReq where
  bound : Bool := false
  ctr : Int := 0
  marked : Bool := false
  granted : Bool := false
  deriving DecidableEq, Repr

structure Arb where
  reqs : Tab ArbReq := []
  /-- One above the requester last granted. -/
  next : Nat := 0
  lock : Option (Nat × Nat) := none
  /-- Of a path of a context arbiter: who was granted in the first slot of the present cycle (R194, R359). -/
  prev : Option Nat := none
  beats : Nat := 0
  deriving DecidableEq, Repr

/-! ### Stream ports, request lines, power domains -/

/-- (DEDUCED, log 73) -/
structure StreamNo where
  egress : Bool
  vi : Nat
  handle : Nat
  layout : Nat
  inbuf : Bytes
  ended : Bool
  /-- A bad beat has failed its consuming transfer (R46). -/
  bad : Bool := false
  deriving DecidableEq, Repr

/-- An egress beat with the execution it belongs to. -/
structure OutBeat where
  beat : Beat
  ctx : Nat
  seq : Nat
  /-- The last of its execution: it waits until eoc is settled (R47). -/
  last : Bool := false
  deriving DecidableEq, Repr

structure SPort where
  ready : Bool := false
  openNos : List (Nat × StreamNo) := []
  out : List OutBeat := []
  deriving DecidableEq, Repr

structure Drq where
  held : Bool := false
  ack : Bool := false
  pacing : Option Nat := none
  deriving DecidableEq, Repr

/-- A power domain's handshake (R58): pd_req as seen, pd_ack, and the drain between them. -/
structure PDom where
  req : Bool := false
  ack : Bool := false
  drain : Bool := false
  deriving DecidableEq, Repr

/-! ### Links (R48, R80, R317-R336, R391) -/

/-- A flit (R319). -/
structure Flit where
  vc : Nat
  dl : Nat
  eom : Bool
  op : Nat
  dst : Nat
  src : Nat
  rix : Nat
  vi : Nat
  ksel : Nat
  addr : Nat
  aux : Nat
  hops : Nat
  payload : Bytes
  deriving DecidableEq, Repr

inductive LinkPhase where
  | reset | training | exchange | session | ready | down | fenced
  deriving DecidableEq, Repr

/-- A port's session (R391-R394): this side's part; `started` from the first session message on; the message words and bodies of
SESSION_INIT and of SESSION_RESP; the secrets; key generations by direction; whether a group under the keys has been
received; and the MGMT flits still to leave before sending switches to the keys. -/
structure Session where
  initiator : Bool := false
  started : Bool := false
  established : Bool := false
  waitRetry : Bool := false
  initMsg : Bytes := []
  respMsg : Bytes := []
  dk : Bytes := []
  secret : Bytes := []
  transcript : Bytes := []
  txGen : Nat := 0
  rxGen : Nat := 0
  rxOn : Bool := false
  clear : Nat := 0
  deriving DecidableEq, Repr

/-- A remote request of this block awaiting its answer (R330). -/
structure RemReq where
  acc : Acc
  chip : Nat
  op : Nat
  group : Option Nat
  /-- A SWATCH request: the other granules its block holds, and its record (R273). -/
  also : List Acc := []
  record : Bytes := []
  /-- A write held for its link's encoder (R271). -/
  enc : Bool := false
  deriving DecidableEq, Repr

/-- The link encoder's holder and its open link block (R272). -/
structure Encoder where
  ctx : Nat
  seq : Nat
  /-- The chip of the open block; the chips with a record stream open, each with whether it travels on COLL; and those
  whose end record is due. -/
  chip : Nat
  chips : List (Nat × Bool)
  ends : List Nat
  cbits : Nat
  codebook : Bytes
  /-- PA of the block's first byte, its bytes, and the writes they come from. -/
  addr : Nat
  data : Bytes
  accs : List Acc
  deriving DecidableEq, Repr

structure Link where
  phase : LinkPhase := .reset
  laneEn : Nat := 0
  rate : Nat := 0
  fec : Nat := 0
  trnReq : Bool := false
  lanes : Nat := 0
  /-- The lane count failed trainings have narrowed the port to (R81). -/
  narrow : Nat := 8
  everReady : Bool := false
  epoch : Nat := 0
  peerCap : Option Nat := none
  mismatch : Bool := false
  seqTx : Nat := 0
  seqRx : Nat := 0
  nak : Bool := false
  /-- The next group to resend (R326). -/
  resendAt : Option Nat := none
  replay : List (Nat × Bytes) := []
  resends : Tab Nat := []
  credits : Tab Nat := []
  owe : Tab Nat := []
  egress : Tab (List Flit) := []
  /-- Flits granted a slot of the next group, and the MGMT class whose message has begun to leave (R325, R331). -/
  staged : List Flit := []
  /-- Groups sent since the last IDLE flit (R459). -/
  busyGroups : Nat := 0
  mgmtOpen : Option Nat := none
  /-- Received flits of requests and responses, in order; a SWATCH message stands in one with all its payload. -/
  ingress : List Flit := []
  /-- Messages received in part: SWATCH by class and source, and MGMT. -/
  swPart : List Flit := []
  mgPart : List Flit := []
  /-- MGMT messages dropped because another's flits came between theirs (R336): source, destination, dateline. -/
  mgBad : List (Nat × Nat × Nat) := []
  /-- MGMT messages delivered: type, source chip, body. -/
  inbox : List (Nat × Nat × Bytes) := []
  txOut : Bytes := []
  sess : Session := {}
  kaEcho : Nat := 0
  kaAt : Nat := 0
  latency : Nat := 0
  peerHeld : Bool := false
  fecCount : Nat := 0
  resent : Nat := 0
  reqs : List (Nat × RemReq) := []
  store : Option (Nat × Bytes) := none
  encoder : Option Encoder := none
  deriving DecidableEq, Repr

/-! ### The inter-quadrant ring (R19, R183, R184) -/

/-- Data that crosses the ring: a write to its channel, read data to its requester, an egress beat to its port, ingress
bytes to the execution that takes them, flits to a link port, a write for a chip to the encoder of its link. -/
inductive RingLoad where
  | write (a : Acc)
  | read (a : Acc) (d : Bytes)
  | egress (port : Nat) (o : OutBeat)
  | ingress (ctx seq : Nat) (d : Bytes)
  | flits (port : Nat) (l : List Flit)
  | encode (port chip : Nat) (a : Acc)
  deriving DecidableEq, Repr

/-- What waits at a ring hop: its requester, the hops it has still to take after this one, the 256-byte beats it has
still to pass here, and what it carries. -/
structure RingItem where
  req : Nat
  path : List Nat
  beats : Nat
  size : Nat
  load : RingLoad
  deriving DecidableEq, Repr

/-- What waits at a Palette bank (R355): its requester, the 64-byte words it has still to pass, and the access: to the
scratchpad window, at the Palette offset of its granule, or to a cache line. -/
structure PalItem where
  req : Nat
  words : Nat
  acc : Acc
  off : Option Nat
  deriving DecidableEq, Repr

/-! ### Faults and Sketchbook (R411-R428) -/

structure Pin where
  src : Nat
  unit : Nat
  status : Nat
  vi : Nat
  ctx : Nat
  detail : Nat
  /-- The unit was fenced upon this very detection (R76, R77). -/
  own : Bool := false
  deriving DecidableEq, Repr

structure Rec where
  time : Nat
  src : Nat
  kind : Nat
  sev : Nat
  unit : Nat
  status : Nat
  vi : Nat
  ctx : Nat
  pending : Nat
  detail : Nat
  lost : List Nat
  deriving DecidableEq, Repr

inductive Health where
  | inService | fault | fenced
  deriving DecidableEq, Repr

structure UnitHealth where
  state : Health := .inService
  counter : Nat := 0
  deriving DecidableEq, Repr

structure Faults where
  status : Word64 := 0
  mask : Word64 := 0
  /-- The 160 ns hold of flt_n runs; flt_n is held from a RESET_BLOCK latch until READY_LOCAL (R417). -/
  hold : Bool := false
  resetHold : Bool := false
  counts : Tab Nat := []
  units : Tab UnitHealth := []
  pins : List Pin := []
  queue : List Rec := []
  nextSeq : Nat := 1
  lost : List Nat := [0, 0, 0, 0, 0, 0, 0, 0]
  hadLoss : Bool := false
  first : List (Nat × Bytes) := []
  ringPa : Nat := 0
  ringOn : Bool := false
  ringIdx : Nat := 0
  traceOn : Bool := false
  trace : Bytes := []
  cross : Tab (Option (Nat × Nat × Nat × Nat)) := []
  lastLane : List Nat := [15, 31, 47, 63]
  /-- The Gesso core last handed a stream, per quadrant (R216). -/
  lastCore : List Nat := [47, 95, 143, 191]
  deriving DecidableEq, Repr

/-! ### Security (R382, R386-R395) -/

structure KeySlot where
  live : Bool := false
  key : Bytes := []
  vi : Nat := 0
  gen : Nat := 0
  imported : Bool := false
  revoked : Bool := false
  owed : Option Reply := none
  deriving DecidableEq, Repr

structure Sec where
  keys : Tab KeySlot := []
  handleKey : Bytes := []
  identPub : Bytes := []
  identPriv : Bytes := []
  importPub : Bytes := []
  importPriv : Bytes := []
  nonce : Bytes := List.replicate 32 0
  drbgOn : Bool := false
  drbgCount : Nat := 0
  cert : Option Bytes := none
  deriving DecidableEq, Repr

/-! ### Registers and power (R432, R442, R448, R451) -/

/-- The last control-port response (R52). -/
structure CtlRsp where
  err : Bool := false
  status : Nat := 0
  deriving DecidableEq, Repr

structure Regs where
  hostcfg : Word64 := 0
  otpPrec : Word64 := 0
  otpBusy : Bool := false
  otpDone : Bool := false
  otpFail : Bool := false
  otpGen : Nat := 0
  otpCode : Nat := 0
  otpBuf : Tab Nat := []
  /-- The generation being programmed: record, generation, words. -/
  otpJob : Option (Nat × Nat × List Nat) := none
  dbgUnlocked : Bool := false
  dbgUntil : Option Nat := none
  dbgMask : Nat := 0
  dbgPaddr : Word64 := 0
  dbgPdata : Tab Nat := []
  atlHalt : Bool := false
  rsp : Option CtlRsp := none
  deriving DecidableEq, Repr

structure Power where
  ctl : Word64 := 0
  state : Nat := 0
  busy : Option Nat := none
  pending : Option Nat := none
  auto : Bool := false
  deferred : Option Nat := none
  deriving DecidableEq, Repr

/-- The answer to a read of a record's granule on another chip: its reader, the instance and VA of the granule, a status, the
bytes. -/
structure RecAnswer where
  reader : Nat
  vi : Nat
  va : Nat
  status : Status
  data : Bytes
  deriving DecidableEq, Repr

structure Xing where
  tap : Nat := 0
  /-- The tap moved at the last probe. -/
  moved : Bool := false
  ivl : Nat := 16
  probes : Nat := 0
  stop : Bool := false
  deriving DecidableEq, Repr

structure GroupSt where
  epoch : Nat := 0
  slip : Nat := 0
  deriving DecidableEq, Repr

/-! ### The always-on island and the control crossing into it (R15) -/

/-- What the rest of the block asks of the AO island: count a security event, report a refused write under RWL, WOT or
WOL (offset, instance, status), program a fuse, show zeroisation. -/
inductive AoEvent where
  | security
  | violation (off vi status : Nat)
  | fuse (bit : Nat)
  | zeroised
  | tampered
  deriving DecidableEq, Repr

structure AO where
  /-- rst_ao_n is high. -/
  on : Bool := false
  fuses : List Nat := []
  shadow : List Nat := []
  /-- The shadow as the last start found it: the generations in use until the next (R440, R444). -/
  inUse : List Nat := []
  /-- The count bit of a tamper event has still to be programmed (R405, R406). -/
  countDue : Bool := false
  badWords : List Nat := []
  secEvents : Nat := 0
  viol : Bool := false
  violInfo : Word64 := 0
  zeroised : Bool := false
  aotime : Word64 := 0
  deriving DecidableEq, Repr

/-- Everything outside the always-on island. -/
structure Block where
  boot : Boot := {}
  setup : Setup := {}
  islands : Islands := {}
  chans : Tab Chan := []
  sports : Tab SPort := []
  links : Tab Link := []
  rin : Rin := {}
  canv : CanvTable := {}
  ctxs : Tab Ctx := []
  chains : Tab Chain := []
  pal : Palette := {}
  xl : Xlate := {}
  arb : Tab Arb := []
  /-- What waits at the eight ring hops, oldest first: hop 2q leads from quadrant q to q + 1, hop 2q + 1 to q - 1. -/
  ring : Tab (List RingItem) := []
  /-- What waits at the Palette banks 0 to 3 and the dual-port region 4, oldest first. -/
  palq : Tab (List PalItem) := []
  drq : Tab Drq := []
  pd : Tab PDom := []
  flt : Faults := {}
  sec : Sec := {}
  regs : Regs := {}
  power : Power := {}
  obsSel : Nat := 0
  xing : Tab Xing := []
  groups : Tab GroupSt := []
  /-- Memory behind the channels, by channel and local address. -/
  mem : List Host.Cell := []
  /-- The in-service channels of the even spread, and the steering entries rewritten since (R295). -/
  steerSpread : List Nat := []
  steerOver : Tab Nat := []
  /-- Granules whose reads end badly after every retry: key of the granule, response code 1, 2 or 3. -/
  badGran : Tab Nat := []
  /-- Remote requests waiting for their port (R89, R330). -/
  held : List RemReq := []
  /-- Granules of records on other chips that have come for rows under way. -/
  recIn : List RecAnswer := []
  /-- Own routed messages waiting for a port (R341). -/
  heldFlits : List Flit := []
  /-- COMPLETION messages delivered to this chip, with their senders (R334). -/
  received : List (Nat × Bytes) := []
  /-- Requests received over links that wait for their stream's turn (R338). -/
  streams : Tab (List Acc) := []
  free : Nat := 0
  ev : List AoEvent := []
  deriving DecidableEq, Repr

/-- The state of the model: the commands waiting, the always-on island and the rest of the block. -/
structure State where
  pending : List Instr
  ao : AO
  b : Block
  deriving DecidableEq, Repr

/-- The machine before its first start: ports at their reset values, nothing programmed, nothing placed.
(DESIGN CHOICE, log 2) -/
def State.reset : State := { pending := [], ao := {}, b := {} }

end Sys2Proof.Machine
end

