-- ==== Sys2Proof/Machine/Tint.lean ====
section
/-! DEFINITION. Tint's arithmetic (R222-R240): exact decoding, rounding to nearest even, saturation, the expand-mode
product, statistics and shift proposals, and the combinations of REDUCE (R219). Values are exact: m * 2^e. -/

namespace Sys2Proof.Machine

/-- A decoded value (R228). -/
inductive Num where
  | nan
  | inf (neg : Bool)
  | fin (neg : Bool) (m : Nat) (e : Int)
  deriving DecidableEq, Repr

/-- Element size in nibbles (R123). -/
def nibsOf (ty : Nat) : Nat :=
  match ty with
  | 0 | 1 => 2 | 2 | 3 => 4 | 4 | 5 => 8 | 6 | 7 => 16
  | 8 | 9 => 4 | 10 => 8 | 11 | 12 => 2 | 13 | 14 => 1 | 15 => 8 | 16 => 16
  | _ => 2

/-- Element width in bits. -/
def widthOf (ty : Nat) : Nat := 4 * nibsOf ty

def isRes (ty : Nat) : Bool := ty == 15 || ty == 16
def isSigned (ty : Nat) : Bool := ty == 1 || ty == 3 || ty == 5 || ty == 7 || ty == 13
def isInt (ty : Nat) : Bool := decide (ty ≤ 7) || ty == 13 || ty == 14
def isFloat (ty : Nat) : Bool := decide (8 ≤ ty) && decide (ty ≤ 12)

/-- Exponent bits, mantissa bits and bias of a float type (R228). -/
def floatFmt (ty : Nat) : Nat × Nat × Nat :=
  match ty with
  | 8 => (5, 10, 15) | 9 => (8, 7, 127) | 10 => (8, 23, 127) | 11 => (4, 3, 7) | _ => (5, 2, 15)

/-- dec(c) of a float code. E4M3 has no infinities and one NaN code per sign; the others follow IEEE 754. -/
def decFloat (ty c : Nat) : Num :=
  let (eb, mb, bias) := floatFmt ty
  let neg := bitOf c (eb + mb)
  let e := bitsOf c (eb + mb - 1) mb
  let m := c % 2 ^ mb
  let top := 2 ^ eb - 1
  if ty == 11 && e == top && m == 7 then .nan
  else if ty != 11 && e == top then (if m = 0 then .inf neg else .nan)
  else if e = 0 then .fin neg m (1 - (bias : Int) - mb)
  else .fin neg (m + 2 ^ mb) ((e : Int) - bias - mb)

/-- dec(c) (R228). -/
def dec (ty c : Nat) : Num :=
  if isFloat ty then decFloat ty c
  else if isSigned ty then
    let v := signedOf (widthOf ty) c
    .fin (decide (v < 0)) v.natAbs 0
  else .fin false (c % 2 ^ widthOf ty) 0

/-- m * 2^e rounded to an integer multiple of 2^q, ties to even: the multiple. -/
def rneAt (m : Nat) (e q : Int) : Nat :=
  if q ≤ e then m * 2 ^ (e - q).toNat
  else
    let k := (q - e).toNat
    let n := m / 2 ^ k
    let r := m % 2 ^ k
    if 2 * r < 2 ^ k then n else if 2 ^ k < 2 * r then n + 1 else n + n % 2

/-- m * 2^e rounded upward to a multiple of 2^q. -/
def ceilAt (m : Nat) (e q : Int) : Nat :=
  if q ≤ e then m * 2 ^ (e - q).toNat else ceilDiv m (2 ^ (q - e).toNat)

/-- The exponent of the last place kept for a value in a format: its precision, or the subnormal step (R230). -/
def quantum (ty m : Nat) (e : Int) : Int :=
  let (_, mb, bias) := floatFmt ty
  max (e + m.log2 - mb) (1 - (bias : Int) - mb)

/-- Compares m1 * 2^e1 with m2 * 2^e2. -/
def ltNum (m1 : Nat) (e1 : Int) (m2 : Nat) (e2 : Int) : Bool :=
  let lo := min e1 e2
  decide (m1 * 2 ^ (e1 - lo).toNat < m2 * 2 ^ (e2 - lo).toNat)

/-- The largest finite value of a type as m * 2^e (R236). -/
def maxFinite (ty : Nat) : Nat × Int :=
  match ty with
  | 8 => (2047, 5) | 9 => (255, 120) | 10 => (2 ^ 24 - 1, 104) | 11 => (7, 6) | 12 => (7, 13)
  | _ => ((if isSigned ty then 2 ^ (widthOf ty - 1) - 1 else 2 ^ widthOf ty - 1), 0)

/-- The code of n * 2^q, n in the format's range and q its quantum. -/
def encFinite (ty : Nat) (neg : Bool) (n : Nat) (q : Int) : Nat :=
  let (eb, mb, bias) := floatFmt ty
  let sign := b2n neg * 2 ^ (eb + mb)
  if n < 2 ^ mb then sign + n
  else
    let n' := if n = 2 ^ (mb + 1) then 2 ^ mb else n
    let q' := if n = 2 ^ (mb + 1) then q + 1 else q
    sign + (q' + bias + mb).toNat * 2 ^ mb + (n' - 2 ^ mb)

/-- The code of the largest finite value with a sign. -/
def encMax (ty : Nat) (neg : Bool) : Nat :=
  let (m, e) := maxFinite ty
  encFinite ty neg (m * 2 ^ (e - quantum ty m e).toNat) (quantum ty m e)

/-- The canonical NaN codes of R231. -/
def canonNan (ty : Nat) : Nat :=
  match ty with
  | 10 => 0x7FC00000 | 8 => 0x7E00 | 9 => 0x7FC0 | 11 => 0x7F | _ => 0x7E

/-- The code of infinity in an IEEE type. -/
def encInf (ty : Nat) (neg : Bool) : Nat :=
  let (eb, mb, _) := floatFmt ty
  b2n neg * 2 ^ (eb + mb) + (2 ^ eb - 1) * 2 ^ mb

/-- Rounds to a float type; `ieee` overflows to infinity, otherwise to the largest finite value. The flag tells an
overflow. -/
def roundTo (ty : Nat) (ieee : Bool) (neg : Bool) (m : Nat) (e : Int) : Nat × Bool :=
  if m = 0 then (encFinite ty neg 0 0, false)
  else
    let q := quantum ty m e
    let n := rneAt m e q
    let (mm, me) := maxFinite ty
    if ltNum mm me n q then ((if ieee then encInf ty neg else encMax ty neg), true)
    else (encFinite ty neg n q, false)

/-- The integer an exact value rounds to, clamped to the type, with the saturation flag (R230-R232). -/
def toInt (ty : Nat) (neg : Bool) (m : Nat) (e : Int) : Nat × Bool :=
  let n := rneAt m e 0
  let y : Int := if neg then -(n : Int) else n
  let w := widthOf ty
  let lo : Int := if isSigned ty then -((2 ^ (w - 1) : Nat) : Int) else 0
  let hi : Int := if isSigned ty then ((2 ^ (w - 1) : Nat) : Int) - 1 else ((2 ^ w : Nat) : Int) - 1
  let z := max lo (min hi y)
  (codeOf w z, decide (z ≠ y))

/-- Encodes an exact value in a destination type (R230, R231): code, saturated, value before rounding. -/
def encode (ty : Nat) (v : Num) : Nat × Bool :=
  match v with
  | .nan => (if isFloat ty then canonNan ty else 0, true)
  | .inf neg =>
    if isFloat ty then (encMax ty neg, true)
    else ((if neg then (if isSigned ty then 2 ^ (widthOf ty - 1) else 0) else (maxFinite ty).1), true)
  | .fin neg m e => if isFloat ty then roundTo ty false neg m e else toInt ty neg m e

/-- dec(x) * 2^d (R230). -/
def scaleBy (v : Num) (d : Int) : Num :=
  match v with
  | .fin neg m e => .fin neg m (e + d)
  | v => v

/-- The decoded scale element S (R229). -/
def decScale (ty c scale2 : Nat) : Num :=
  match ty with
  | 0 =>
    let e := bitsOf c 7 4
    let m := bitsOf c 3 0
    let (um, ue) : Nat × Int := if e = 0 then (m, -10) else (16 + m, (e : Int) - 11)
    match decFloat 10 scale2 with
    | .fin neg sm se => decFloat 10 (roundTo 10 true neg (um * sm) (ue + se)).1
    | v => v
  | 1 => .fin false 1 (signedOf 8 c)
  | _ => dec ty c

/-- One FP32 multiply, nearest even (R233). -/
def mulFp32 (a s : Num) : Num :=
  match a, s with
  | .nan, _ => .nan
  | _, .nan => .nan
  | .inf n, .inf k => .inf (n != k)
  | .inf n, .fin k m _ => if m = 0 then .nan else .inf (n != k)
  | .fin k m _, .inf n => if m = 0 then .nan else .inf (n != k)
  | .fin n m e, .fin k m' e' => decFloat 10 (roundTo 10 true (n != k) (m * m') (e + e')).1

/-- The expand-mode product before the destination shift (R233). -/
def expandVal (ty c : Nat) (sSrc : Int) (scale : Num) : Num := mulFp32 (scaleBy (dec ty c) sSrc) scale

/-! ### Statistics (R236-R238) -/

/-- |v| rounded upward to FP32, at most its largest finite value, as a code (R236). -/
def amaxOf (v : Num) : Option Nat :=
  match v with
  | .nan => none
  | .inf _ => some (encMax 10 false)
  | .fin _ m e =>
    if m = 0 then some 0
    else
      let q := quantum 10 m e
      let n := ceilAt m e q
      let (mm, me) := maxFinite 10
      if ltNum mm me n q then some (encMax 10 false) else some (encFinite 10 false n q)

/-- Saturating counts (R236). -/
def satCount (a b : Nat) : Nat := min (a + b) (2 ^ 32 - 1)

/-- The contribution of one converted element (R236). -/
def statOf (ty : Nat) (v : Num) (sat : Bool) : Stats :=
  let (m, e) := maxFinite ty
  { amax := (amaxOf v).getD 0
    nsat := b2n sat
    nquart := match v with
      | .fin _ vm ve => b2n (ltNum (4 * vm) ve m e)
      | _ => 0
    nelem := 1 }

/-- Merges counts into a record (R237). FP32 codes of values not below zero order as the values do. -/
def mergeStats (a b : Stats) : Stats :=
  { a with amax := max a.amax b.amax, nsat := satCount a.nsat b.nsat, nquart := satCount a.nquart b.nquart
           nelem := satCount a.nelem b.nelem }

/-- Whether a shift is ever applied on a side (R223). -/
def shiftApplies (c : Canvas) : Bool := !isRes c.type && c.cls == 1

/-- The shift of a side (R223). -/
def sideShift (c : Canvas) : Int := if shiftApplies c then c.shift else 0

/-- The end of a step (R238). -/
def endStep (c : Canvas) (s : Stats) : Stats :=
  let (m, e) := maxFinite c.type
  let half : Bool := match decFloat 10 s.amax with
    | .fin _ vm ve => ltNum (2 * vm) ve m e
    | _ => false
  let (prop, below) : Int × Nat :=
    if !shiftApplies c then (0, 0)
    else if c.mSteps = 0 then (0, s.below)
    else if s.nsat > c.satThr then (1, 0)
    else if half then (if s.below + 1 ≥ c.mSteps then (-1, 0) else (0, s.below + 1))
    else (0, 0)
  { s with prop := prop, below := below, amax := 0, nsat := 0, nquart := 0, nelem := 0
           steps := (s.steps + 1) % 2 ^ 32 }

/-- A shift saturated to [-128, 127] (R167). -/
def satShift (v : Int) : Int := max (-128) (min 127 v)

/-- SIGNAL on a canvas shift (R167, R239): SET to a value, or APPLY the proposal. -/
def signalShift (apply : Bool) (value : Nat) (x : Slot) : Slot :=
  let new : Int := if apply then satShift (x.canvas.shift + x.stats.prop) else signedOf 8 value
  let below := if new = x.canvas.shift then x.stats.below else 0
  { x with canvas := { x.canvas with shift := new }
           stats := { x.stats with below := below, prop := if apply then 0 else x.stats.prop } }

/-! ### The combinations of REDUCE (R219) -/

/-- IEEE 754 binary32 addition, nearest even; a NaN result is 0x7FC0_0000. -/
def addFp32 (a c : Nat) : Nat :=
  match decFloat 10 a, decFloat 10 c with
  | .nan, _ => 0x7FC00000
  | _, .nan => 0x7FC00000
  | .inf n, .inf k => if n == k then encInf 10 n else 0x7FC00000
  | .inf n, _ => encInf 10 n
  | _, .inf k => encInf 10 k
  | .fin n m e, .fin k m' e' =>
    let lo := min e e'
    let x : Int := (if n then -1 else 1) * ((m * 2 ^ (e - lo).toNat : Nat) : Int)
    let y : Int := (if k then -1 else 1) * ((m' * 2 ^ (e' - lo).toNat : Nat) : Int)
    let s := x + y
    if s = 0 then encFinite 10 (n && k) 0 0
    else (roundTo 10 true (decide (s < 0)) s.natAbs lo).1

/-- A rank that orders the codes of a type as R219 orders its values: -0 below +0. -/
def orderKey (ty c : Nat) : Int :=
  if isSigned ty then signedOf (widthOf ty) c
  else if isFloat ty then
    let w := widthOf ty
    if bitOf c (w - 1) then -((c % 2 ^ (w - 1) : Nat) : Int) - 1 else (c : Int)
  else (c : Int)

def isNanCode (ty c : Nat) : Bool := isFloat ty && decFloat ty c == .nan

/-- The larger or smaller value; a NaN loses to any number, two NaNs give the canonical NaN (R219). -/
def pick (max : Bool) (ty a c : Nat) : Nat :=
  if isNanCode ty a && isNanCode ty c then canonNan ty
  else if isNanCode ty a then c
  else if isNanCode ty c then a
  else if max == decide (orderKey ty a ≤ orderKey ty c) then c else a

/-- The combined element of a REDUCE mode: 0 ADD_MOD, 1 ADD_FP32, 2 ADD_BF16, 3 MAX, 4 MIN (R150, R219). -/
def combine (mode ty d x q : Nat) : Nat :=
  match mode with
  | 0 => (d + x) % q
  | 1 => addFp32 d x
  | 2 => addFp32 d (x * 65536)
  | 3 => pick true ty d x
  | _ => pick false ty d x

end Sys2Proof.Machine
end

