-- ==== Sys2Proof/Config.lean ====
section
/-! DEFINITION. What an implementation fixes and what the manual leaves open: uninterpreted constants with no body,
so that no proof can rest on a value of theirs. -/

namespace Sys2Proof

/-- The n-th free byte: what the noise source and everything drawn from it delivers (R395). Nothing constrains it.
(DESIGN CHOICE, log 4) -/
opaque Config.freeByte : Nat → Byte

/-- The n-th free choice where the manual states no order, such as colliding SCATTER slices (R246). (DESIGN CHOICE, log 4) -/
opaque Config.freeChoice : Nat → Nat

/-- ML-DSA-87 verification (R385 names FIPS 204 and does not give it): public key, message, signature.
(DESIGN CHOICE, log 8) -/
opaque Config.mldsaVerify : Bytes → Bytes → Bytes → Bool

/-- ML-DSA-87 signing: private key, message, 32 random bytes. (DESIGN CHOICE, log 8) -/
opaque Config.mldsaSign : Bytes → Bytes → Bytes → Bytes

/-- ML-DSA-87 KeyGen_internal (R402): seed to public key and private key. (DESIGN CHOICE, log 8) -/
opaque Config.mldsaKeyGen : Bytes → Bytes × Bytes

/-- ML-KEM-1024 key generation (R385 names FIPS 203): 64 random bytes to encapsulation and decapsulation key.
(DESIGN CHOICE, log 8) -/
opaque Config.mlkemKeyGen : Bytes → Bytes × Bytes

/-- ML-KEM-1024 encapsulation: encapsulation key and 32 random bytes to ciphertext and shared secret.
(DESIGN CHOICE, log 8) -/
opaque Config.mlkemEncaps : Bytes → Bytes → Bytes × Bytes

/-- ML-KEM-1024 decapsulation: decapsulation key and ciphertext to shared secret. (DESIGN CHOICE, log 8) -/
opaque Config.mlkemDecaps : Bytes → Bytes → Bytes

/-- Whether the pair-wise consistency test of an ML-KEM-1024 key pair passes (R397): encapsulation and decapsulation key.
(DESIGN CHOICE, log 8) -/
opaque Config.mlkemPairOk : Bytes → Bytes → Bool

/-- What the SYM8 code of a read beat finds (R41, R75; the code itself is not given):
the corrected data, or nothing when the check bits report an uncorrectable error. (DESIGN CHOICE, log 8) -/
opaque Config.symCorrect : Bytes → Bytes → Option Bytes

/-- The SYM8 check bits of 256 data bytes: 16 bytes, 32 bits for each 64-byte word (R37). (DESIGN CHOICE, log 8) -/
opaque Config.symEncode : Bytes → Bytes

/-- What the observation bus shows of a group whose bits the manual does not give (R461), by group and sample.
(DESIGN CHOICE, log 89) -/
opaque Config.obsBits : Nat → Nat → BitVec 32

/-- The Kerkaist root hash fixed in the boot ROM (R400, R439). (DESIGN CHOICE, log 8) -/
opaque Config.bootRomRootHash : Bytes

end Sys2Proof
end

