-- ==== Sys2Proof/Machine/Crypto.lean ====
section
/-! DEFINITION. The approved functions whose standards are short: SHA3-256, SHAKE128 and SHAKE256 (FIPS 202), AES-256
(FIPS 197), AES-256-GCM (SP 800-38D), AES-256-XTS on one 256-byte granule (R389) and CRC-32 (R322, R438). R385 names the
standards. ML-DSA-87 and ML-KEM-1024 stay uninterpreted (Config). -/

namespace Sys2Proof.Crypto

/-! ### Keccak (FIPS 202) -/

def rotl (x : BitVec 64) (n : Nat) : BitVec 64 := x.rotateLeft (n % 64)

/-- The rotation offsets in lane order x + 5y. -/
def rotOffsets : List Nat :=
  [0, 1, 62, 28, 27, 36, 44, 6, 55, 20, 3, 10, 43, 25, 39, 41, 45, 15, 21, 8, 18, 2, 61, 56, 14]

def roundConstants : List (BitVec 64) :=
  [0x0000000000000001, 0x0000000000008082, 0x800000000000808A, 0x8000000080008000,
   0x000000000000808B, 0x0000000080000001, 0x8000000080008081, 0x8000000000008009,
   0x000000000000008A, 0x0000000000000088, 0x0000000080008009, 0x000000008000000A] ++
  [0x000000008000808B, 0x800000000000008B, 0x8000000000008089, 0x8000000000008003,
   0x8000000000008002, 0x8000000000000080, 0x000000000000800A, 0x800000008000000A,
   0x8000000080008081, 0x8000000000008080, 0x0000000080000001, 0x8000000080008008]

def lane (s : List (BitVec 64)) (x y : Nat) : BitVec 64 := s.getD (x % 5 + 5 * (y % 5)) 0

/-- Builds a state lane by lane from its coordinates. -/
def lanes (f : Nat → Nat → BitVec 64) : List (BitVec 64) :=
  (List.range 25).map fun i => f (i % 5) (i / 5)

def keccakRound (s : List (BitVec 64)) (rc : BitVec 64) : List (BitVec 64) :=
  let c := (List.range 5).map fun x => lane s x 0 ^^^ lane s x 1 ^^^ lane s x 2 ^^^ lane s x 3 ^^^ lane s x 4
  let d := (List.range 5).map fun x => c.getD ((x + 4) % 5) 0 ^^^ rotl (c.getD ((x + 1) % 5) 0) 1
  let t := lanes fun x y => lane s x y ^^^ d.getD x 0
  -- rho and pi: the lane at (x, y) comes from (x', y') with x = y', y = 2x' + 3y'
  let b := lanes fun x y =>
    let x' := (x + 3 * y) % 5
    rotl (lane t x' x) (rotOffsets.getD (x' + 5 * x) 0)
  let e := lanes fun x y => lane b x y ^^^ (~~~(lane b (x + 1) y) &&& lane b (x + 2) y)
  match e with
  | [] => []
  | a :: r => (a ^^^ rc) :: r

def keccakF (s : List (BitVec 64)) : List (BitVec 64) := roundConstants.foldl keccakRound s

def stateBytes (s : List (BitVec 64)) : Bytes := s.flatMap fun w => natLe 8 w.toNat

/-- Absorbs one block of `rate` bytes. -/
def absorbBlock (s : List (BitVec 64)) (blk : Bytes) : List (BitVec 64) :=
  keccakF (lanes fun x y => lane s x y ^^^ BitVec.ofNat 64 (fieldAt blk (8 * (x + 5 * y)) 8))

def absorb (rate : Nat) : Nat → List (BitVec 64) → Bytes → List (BitVec 64)
  | 0, s, _ => s
  | k + 1, s, m => absorb rate k (absorbBlock s (m.take rate)) (m.drop rate)

/-- Output blocks from a state. -/
def squeeze (rate : Nat) : Nat → List (BitVec 64) → Bytes
  | 0, _ => []
  | k + 1, s => (stateBytes s).take rate ++ squeeze rate k (keccakF s)

/-- The sponge with multi-rate padding and the given suffix byte. -/
def sponge (rate : Nat) (suffix : Byte) (m : Bytes) (n : Nat) : Bytes :=
  let padLen := rate - m.length % rate
  let padding : Bytes := if padLen = 1 then [suffix ||| 0x80] else suffix :: List.replicate (padLen - 2) 0 ++ [0x80]
  let p := m ++ padding
  let s := absorb rate (p.length / rate) (List.replicate 25 0) p
  (squeeze rate (ceilDiv n rate) s).take n

def sha3_256 (m : Bytes) : Bytes := sponge 136 0x06 m 32
def shake128 (m : Bytes) (n : Nat) : Bytes := sponge 168 0x1F m n
def shake256 (m : Bytes) (n : Nat) : Bytes := sponge 136 0x1F m n

/-! ### AES-256 (FIPS 197) -/

def xtime (b : Byte) : Byte := (b <<< 1) ^^^ (if b.getLsbD 7 then 0x1B else 0)

/-- The product of a byte by a small coefficient of MixColumns. -/
def gmul (m s : Byte) : Byte :=
  let s2 := xtime s
  let s4 := xtime s2
  let s8 := xtime s4
  (if m.getLsbD 0 then s else 0) ^^^ (if m.getLsbD 1 then s2 else 0) ^^^
    (if m.getLsbD 2 then s4 else 0) ^^^ (if m.getLsbD 3 then s8 else 0)

/-- The S-box of FIPS 197 and its inverse, 32 values a row: the value for a is byte a mod 32 of row a / 32. -/
def sboxRows : List Nat :=
  [0xc072a49cafa2d4adf04759fa7dc982ca76abd7fe2b670130c56f6bf27b777c63,
   0x75b227ebe28012079a059618c323c7041531d871f1e5a534ccf73f362693fdb7,
   0xcf584c4a39becb6a5bb1fc20ed00d153842fe329b3d63b52a05a6e1b1a2c8309,
   0xd2f3ff1021dab6bcf5389d928f40a351a89f3c507f02f94585334d43fbaaefd0,
   0xdb0b5ede14b8ee4688902a22dc4f816073195d643d7ea7c41744975fec130ccd,
   0x08ae7a65eaf4566ca94ed58d6d37c8e779e4959162acd3c25c2406490a3a32e0,
   0x9e1dc186b95735610ef6034866b53e708a8bbd4b1f74dde8c6b4a61c2e2578ba,
   0x16bb54b00f2d99416842e6bf0d89a18cdf2855cee9871e9b948ed9691198f8e1]

def invSboxRows : List Nat :=
  [0xcbe9dec444438e3487ff2f9b8239e37cfbd7f3819ea340bf38a53630d56a0952,
   0x25d18b6d49a25b76b224d92866a12e084ec3fa420b954cee3d23c2a632947b54,
   0x849d8da75746155edab9edfd5048706c92b6655dcc5ca4d41698688664f6f872,
   0x6b8a130103bdafc1020f3fca8f1e2cd00645b3b80558e4f70ad3bc8c00abd890,
   0x6edf751ce837f9e28535ade72274ac9673e6b4f0cecff297eadc674f4111913a,
   0xf45acd78fec0db9a2079d2c64b3e56fc1bbe18aa0e62b76f89c5291d711af147,
   0xef9cc9939f7ae52d0d4ab519a97f51605fec8027591012b131c7078833a8dd1f,
   0x7d0c2155631469e126d677ba7e042b17619953833cbbebc8b0f52aae4d3be0a0]

def tableByte (rows : List Nat) (a : Nat) : Byte := BitVec.ofNat 8 (rows.getD (a / 32) 0 >>> (8 * (a % 32)))
def sboxOf (a : Byte) : Byte := tableByte sboxRows a.toNat
def invSboxOf (y : Byte) : Byte := tableByte invSboxRows y.toNat

def xorBytes (a b : Bytes) : Bytes := List.zipWith (· ^^^ ·) a b

/-- The 60 words of the AES-256 key schedule, newest first while it grows. -/
def expandKey (key : Bytes) : List Bytes :=
  let w0 := ((List.range 8).map fun i => sliceAt key (4 * i) 4).reverse
  let step := fun (st : List Bytes × Nat × Byte) (_ : Nat) =>
    let (w, i, rc) := st
    let t := w.headD []
    let t' := if i % 8 = 0 then xorBytes ((t.drop 1 ++ t.take 1).map sboxOf) [rc, 0, 0, 0]
              else if i % 8 = 4 then t.map sboxOf else t
    (xorBytes (w.getD 7 []) t' :: w, i + 1, if i % 8 = 0 then xtime rc else rc)
  ((List.range 52).foldl step (w0, 8, 1)).1.reverse

def roundKey (w : List Bytes) (r : Nat) : Bytes := ((w.drop (4 * r)).take 4).flatten

def shiftRows (s : Bytes) : Bytes := (List.range 16).map fun i => s.getD ((i + 4 * (i % 4)) % 16) 0
def invShiftRows (s : Bytes) : Bytes := (List.range 16).map fun i => s.getD ((i + 16 - 4 * (i % 4)) % 16) 0

def mixWith (m : List Byte) (s : Bytes) : Bytes :=
  (List.range 16).map fun i =>
    let c := 4 * (i / 4)
    let r := i % 4
    (List.range 4).foldl (fun a j => a ^^^ gmul (m.getD ((j + 4 - r) % 4) 0) (s.getD (c + j) 0)) 0

def mixColumns : Bytes → Bytes := mixWith [2, 3, 1, 1]
def invMixColumns : Bytes → Bytes := mixWith [14, 11, 13, 9]

def aes256 (key blk : Bytes) : Bytes :=
  let w := expandKey key
  let s := xorBytes blk (roundKey w 0)
  let s := (List.range 13).foldl (fun s r =>
    xorBytes (mixColumns (shiftRows (s.map sboxOf))) (roundKey w (r + 1))) s
  xorBytes (shiftRows (s.map sboxOf)) (roundKey w 14)

def aes256Inv (key blk : Bytes) : Bytes :=
  let w := expandKey key
  let s := (invShiftRows (xorBytes blk (roundKey w 14))).map invSboxOf
  let s := (List.range 13).foldl (fun s r =>
    (invShiftRows (invMixColumns (xorBytes s (roundKey w (13 - r))))).map invSboxOf) s
  xorBytes s (roundKey w 0)

/-! ### AES-256-XTS on one granule (R389) -/

/-- Multiplies a little-endian 128-bit tweak by the primitive element. -/
def tweakNext (t : Bytes) : Bytes :=
  let n := leNat t
  natLe 16 ((2 * n % 2 ^ 128) ^^^ (if n / 2 ^ 127 = 1 then 0x87 else 0))

def xtsWith (f : Bytes → Bytes) : Nat → Bytes → Bytes → Bytes
  | 0, _, _ => []
  | k + 1, t, d => xorBytes t (f (xorBytes t (d.take 16))) ++ xtsWith f k (tweakNext t) (d.drop 16)

/-- The data unit is the 256-byte granule, the tweak the number of its granule, PA[47:8] (R389). -/
def xtsEncrypt (key : Bytes) (gran : Nat) (d : Bytes) : Bytes :=
  xtsWith (aes256 (key.take 32)) 16 (aes256 (sliceAt key 32 32) (natLe 16 gran)) (sliceAt d 0 256)

def xtsDecrypt (key : Bytes) (gran : Nat) (d : Bytes) : Bytes :=
  xtsWith (aes256Inv (key.take 32)) 16 (aes256 (sliceAt key 32 32) (natLe 16 gran)) (sliceAt d 0 256)

/-! ### AES-256-GCM (SP 800-38D) -/

def beNat (b : Bytes) : Nat := b.foldl (fun a x => 256 * a + x.toNat) 0
def natBe (n v : Nat) : Bytes := (natLe n v).reverse

/-- Multiplication in GF(2^128), most significant bit first. -/
def ghMul (x y : Nat) : Nat :=
  ((List.range 128).foldl (fun (st : Nat × Nat) i =>
    let z := if bitOf x (127 - i) then st.1 ^^^ st.2 else st.1
    let v := if st.2 % 2 = 1 then (st.2 / 2) ^^^ (0xE1 * 2 ^ 120) else st.2 / 2
    (z, v)) (0, y)).1

def ghash (h : Nat) : Nat → Nat → Bytes → Nat
  | 0, y, _ => y
  | k + 1, y, m => ghash h k (ghMul (y ^^^ beNat (sliceAt m 0 16)) h) (m.drop 16)

def ctr (key iv : Bytes) : Nat → Nat → Bytes → Bytes
  | 0, _, _ => []
  | k + 1, c, m => xorBytes (m.take 16) (aes256 key (iv ++ natBe 4 c)) ++ ctr key iv k (c + 1) (m.drop 16)

def gcmTag (key iv aad ct : Bytes) : Bytes :=
  let h := beNat (aes256 key (List.replicate 16 0))
  let y := ghash h (ceilDiv aad.length 16) 0 aad
  let y := ghash h (ceilDiv ct.length 16) y ct
  let y := ghMul (y ^^^ (aad.length * 8 * 2 ^ 64 + ct.length * 8)) h
  xorBytes (natBe 16 y) (aes256 key (iv ++ natBe 4 1))

/-- Encryption and decryption of the text are the same counter-mode pass. -/
def gcmCrypt (key iv m : Bytes) : Bytes := ctr key iv (ceilDiv m.length 16) 2 m

/-! ### CRC-32 (IEEE 802.3) -/

def crcByte (c : Nat) (b : Byte) : Nat :=
  iterate (fun r => if r % 2 = 1 then (r / 2) ^^^ 0xEDB88320 else r / 2) 8 (c ^^^ b.toNat)

/-- The register after a run of bytes, forced byte by byte. -/
def crcBytes : Bytes → Nat → Nat
  | [], c => c
  | b :: t, 0 => crcBytes t (crcByte 0 b)
  | b :: t, c + 1 => crcBytes t (crcByte (c + 1) b)

def crc32 (m : Bytes) : Nat := crcBytes m 0xFFFFFFFF ^^^ 0xFFFFFFFF

end Sys2Proof.Crypto
end

