-- ==== Sys2Proof/Machine/Ops.lean ====
section
/-! DEFINITION. The named operations every meaning is built from: status codes, accessors of the arrays, free values,
fault pins, the crossing into the always-on island, the memories behind the channels and the Palette. -/

namespace Sys2Proof.Machine

/-- Status codes (R117). -/
def Status.code : Status → Nat
  | .held => 0xFFFF
  | .ok => 0x0000 | .badHandle => 0x0101 | .bounds => 0x0102 | .badType => 0x0103 | .badOpcode => 0x0104
  | .xlateFault => 0x0201 | .permission => 0x0202 | .keySelect => 0x0203
  | .busRetryExhausted => 0x0301 | .uncorrectable => 0x0302 | .parity => 0x0303
  | .instanceReset => 0x0401 | .domainOff => 0x0402 | .thermalStop => 0x0403
  | .doubleFree => 0x0501 | .notOwner => 0x0502 | .poolEmpty => 0x0503
  | .locked => 0x0601 | .staleRole => 0x0602 | .writeOnce => 0x0603
  | .digestMismatch => 0x0701 | .seedDigest => 0x0702
  | .linkDown => 0x0801 | .route => 0x0802 | .taskAborted => 0x0901 | .queueFull => 0x0A01

/-! ### Accessors -/

namespace Block

def chan (b : Block) (n : Nat) : Chan := b.chans.get {} n
def setChan (b : Block) (n : Nat) (c : Chan) : Block := { b with chans := b.chans.put {} n c }
def modChan (b : Block) (n : Nat) (f : Chan → Chan) : Block := b.setChan n (f (b.chan n))

def sport (b : Block) (n : Nat) : SPort := b.sports.get {} n
def setSport (b : Block) (n : Nat) (p : SPort) : Block := { b with sports := b.sports.put {} n p }

def link (b : Block) (n : Nat) : Link := b.links.get {} n
def setLink (b : Block) (n : Nat) (l : Link) : Block := { b with links := b.links.put {} n l }
def modLink (b : Block) (n : Nat) (f : Link → Link) : Block := b.setLink n (f (b.link n))

def sq (b : Block) (n : Nat) : Sq := b.rin.sqs.get {} n
def setSq (b : Block) (n : Nat) (q : Sq) : Block := { b with rin := { b.rin with sqs := b.rin.sqs.put {} n q } }

def cq (b : Block) (n : Nat) : Cq := b.rin.cqs.get {} n
def setCq (b : Block) (n : Nat) (q : Cq) : Block := { b with rin := { b.rin with cqs := b.rin.cqs.put {} n q } }

/-- Mailbox `v` of an instance; 256 is the privileged mailbox (R92). -/
def mbox (b : Block) (v : Nat) : Mbox := b.rin.mboxes.get {} v
def setMbox (b : Block) (v : Nat) (m : Mbox) : Block :=
  { b with rin := { b.rin with mboxes := b.rin.mboxes.put {} v m } }

def vinst (b : Block) (v : Nat) : Vinst := b.rin.vis.get {} v
def setVinst (b : Block) (v : Nat) (i : Vinst) : Block := { b with rin := { b.rin with vis := b.rin.vis.put {} v i } }

def slot (b : Block) (n : Nat) : Slot := b.canv.slots.get {} n
def setSlot (b : Block) (n : Nat) (x : Slot) : Block :=
  { b with canv := { b.canv with slots := b.canv.slots.put {} n x } }

def ctx (b : Block) (c : Nat) : Ctx := b.ctxs.get {} c
def setCtx (b : Block) (c : Nat) (x : Ctx) : Block := { b with ctxs := b.ctxs.put {} c x }
def modCtx (b : Block) (c : Nat) (f : Ctx → Ctx) : Block := b.setCtx c (f (b.ctx c))

def chainAt (b : Block) (n : Nat) : Chain := b.chains.get {} n
def setChain (b : Block) (n : Nat) (x : Chain) : Block := { b with chains := b.chains.put {} n x }

def pslot (b : Block) (n : Nat) : PoolSlot := b.pal.slots.get {} n
def setPslot (b : Block) (n : Nat) (x : PoolSlot) : Block :=
  { b with pal := { b.pal with slots := b.pal.slots.put {} n x } }

def arbAt (b : Block) (n : Nat) : Arb := b.arb.get {} n
def setArb (b : Block) (n : Nat) (x : Arb) : Block := { b with arb := b.arb.put {} n x }

def line (b : Block) (i : Nat) : Drq := b.drq.get {} i
def setLine (b : Block) (i : Nat) (x : Drq) : Block := { b with drq := b.drq.put {} i x }

def pdom (b : Block) (d : Nat) : PDom := b.pd.get {} d
def setPdom (b : Block) (d : Nat) (x : PDom) : Block := { b with pd := b.pd.put {} d x }

def grp (b : Block) (g : Nat) : GroupSt := b.groups.get {} g
def setGrp (b : Block) (g : Nat) (x : GroupSt) : Block := { b with groups := b.groups.put {} g x }

def keySlot (b : Block) (n : Nat) : KeySlot := b.sec.keys.get {} n
def setKeySlot (b : Block) (n : Nat) (x : KeySlot) : Block :=
  { b with sec := { b.sec with keys := b.sec.keys.put {} n x } }

end Block

/-- Where a unit's recovery state lies in the table of units (R418). -/
def healthKey (kind : UnitKind) (idx : Nat) : Nat :=
  match kind with
  | .lane => idx | .channel => 100 + idx | .link => 200 + idx | .core => 300 + idx
  | .decoder => 600 + idx | .region => 800 + idx

def Block.health (b : Block) (kind : UnitKind) (idx : Nat) : UnitHealth := b.flt.units.get {} (healthKey kind idx)

def Block.setHealth (b : Block) (kind : UnitKind) (idx : Nat) (h : UnitHealth) : Block :=
  { b with flt := { b.flt with units := b.flt.units.put {} (healthKey kind idx) h } }

def Block.isFenced (b : Block) (kind : UnitKind) (idx : Nat) : Bool := (b.health kind idx).state == .fenced

/-! ### Pins, free values and the crossing into AO -/

/-- Raises an error pin towards the collector; DETECTION latches it (R411, R417). -/
def raise (b : Block) (src unit : Nat) (status : Status := .ok) (vi : Nat := 256) (ctx : Nat := 256)
    (detail : Nat := 0) : Block :=
  { b with flt := { b.flt with pins := b.flt.pins ++
      [{ src := src, unit := unit, status := status.code, vi := vi, ctx := ctx, detail := detail }] } }

/-- Raises source 38 for a channel that a negotiation has fenced (R76, R77). (DEDUCED, log 34) -/
def raiseOwn (b : Block) (n : Nat) : Block :=
  { b with flt := { b.flt with pins := b.flt.pins ++
      [{ src := 38, unit := n, status := 0, vi := 256, ctx := 256, detail := 0, own := true }] } }

/-- Sends one control event across to the AO island (R15). (DESIGN CHOICE, log 10) -/
def toAo (b : Block) (e : AoEvent) : Block := { b with ev := b.ev ++ [e] }

/-- Free bytes: the DRBG's output rests on a noise source and is not fixed (R395). (DESIGN CHOICE, log 4) -/
def drawFree (b : Block) (n : Nat) : Bytes × Block :=
  ((List.range n).map fun i => Config.freeByte (b.free + i), { b with free := b.free + n })

/-- One generate request of the DRBG (R395). (DESIGN CHOICE, log 4) -/
def drbg (b : Block) (n : Nat) : Bytes × Block :=
  let (x, b) := drawFree b n
  (x, { b with sec := { b.sec with drbgCount := b.sec.drbgCount + 1 } })

/-! ### Quadrants (R17, R18) -/

def quadOfCtx (c : Nat) : Nat := c / 64
def quadOfChan (n : Nat) : Nat := n / 6
def quadOfPort (n : Nat) : Nat := n / 2
def quadOfLane (n : Nat) : Nat := n / 16

/-- The ring hops from quadrant `s` to `d`, the opposite one reached in ascending order (R183): hop 2q leads from q to
q + 1, hop 2q + 1 from q to q - 1. -/
def ringPath (s d : Nat) : List Nat :=
  if s = d then []
  else if (s + 1) % 4 = d then [2 * s]
  else if (d + 1) % 4 = s then [2 * s + 1]
  else [2 * s, 2 * ((s + 1) % 4)]

/-- The way back from `d` to `s`: the reverse of the request's path (R183). -/
def ringBack (s d : Nat) : List Nat :=
  if s = d then []
  else if (s + 1) % 4 = d then [2 * d + 1]
  else if (d + 1) % 4 = s then [2 * d]
  else [2 * d + 1, 2 * ((s + 1) % 4) + 1]

/-! ### Arbitration points and who asks there (R355-R357) -/

/-- The tables of the arbiters: the context arbiter of quadrant q and the locks of its two paths, channel paths, ring hops,
link egress and the turns of its datelines, Palette banks; and the window counts of the Swatch decoders (R266).
(DEDUCED, log 90) -/
def arbCtx (q : Nat) : Nat := q
def arbPath (q : Nat) (write : Bool) : Nat := 10 + 2 * q + b2n write
def arbChan (n : Nat) (write : Bool) : Nat := 100 + 2 * n + b2n write
def arbRing (hop : Nat) : Nat := 200 + hop
def arbEgress (p : Nat) : Nat := 300 + p
def arbDateline (p cls : Nat) : Nat := 310 + 4 * p + cls
def arbPal (bank : Nat) : Nat := 400 + bank
def arbDec (dec : Nat) : Nat := 700 + dec

/-- The weight of a requester (R356); contexts carry the weight of their binding, and so does a walk for them (R289), 300
above the context's number; the Atelier weighs 255. (DEDUCED, log 77) -/
def weightOf (b : Block) (r : Nat) : Nat :=
  if r < 256 then (b.ctx r).weight
  else if r = 256 || r = 556 then 255
  else if 300 ≤ r && r < 556 then (b.ctx (r - 300)).weight
  else 128

/-- The weight of a link egress class (R356). -/
def egressWeight : Nat → Nat := fun _ => 64

/-- A requester's first request at a point sets its counter to its weight (R357). -/
def Block.ask (b : Block) (key r : Nat) (w : Nat → Nat) : Block :=
  let a := b.arbAt key
  if (a.reqs.get {} r).bound then b else b.setArb key { a with reqs := a.reqs.put {} r { bound := true, ctr := w r } }

/-- Puts data behind what waits at the first hop of its path; each hop passes it in `beats` grants. -/
def ringSend (b : Block) (req beats : Nat) (load : RingLoad) : List Nat → Block
  | [] => b
  | h :: path =>
    let i : RingItem := { req := req, path := path, beats := beats, size := beats, load := load }
    let b := b.ask (arbRing h) req (weightOf b)
    { b with ring := b.ring.upd [] h fun l => l ++ [i] }

/-- What waits at the ring hops. -/
def ringItems (b : Block) : List RingItem := b.ring.flatMap (·.2)

/-! ### OTP (R436-R439) -/

/-- The value of OTP word `w` held as a list of programmed bits. -/
def otpWord (bits : List Nat) (w : Nat) : Nat :=
  (List.range 32).foldl (fun a i => if bits.contains (32 * w + i) then a + 2 ^ i else a) 0

/-- The generation records: first word, words per generation, body bytes (R436, R438, R441). -/
def otpRecord : Nat → Option (Nat × Nat × Nat)
  | 0x5 => some (22, 9, 32)
  | 0x6 => some (58, 73, 288)
  | 0x7 => some (350, 17, 64)
  | 0x8 => some (418, 3, 8)
  | 0x9 => some (430, 19, 72)
  | 0xA => some (506, 13, 48)
  | _ => none

/-- `n` bytes from word `w` on. -/
def otpBytes (bits : List Nat) (w n : Nat) : Bytes :=
  ((List.range (ceilDiv n 4)).flatMap fun i => natLe 4 (otpWord bits (w + i))).take n

/-- Whether any bit of words [w, w + n) is programmed. -/
def otpProgrammed (bits : List Nat) (w n : Nat) : Bool := bits.any fun i => decide (32 * w ≤ i) && decide (i < 32 * (w + n))

/-- A generation is valid when programmed and its CRC matches (R438). -/
def otpGenValid (bits : List Nat) (w words body : Nat) : Bool :=
  otpProgrammed bits w words && Crypto.crc32 (otpBytes bits w body) == otpWord bits (w + words - 1)

/-- A word of the record read differently twice makes the record absent for the start (R440). (DEDUCED, log 22) -/
def otpReadError (a : AO) (w n : Nat) : Bool := a.badWords.any fun i => decide (w ≤ i) && decide (i < w + n)

/-- The active generation of a record: the highest valid one (R439) when the last start sensed it (R440, R444). -/
def otpActive (a : AO) (code : Nat) : Option Nat :=
  match otpRecord code with
  | none => none
  | some (w, n, body) =>
    if otpReadError a w (4 * n) then none
    else ([3, 2, 1, 0].filter fun g => otpGenValid a.inUse (w + g * n) n body).head?

/-- The body of the active generation. -/
def otpBody (a : AO) (code : Nat) : Option Bytes :=
  match otpActive a code, otpRecord code with
  | some g, some (w, n, body) => some (otpBytes a.inUse (w + g * n) body)
  | _, _ => none

/-- All four generations programmed (R439). -/
def otpFrozen (bits : List Nat) (code : Nat) : Bool :=
  match otpRecord code with
  | none => false
  | some (w, n, _) => [0, 1, 2, 3].all fun g => otpProgrammed bits (w + g * n) n

/-- The life-cycle state: one more than the highest programmed bit (R437); BLANK when the word was misread (R440).
(DEDUCED, log 22) -/
def lifeCycle (a : AO) : Nat :=
  if otpReadError a 0 1 then 0
  else match ([4, 3, 2, 1, 0].filter fun i => a.shadow.contains i).head? with
  | some i => i + 1
  | none => 0

/-- PROVISIONED or DEPLOYED: tenants, key slots and link sessions exist (R400). -/
def inService (a : AO) : Bool := lifeCycle a == 2 || lifeCycle a == 3

/-- The count of programmed bits of a counting thermometer of `n` words from word `w` (R437); 0 when misread (R440).
(DEDUCED, log 22) -/
def otpCount (a : AO) (w n : Nat) : Nat :=
  if otpReadError a w n then 0
  else (a.shadow.filter fun i => decide (32 * w ≤ i) && decide (i < 32 * (w + n))).length

/-- The lowest unprogrammed bit of a thermometer (R437). -/
def otpLowest (bits : List Nat) (w n : Nat) : Option Nat :=
  ((List.range (32 * n)).filter fun i => !bits.contains (32 * w + i)).head?.map (32 * w + ·)

/-- The seed among programmed bits. (DEDUCED, log 22) -/
def seedIn (a : AO) (bits : List Nat) : Option Bytes :=
  if otpGenValid bits 13 9 32 && !otpReadError a 13 9 then some (otpBytes bits 13 32) else none

def deviceSeed (a : AO) : Option Bytes := seedIn a a.shadow

/-! ### The AO island -/

/-- Programs one bit; a bit is never returned to 0 (R436). -/
def fuseSet (l : List Nat) (i : Nat) : List Nat := if l.contains i then l else l ++ [i]

/-- Programs the next TAMPER_COUNT bit that a tamper event is due, when one is left (R405, R406). -/
def AO.countTamper (a : AO) : AO :=
  if !a.countDue then a
  else match otpLowest a.fuses 1 8 with
    | some i => { a with fuses := fuseSet a.fuses i, shadow := fuseSet a.shadow i, countDue := false }
    | none => { a with countDue := false }

/-- What one control event does in the AO island (R409, R434, R436, R408). (DESIGN CHOICE, log 10) -/
def AO.apply (a : AO) : AoEvent → AO
  | .security => { a with secEvents := min (a.secEvents + 1) (2 ^ 32 - 1) }
  | .violation off vi st =>
    let a := { a with secEvents := min (a.secEvents + 1) (2 ^ 32 - 1) }
    if a.viol then a
    else { a with viol := true
                  violInfo := BitVec.ofNat 64 (off % 2 ^ 20 + vi % 256 * 2 ^ 20 + st % 65536 * 2 ^ 32) }
  | .fuse i => { a with fuses := fuseSet a.fuses i, shadow := fuseSet a.shadow i }
  | .zeroised => { a with zeroised := true }
  | .tampered => { a with countDue := true }

/-- Runs a meaning of the block part and hands its control events to the AO island. Nothing but these events reaches
AO from a command run this way (R15). (DEDUCED, log 9; DESIGN CHOICE, log 10) -/
def lift (f : AO → Block → Block) (s : State) : Host.Outcome State Fault Refusal :=
  let b := f s.ao s.b
  .next { s with ao := b.ev.foldl AO.apply s.ao, b := { b with ev := [] } }

/-! ### Memory -/

/-- What an unlisted byte of memory reads as. (DESIGN CHOICE, log 3) -/
def memDefault : Byte := 0

/-- The canonical form of a memory: addresses strictly rise, no entry equals what an unlisted address reads as. -/
def Memory.wf (m : List Host.Cell) : Bool := Tab.wf memDefault m

/-- The end of the bootstrap region (R68). -/
def bootEnd : Nat := 0x1000000

/-- The cell of local address `pa` behind channel `ch`; the bootstrap region is one store, which the chip serves on M0 whatever
channel the steering table names (R68). (DEDUCED, log 23) -/
def memKey (ch pa : Nat) : Nat := if pa < bootEnd then pa else ch * 2 ^ 48 + pa

/-- The key of a granule behind a channel. -/
def granKey (ch gran : Nat) : Nat := memKey ch (gran * 256) / 256

/-- `n` bytes behind channel `ch` from local address `pa`. -/
def memRead (b : Block) (ch pa n : Nat) : Bytes := readBytes memDefault b.mem (memKey ch pa) n

def memWrite (b : Block) (ch pa : Nat) (d : Bytes) : Block :=
  { b with mem := writeBytes memDefault b.mem (memKey ch pa) d }

/-- `n` bytes of the Palette from offset `o`. -/
def palRead (b : Block) (o n : Nat) : Bytes := readBytes memDefault b.pal.mem o n

def palWrite (b : Block) (o : Nat) (d : Bytes) : Block :=
  { b with pal := { b.pal with mem := writeBytes memDefault b.pal.mem o d } }

/-- First local address of the scratchpad window and its size (R292). -/
def windowBase : Nat := 0xFE00000000
def windowSize : Nat := 0x3000000
def inWindow (pa : Nat) : Bool := decide (windowBase ≤ pa) && decide (pa < windowBase + windowSize)

/-- The cache line of a granule (R308), and where its bytes stand in the Palette. -/
def findLine (b : Block) (gran : Nat) : Option Line := (b.pal.lines.find? fun e => e.1 == gran).map (·.2)
def Line.offset (l : Line) : Nat := (l.buf * 16 + l.pos) * 256

/-! ### Palette regions and words -/

/-- Units of 4 KiB per quadrant bank, and in the pool (R112). -/
def bankUnits : Nat := 2816
def poolUnits : Nat := 11776

/-- The region of a unit: banks 0-3, the dual-port region 4. -/
def regionOf (u : Nat) : Nat := min 4 (u / bankUnits)

/-- First unit and number of units of a region. -/
def regionFirst (r : Nat) : Nat := bankUnits * r
def regionUnits (r : Nat) : Nat := if r < 4 then bankUnits else 512

/-- The offset in its region of a Palette byte (R292). -/
def palOffset (o : Nat) : Nat := o - regionFirst (regionOf (o / 4096)) * 4096

/-- The uncorrectable words an access of `n` bytes touches. -/
def badIn (b : Block) (o n : Nat) : Bool := b.pal.badWords.any fun w => decide (o / 64 ≤ w) && decide (64 * w < o + n)

/-- The source of an uncorrectable Palette word (R411). -/
def palSource (o : Nat) : Nat := if regionOf (o / 4096) < 4 then 4 + regionOf (o / 4096) else 3

/-! ### Severities (R411, R415) -/

/-- The default severity of a source (R411). -/
def defaultSeverity (s : Nat) : Nat :=
  if s = 0 || s = 2 || s = 9 || s = 58 then 6
  else if 3 ≤ s && s ≤ 7 then 7
  else if s = 1 || s = 8 || s = 32 || s = 42 || s = 43 then 2
  else if (10 ≤ s && s ≤ 13) || (22 ≤ s && s ≤ 25) || s = 31 || (33 ≤ s && s ≤ 35) then 5
  else if (14 ≤ s && s ≤ 21) || (26 ≤ s && s ≤ 30) || s = 36 || s = 44 || s = 45 then 3
  else if s = 38 || s = 39 || s = 57 then 4
  else 1

/-- The severity in force: the image's or SEVERITY_DEFAULTS' list, else the default; 59 to 61 are fixed (R411). -/
def severityOf (b : Block) (s : Nat) : Nat :=
  if 59 ≤ s && s ≤ 61 then 1 else b.setup.severities.getD s (defaultSeverity s)

/-! ### Palette words under their symbol code (R412, R422) -/

/-- What a read of Palette bytes returns: with an uncorrectable word, no data at ABORT_TASK or above, else the bytes stored. -/
def palGet (b : Block) (o n : Nat) : Except Status Bytes :=
  if badIn b o n && decide (5 ≤ severityOf b (palSource o)) then .error .uncorrectable else .ok (palRead b o n)

/-- The region's source for a read that touches an uncorrectable word; the access has a status only where it fails. -/
def palRaise (b : Block) (o n vi ctx : Nat) : Block :=
  if badIn b o n then
    raise b (palSource o) (regionOf (o / 4096)) (if 5 ≤ severityOf b (palSource o) then .uncorrectable else .ok) vi ctx o
  else b

/-- A read of Palette bytes with the event it raises. -/
def palReadChk (b : Block) (o n : Nat) (vi ctx : Nat := 256) : Block × Except Status Bytes :=
  (palRaise b o n vi ctx, palGet b o n)

/-- A write of Palette bytes; a write of all 64 bytes makes a word good again (R422). -/
def palPut (b : Block) (o : Nat) (d : Bytes) : Block :=
  let b := palWrite b o d
  let bad := b.pal.badWords.filter fun w => !(decide (o ≤ 64 * w) && decide (64 * w + 64 ≤ o + d.length))
  { b with pal := { b.pal with badWords := bad } }

/-- A masked write of the Palette bytes at `o`: a word stays uncorrectable unless all its 64 bytes are written (R422). -/
def palMerge (b : Block) (o : Nat) (d mask : Bytes) : Block :=
  let whole := fun (w : Nat) => decide (o ≤ 64 * w) && decide (64 * w + 64 ≤ o + mask.length) &&
    (sliceAt mask (64 * w - o) 64).all fun m => m == 0xFF
  let b := palWrite b o (mergeMasked (palRead b o mask.length) d mask)
  { b with pal := { b.pal with badWords := b.pal.badWords.filter fun w => !whole w } }

/-! ### Channel steering (R294-R296) -/

/-- The steering hash of a local address. -/
def steerHash (pa : Nat) : Nat :=
  (bitsOf pa 19 8 ^^^ bitsOf pa 31 20) ^^^ (bitsOf pa 43 32 ^^^ bitsOf pa 47 44)

/-- Channels in service. -/
def inServiceChans (b : Block) : List Nat := (List.range 24).filter fun n => (b.chan n).service == .inService

/-- The channel number of "no channel". -/
def noChannel : Nat := 31

/-- Entry `h` before any rewrite: the image's, or the even spread over the channels then in service (R86, R295).
(DEDUCED, log 54) -/
def steerBase (b : Block) (h : Nat) : Nat :=
  match b.setup.steer with
  | some t => (t.getD h 0).toNat % 32
  | none => if b.steerSpread.isEmpty then noChannel else b.steerSpread.getD (h % b.steerSpread.length) noChannel

/-- Entry `h` of the table in service. -/
def steerOf (b : Block) (h : Nat) : Nat :=
  match b.steerOver.get noChannel h with
  | 31 => steerBase b h
  | c => c

/-- Reassigns the entries that name channel `c`, in ascending h, round robin over the in-service channels of its
quadrant, else over all in service; with none in service the entries stay (R295). (DEDUCED, log 54) -/
def rewriteSteering (b : Block) (c : Nat) : Block :=
  let l := (inServiceChans b).filter (· != c)
  let near := l.filter fun n => quadOfChan n == quadOfChan c
  let pool := if near.isEmpty then l else near
  if pool.isEmpty then b
  else
    let es := (List.range 4096).filter fun h => steerOf b h == c
    let ov := (List.range es.length).foldl
      (fun t i => Tab.put noChannel t (es.getD i 0) (pool.getD (i % pool.length) noChannel)) b.steerOver
    { b with steerOver := ov }

/-- The channel of a local address. -/
def channelOf (b : Block) (pa : Nat) : Option Nat :=
  let c := steerOf b (steerHash pa)
  if c < 24 then some c else none

/-- A channel negotiated as untrusted, or not negotiated, encrypts (R76). -/
def untrusted (b : Block) (ch : Nat) : Bool :=
  match (b.chan ch).mode with
  | some m => !m.trusted
  | none => true

/-- The plaintext of a granule as it stands behind a channel (R389). -/
def granPlain (b : Block) (ch gran ksel : Nat) (raw : Bytes) : Bytes :=
  if untrusted b ch then Crypto.xtsDecrypt (b.keySlot ksel).key gran raw else raw

def granCipher (b : Block) (ch gran ksel : Nat) (d : Bytes) : Bytes :=
  if untrusted b ch then Crypto.xtsEncrypt (b.keySlot ksel).key gran d else d

/-- How a read of a granule ends after every retry, when it ends badly. (DESIGN CHOICE, log 55) -/
def badRead (b : Block) (ch gran : Nat) : Option Status :=
  match b.badGran.get 0 (granKey ch gran) with
  | 0 => none
  | 3 => some .uncorrectable
  | 4 => some .parity
  | _ => some .busRetryExhausted

/-! ### Power domains (R365, R371, R373) -/

/-- Bit `i` of a mask. -/
def hasBit (m i : Nat) : Bool := m.testBit i

/-- The valid domains a channel and local address belong to: one by its mask, one by its range, or one by both (R365). -/
def domainsOf (b : Block) (ch : Option Nat) (pa : Option Nat) : List Nat :=
  (List.range 16).filter fun d =>
    match b.setup.domains[d]? with
    | none => false
    | some r => r.valid &&
      ((match ch with | some c => hasBit r.chMask c | none => false) ||
       (match pa with | some p => r.range && decide (r.lo ≤ p) && decide (p ≤ r.hi) | none => false))

/-- The valid domain a stream port belongs to. -/
def domainOfPort (b : Block) (p : Nat) : Option Nat :=
  ((List.range 16).filter fun d =>
    match b.setup.domains[d]? with
    | none => false
    | some r => r.valid && hasBit r.spMask p).head?

/-- What a draining or acknowledged domain does to new work: nothing, hold it, or fail it (R371, R373). -/
inductive DomEffect where
  | pass | hold | fail
  deriving DecidableEq, Repr

/-- What its domains do to an access; of two, the one that fails it decides, then one that holds it. (DEDUCED, log 74) -/
def domEffect (b : Block) (ds : List Nat) (fail : Nat → Bool) : DomEffect :=
  if ds.any fun d => (b.pdom d).ack && fail d then .fail
  else if ds.any fun d => (b.pdom d).drain || (b.pdom d).ack then .hold
  else .pass

/-- The default policy of a domain (R365). -/
def domFails (b : Block) (d : Nat) : Bool := match b.setup.domains[d]? with | some r => r.fail | none => false

/-- What the domains do to an access of the Atelier or the walker. (DEDUCED, log 74) -/
def domStatus (b : Block) (ch pa : Nat) : Option Status :=
  match domEffect b (domainsOf b (some ch) (some pa)) (domFails b) with
  | .pass => none
  | .hold => some .held
  | .fail => some .domainOff

/-- The retry limit of the Atelier's own accesses (R175). (DEDUCED, log 93) -/
def atelierLimit : Nat := 3

/-- The retry limit of a reader within a row: a context's own, or, of reader 256, the Atelier's (R175). -/
def rowLimit (b : Block) (r : Nat) : Nat := if r < 256 then (b.ctx r).limit else atelierLimit

/-- How an access within a row stands at a channel: on a lost one it counts one RETRY when it first finds it so and one for each
tick it waits, up to its limit (R78); on a critical one it waits without a limit (R364); one that is not in service otherwise
fails it (R295). (DEDUCED, log 93) -/
def chanStatus (b : Block) (r ch gran : Nat) : Option Status :=
  let c := b.chan ch
  match c.service with
  | .inService => if c.therm = 3 then some .held else none
  | .lost =>
    let n := match c.found.find? fun e => e.1 == r && e.2.1 == gran with | some e => e.2.2 | none => 1
    if rowLimit b r ≤ n then some .busRetryExhausted else some .held
  | _ => some .busRetryExhausted

/-- A read of `n` bytes of a record at a local address outside the window for a reader, granule by granule; with no channel at
all every access fails (R295). (DESIGN CHOICE, log 11) -/
def localRead (b : Block) (ksel r : Nat) : Nat → Nat → Nat → Except Status Bytes
  | 0, _, _ => .ok []
  | _, _, 0 => .ok []
  | fuel + 1, pa, n =>
    match channelOf b pa with
    | none => .error .busRetryExhausted
    | some ch =>
      let g := pa / 256
      match ((chanStatus b r ch g).or (domStatus b ch pa)).or (badRead b ch g) with
      | some st => .error st
      | none =>
        let off := pa % 256
        let m := min n (256 - off)
        let d := granPlain b ch g ksel (memRead b ch (g * 256) 256)
        match localRead b ksel r fuel (pa + m) (n - m) with
        | .error e => .error e
        | .ok rest => .ok ((d.drop off).take m ++ rest)

/-- An Atelier write of bytes at a local address outside the window. (DESIGN CHOICE, log 11) -/
def localWrite (b : Block) (ksel : Nat) : Nat → Nat → Bytes → Except Status Block
  | 0, _, _ => .ok b
  | _, _, [] => .ok b
  | fuel + 1, pa, d =>
    match channelOf b pa with
    | none => .error .busRetryExhausted
    | some ch =>
      match (chanStatus b 256 ch (pa / 256)).or (domStatus b ch pa) with
      | some st => .error st
      | none =>
        let g := pa / 256
        let off := pa % 256
        let m := min d.length (256 - off)
        match (if m < 256 && untrusted b ch then badRead b ch g else none) with
        | some st => .error st
        | none =>
        let old := granPlain b ch g ksel (memRead b ch (g * 256) 256)
        let new := granCipher b ch g ksel (patchAt old off (d.take m))
        localWrite (memWrite b ch (g * 256) new) ksel fuel (pa + m) (d.drop m)

end Sys2Proof.Machine
end

