-- ==== Sys2Proof/Machine/LinkBase.lean ====
section
/-! DEFINITION. Flits and their headers (R319), MGMT messages and their framing (R331, R332), routing (R340, R341) and the
egress queues of a link port (R325). -/

namespace Sys2Proof.Machine

/-- Virtual channels (R319) and operations (R320). -/
def vcReq : Nat := 0
def vcRsp : Nat := 1
def vcColl : Nat := 2
def vcMgmt : Nat := 3
def opWrite : Nat := 1
def opRead : Nat := 2
def opRdata : Nat := 3
def opAck : Nat := 4
def opFadd : Nat := 0xA
def opBe : Nat := 0xB
def opModq : Nat := 0xC
def opSwatch : Nat := 0xD
def opMgmt : Nat := 0xE

/-- Message types (R332). -/
def mtKeepalive : Nat := 1
def mtCapability : Nat := 2
def mtInit : Nat := 3
def mtResp : Nat := 4
def mtFin : Nat := 5
def mtSlip : Nat := 6
def mtAbort : Nat := 7
def mtCommand : Nat := 8
def mtCompletion : Nat := 9

/-- Body length of a message type; none for a reserved type (R332). -/
def mgmtLen : Nat → Option Nat
  | 1 => some 24 | 2 => some 8 | 3 => some 8867 | 4 => some 13494 | 5 => some 4627
  | 6 => some 16 | 7 => some 16 | 8 => some 72 | 9 => some 40 | _ => none

/-- The class of a flit: VC and dateline (R325). -/
def flitClass (vc dl : Nat) : Nat := 2 * vc + dl

/-- Initial credits and receive buffers of a class (R325). -/
def initCredit (cls : Nat) : Nat := if cls / 2 = vcMgmt then 8 else 32

def Link.credit (l : Link) (cls : Nat) : Nat := l.credits.get (initCredit cls) cls
def Link.setCredit (l : Link) (cls n : Nat) : Link := { l with credits := l.credits.put (initCredit cls) cls n }

/-- The flits waiting in an egress class. -/
def Link.outQ (l : Link) (cls : Nat) : List Flit := l.egress.get [] cls
def Link.setOutQ (l : Link) (cls : Nat) (q : List Flit) : Link := { l with egress := l.egress.put [] cls q }

/-- Puts a flit behind the others of its class. -/
def Link.push (l : Link) (f : Flit) : Link :=
  let c := flitClass f.vc f.dl
  l.setOutQ c (l.outQ c ++ [f])

/-- Puts flits into a port's egress; the classes REQ, RSP and COLL ask for slots there (R355). -/
def enqueue (b : Block) (p : Nat) (fs : List Flit) : Block :=
  (fs.foldl (fun b f => if f.vc = vcMgmt then b else b.ask (arbEgress p) f.vc egressWeight) b).modLink p
    fun l => fs.foldl Link.push l

/-- LINK_READY (R80). -/
def linkReady (b : Block) (p : Nat) : Bool := (b.link p).phase == .ready

/-- A payload padded to 256 bytes. -/
def pad256 (d : Bytes) : Bytes := d.take 256 ++ List.replicate (256 - d.length) 0

/-- Cuts a message into 256-byte payloads, the last padded with zeros. -/
def payloads : Nat → Bytes → List Bytes
  | 0, _ => []
  | n + 1, d => pad256 d :: payloads n (d.drop 256)

/-- The message word and body of a MGMT message (R331). -/
def mgmtBytes (mtype : Nat) (body : Bytes) : Bytes := natLe 8 (mtype + body.length * 2 ^ 16) ++ body

/-- The flits of a MGMT message (R331). -/
def mgmtFlits (b : Block) (mtype dst : Nat) (body : Bytes) : List Flit :=
  let m := mgmtBytes mtype body
  let n := ceilDiv m.length 256
  let ps := payloads n m
  (List.range n).map fun i =>
    { vc := vcMgmt, dl := 0, eom := decide (i + 1 = n), op := opMgmt, dst := dst, src := b.setup.chipId
      rix := 0, vi := 0, ksel := 0, addr := 0, aux := 0, hops := 0, payload := ps.getD i [] }

/-- Sends a neighbour-only message on a port. -/
def sendNeighbour (b : Block) (p mtype : Nat) (body : Bytes) : Block := enqueue b p (mgmtFlits b mtype 0xFFFF body)

/-- What routing decides for a flit (R341). -/
inductive Route where
  | deliver
  | noRoute
  | hopLimit
  | send (port : Nat) (dl : Bool)
  | notReady
  deriving DecidableEq, Repr

/-- The routing decision of R341 for a destination. -/
def routeTo (b : Block) (dst : Nat) : Route :=
  if dst = b.setup.chipId then .deliver
  else
    let e := b.setup.routes.get 0 dst
    if !bitOf e 0 then .noRoute
    else if linkReady b (bitsOf e 3 1) then .send (bitsOf e 3 1) (bitOf e 4)
    else if bitOf e 5 && linkReady b (bitsOf e 8 6) then .send (bitsOf e 8 6) (bitOf e 9)
    else .notReady

/-- The link instance of a ROUTE event of this chip's own flits: the primary port its routing entry names (R340, R411).
(DESIGN CHOICE, log 13) -/
def entryPort (b : Block) (dst : Nat) : Nat := bitsOf (b.setup.routes.get 0 dst) 3 1

/-- Sends own flits on their route with dateline class dl; own messages with no ready port are held, and a COMPLETION to this
chip is delivered (R341). -/
def routeOwn (b : Block) (fs : List Flit) : Block :=
  match fs with
  | [] => b
  | f :: _ =>
    match routeTo b f.dst with
    | .send p dl => enqueue b p (fs.map fun f => { f with dl := if dl then 1 else f.dl })
    | .notReady => { b with heldFlits := b.heldFlits ++ fs }
    | .deliver => { b with received := b.received ++ fs.map fun f => (f.src, sliceAt f.payload 8 40) }
    | _ => raise b 49 (entryPort b f.dst) (status := .route)

/-- Takes up the held messages when a port becomes ready. -/
def releaseHeldFlits (b : Block) : Block :=
  let fs := b.heldFlits
  fs.foldl (fun b f => routeOwn b [f]) { b with heldFlits := [] }

/-! ### Safe state, zeroisation, the error state -/

/-- The channels with nothing but the thermal state their partners show: it is a pin of the outside (R37, R66). -/
def bareChans (b : Block) : Tab Chan := b.chans.mapVals {} fun _ c => { therm := c.therm }

/-- Every island but AO, and CT unless `ct`, drives its safe state: its outputs are at their reset values (R413, R417). -/
def goSafe (ct : Bool) (b : Block) : Block :=
  { b with chans := bareChans b, sports := [], links := [], ring := [], palq := []
           drq := b.drq.mapVals {} fun _ d => { held := d.held }
           pd := if ct then b.pd.mapVals {} fun _ p => { req := p.req } else b.pd
           islands := { b.islands with safe := b.islands.safe ||| BitVec.ofNat 38 (if ct then 2 ^ 38 - 1 else 2 ^ 37 - 1)
                                       alive := [] } }

/-- Every SSP of the block is overwritten with zero (R407); the certificate is none. -/
def zeroSsps (b : Block) : Block :=
  { b with sec := { cert := b.sec.cert }, links := b.links.mapVals {} fun _ l => { l with sess := {} } }

/-- The error state of the cryptographic boundary (R399). (DEDUCED, log 21) -/
def enterError (b : Block) : Block :=
  let b := goSafe false (zeroSsps b)
  { b with boot := { b.boot with stage := 0xE } }

end Sys2Proof.Machine
end

