-- ==== Sys2Proof/Machine/Requests.lean ====
section
/-! DEFINITION. Accesses as data: whose they are, the granules they touch, the groups of R342, the flits of a request to
another chip (R319-R321), and how it leaves: its index and route (R330, R341), and the ring to its link (R19, R183). -/

namespace Sys2Proof.Machine

/-! ### Owners -/

/-- The context an access belongs to. A walker read belongs to its walk. -/
def Owner.ctx : Owner → Option Nat
  | .unitRead c _ _ _ => some c
  | .unitWrite c _ _ _ => some c
  | .readback c => some c
  | .signal c => some c
  | .fetch c => some c
  | .flag c => some c
  | .recRead r => if r < 256 then some r else none
  | .writeback c => c
  | _ => none

/-- The context whose retry limit and failure policy an access has: its own, or the one that missed (R281, R289). -/
def Owner.onBehalf (o : Owner) : Option Nat :=
  match o with
  | .walk _ c => some c
  | o => o.ctx

/-- The execution an access belongs to. -/
def Owner.seq : Owner → Option Nat
  | .unitRead _ s _ _ => some s
  | .unitWrite _ s _ _ => some s
  | _ => none

/-- The requester number at an arbiter (R356): contexts 0-255, the Atelier 256, eviction write-backs 258, remote requests
259, a walk for a context 300 above the context's number. (DEDUCED, log 77) -/
def Owner.source (o : Owner) : Nat :=
  match o with
  | .writeback none => 258
  | .remote _ _ _ _ _ => 259
  | .discard => 260
  | .record _ _ => 256
  | .walk _ c => 300 + c
  | o => o.ctx.getD 256

/-- The requester number of a link island at a ring hop. (DESIGN CHOICE, log 94) -/
def linkSource (p : Nat) : Nat := 600 + p

/-- The quadrant on whose side of the ring an access's data stands: its context's, or its link's. Line fills, write-backs
and the walker stand at the channel. (DEDUCED, log 94) -/
def Owner.quad : Owner → Option Nat
  | .unitRead c _ _ _ => some (quadOfCtx c)
  | .unitWrite c _ _ _ => some (quadOfCtx c)
  | .readback c => some (quadOfCtx c)
  | .signal c => some (quadOfCtx c)
  | .fetch c => some (quadOfCtx c)
  | .flag c => some (quadOfCtx c)
  | .remote p _ _ _ _ => some (quadOfPort p)
  | _ => none

/-- The requester of an access's data at the ring hops. -/
def Owner.ringSource : Owner → Nat
  | .remote p _ _ _ _ => linkSource p
  | o => o.source

/-- An access that still has to read: a read, or the read of a read-modify-write or line fill. -/
def Acc.reads (a : Acc) : Bool := !a.write || (!a.combined && (a.fill || a.rmw.isSome))

/-- An access over a granule with everything else at rest. -/
def mkAcc (owner : Owner) (write : Bool) (gran off len va vi ksel : Nat) (data mask : Bytes) : Acc :=
  { ch := 0, gran := gran, owner := owner, write := write, data := data, mask := mask, off := off, len := len
    va := va, vi := vi, ksel := ksel, retries := 0, tag := none, rmw := none, combined := false, fill := false
    remoteClass := match owner with | .remote _ _ _ _ _ => true | _ => false }

/-- Bytes placed in a granule, and the mask over them. -/
def placeIn (off : Nat) (d : Bytes) : Bytes := patchAt (List.replicate 256 0) off d
def maskIn (off n : Nat) : Bytes := patchAt (List.replicate 256 0) off (List.replicate n 0xFF)

/-- Whether all 256 bytes are enabled. -/
def Acc.full (a : Acc) : Bool := a.mask.all (· == 0xFF)

/-! ### Groups -/

/-- The group whose window holds a local address (R342). -/
def groupOf (b : Block) (pa : Nat) : Option Nat :=
  ((List.range b.setup.groups.length).filter fun g =>
    match b.setup.groups[g]? with
    | some r => decide (r.lo ≤ pa) && decide (pa ≤ r.hi)
    | none => false).head?

/-! ### Requests -/

/-- Whether an instance's remote writes are unordered (R307). -/
def unorderedVi (b : Block) (vi : Nat) : Bool := vi == 0 || (b.vinst vi).tpl.bulk

/-- 32 byte-enable bytes of a mask. -/
def enableBytes (mask : Bytes) : Bytes :=
  (List.range 32).map fun i =>
    BitVec.ofNat 8 ((List.range 8).foldl (fun a j => a + b2n (mask.getD (8 * i + j) 0 != 0) * 2 ^ j) 0)

/-- The operand granule and enables of a reduce request: the elements at their offsets. -/
def redOperand (ty : Nat) (es : List RedElt) : Bytes × Bytes :=
  es.foldl (fun (d, m) e =>
    let n := nibsOf ty / 2
    (patchAt d e.off (natLe n e.val), patchAt m e.off (List.replicate n 0xFF)))
    (List.replicate 256 0, List.replicate 256 0)

/-- The modulus of each element slot (R321, uq = 0). -/
def modqBytes (ty : Nat) (es : List RedElt) : Bytes :=
  es.foldl (fun d e => patchAt d (e.off / (nibsOf ty / 2) * (nibsOf ty / 2)) (natLe (nibsOf ty / 2) e.q))
    (List.replicate 256 0)

/-- The operation of a request (R320). -/
def opOfAcc (a : Acc) : Nat :=
  if !a.write || (a.rmw == some .merge && !a.combined) then opRead
  else match a.rmw with
    | some (.reduce mode _ _) => 5 + mode
    | some (.addFlag _ _ _) => opFadd
    | _ => opWrite

/-- The flits of a request (R319-R321) under a remote index. -/
def requestFlits (b : Block) (r : RemReq) (rix dl : Nat) : List Flit :=
  let a := r.acc
  let vc := if r.group.isSome && r.op != opRead then vcColl else vcReq
  let epoch := match r.group, a.owner.ctx with
    | some g, some c => (((b.ctx c).groups.find? fun e => e.1 == g).map (·.2)).getD (b.grp g).epoch
    | some g, none => (b.grp g).epoch
    | none, _ => 0
  let un := b2n (unorderedVi b a.vi) * 2 ^ 8
  let base : Flit := { vc := vc, dl := dl, eom := true, op := r.op, dst := r.chip, src := b.setup.chipId, rix := rix
                       vi := a.vi, ksel := a.ksel, addr := a.gran, aux := epoch + un, hops := 0, payload := [] }
  let be := fun (m : Bytes) (last : Bool) =>
    { base with op := opBe, aux := 0, eom := last, payload := pad256 (enableBytes m) }
  if r.op = opSwatch then
    let m := natLe 8 ((a.gran * 256 + a.off) % 256) ++ r.record
    let n := ceilDiv m.length 256
    let ps := payloads n m
    (List.range n).map fun i => { base with aux := epoch + un, eom := decide (i + 1 = n), payload := ps.getD i [] }
  else if r.op = opRead then
    [{ base with rix := 0, vi := 0, ksel := 0, addr := 0, aux := 0
                 payload := pad256 (natLe 16 (a.gran + rix * 2 ^ 40 + a.vi * 2 ^ 56 + a.ksel * 2 ^ 64 + 2 ^ 72)) }]
  else match a.rmw with
    | some (.reduce mode ty es) =>
      let (d, m) := redOperand ty es
      let part := !(m.all (· == 0xFF))
      let uq := es.all fun e => e.q == (es.head?.map (·.q)).getD 0
      let aux := epoch + un + b2n part * 2 ^ 9 + b2n (mode == 0 && uq) * 2 ^ 10 + ty * 2 ^ 11
      [{ base with eom := !part && mode != 0, aux := aux, payload := d }] ++
        (if part then [be m (mode != 0)] else []) ++
        (if mode = 0 then
          [{ base with op := opModq, aux := 0
                       payload := if uq then pad256 (natLe 8 ((es.head?.map (·.q)).getD 0)) else modqBytes ty es }]
         else [])
    | some (.addFlag off n v) =>
      [{ base with eom := false, aux := epoch + un + 2 ^ 9, payload := placeIn off (natLe n v) }, be (maskIn off n) true]
    | _ =>
      if a.full then [{ base with payload := a.data }]
      else [{ base with eom := false, aux := epoch + un + 2 ^ 9, payload := a.data }, be a.mask true]

/-- Whether a read is never sent by a group's virtual channel; a request's group (R324, R345). -/
def remGroup (b : Block) (a : Acc) : Option Nat := groupOf b (a.gran * 256)

/-- The lowest free remote index of a port, of 8,192 (R330). -/
def freeRix (l : Link) : Option Nat := lowestIn (l.reqs.map (·.1)) 8192

/-- Inserts a request at an index, in rising order. -/
def putReq (l : Link) (i : Nat) (r : RemReq) : Link := { l with reqs := Tab.insert l.reqs i r }

/-- Puts flits into a port's egress, over the ring when their data stands in another quadrant (R19, R183). -/
def sendFlits (b : Block) (req : Nat) (q : Option Nat) (p : Nat) (fs : List Flit) : Block :=
  match (q.map fun q => ringPath q (quadOfPort p)).getD [] with
  | [] => enqueue b p fs
  | path => ringSend b req fs.length (.flits p fs) path

/-- Requests to other chips that have not been answered. -/
def openReqs (b : Block) : List RemReq := b.links.flatMap (fun e => e.2.reqs.map (·.2)) ++ b.held

/-- A write that changes one nibble of a byte on another chip: first the read of its granule, then the combined write. -/
def Acc.merges (a : Acc) : Bool := a.write && a.rmw == some .merge

/-- A merge holds its granule: another write of this block there waits until it has been answered, and it waits for one under
way (R142). -/
def granHeld (b : Block) (r : RemReq) : Bool :=
  (openReqs b).any fun x => x.chip == r.chip && x.acc.gran == r.acc.gran && x.acc.write &&
    (r.acc.merges || x.acc.merges)

/-- An ordered context's write follows its earlier ones to the same chip: those held, a merge that is still reading, and, for
one that is not for the encoder itself, those an encoder or the ring to it still holds (R303, R306). -/
def behind (b : Block) (r : RemReq) : Bool :=
  match r.acc.owner.ctx with
  | none => false
  | some c =>
    let mine := fun (a : Acc) => a.owner.ctx == some c && a.write
    !unorderedVi b r.acc.vi &&
      ((b.held.any fun x => x.chip == r.chip && mine x.acc) ||
        (openReqs b).any (fun x => x.chip == r.chip && mine x.acc && x.op == opRead) ||
        (!r.enc &&
          ((b.links.any fun e => e.2.encoder.any fun k => k.chip == r.chip && k.accs.any mine) ||
            (ringItems b).any fun i => match i.load with
              | .encode _ chip a => chip == r.chip && mine a
              | _ => false)))

/-- Whether a write waits its turn at the source. The combined write of a merge and a record of link blocks have theirs. -/
def waitsTurn (b : Block) (r : RemReq) : Bool :=
  r.acc.write && !r.acc.combined && r.op != opSwatch && (granHeld b r || behind b r)

/-- Holds a request: a combined write before all others, since its granule is held for it (R142). -/
def holdReq (b : Block) (r : RemReq) : Block :=
  { b with held := if r.acc.combined then r :: b.held else b.held ++ [r] }

/-- Sends a remote request on its route from a quadrant; with no ready port or no free index it is held, and while it is not its
turn (R330). None without a route. -/
def sendReqFrom (q : Option Nat) (b : Block) (r : RemReq) : Option Block :=
  match routeTo b r.chip with
  | .send p dl =>
    match if waitsTurn b r then none else freeRix (b.link p) with
    | none => some (holdReq b r)
    | some i =>
      let r := { r with acc := { r.acc with ch := p } }
      let b := b.modLink p fun l => putReq l i r
      some (sendFlits b r.acc.owner.ringSource q p (requestFlits b r (p * 8192 + i) (b2n dl)))
  | .notReady => some (holdReq b r)
  | _ => none

/-- Sends a remote request from where its data stands: a read carries none, a SWATCH record stands at its link. -/
def sendReq (b : Block) (r : RemReq) : Option Block :=
  sendReqFrom (if r.op = opRead || r.op = opSwatch then none else r.acc.owner.quad) b r

/-- The granule of a record that has come from another chip for a reader. -/
def recGot (b : Block) (r vi va : Nat) : Option RecAnswer :=
  b.recIn.find? fun a => a.reader == r && a.vi == vi && a.va == va / 256 * 256

/-- A reader's row is over: what came for it is of no more use. -/
def recForget (b : Block) (r : Nat) : Block := { b with recIn := b.recIn.filter fun a => a.reader != r }

/-- The answer to a reader's request. -/
def recAnswer (b : Block) (r vi va : Nat) (st : Status) (d : Bytes) : Block :=
  { b with recIn := b.recIn ++ [{ reader := r, vi := vi, va := va / 256 * 256, status := st, data := d }] }

/-- Writes bytes of a record within one granule of another chip's memory (R276, R305); none without a route. -/
def recordOut (b : Block) (cq : Option Nat) (vi pa ksel va : Nat) (d : Bytes) : Option Block :=
  let off := pa % 256
  let a := mkAcc (.record cq b.rin.nextJob) true (pa % 2 ^ 48 / 256) off d.length va vi ksel (placeIn off d)
    (maskIn off d.length)
  sendReq b { acc := a, chip := bitsOf pa 63 48, op := opOfAcc a, group := remGroup b a }

end Sys2Proof.Machine
end

