-- ==== Sys2Proof/Machine/Translate.lean ====
section
/-! DEFINITION. Address translation and protection: the walker (R276-R281), rights, classes and key selectors
(R282, R283), the TLBs and pointer cache (R288, R289), the scratchpad window (R292, R293), and reads and writes by
virtual address. -/

namespace Sys2Proof.Machine

/-- The page class of control records (R283). -/
def clsControl : Nat := 6

/-- Chip IDs that name this chip (R276). -/
def isLocalChip (b : Block) (id : Nat) : Bool := id == 0xFFFF || id == b.setup.chipId

/-- The index of a VA at a level (R278). -/
def ptIndex (va lvl : Nat) : Nat :=
  match lvl with
  | 3 => bitsOf va 55 48
  | 2 => bitsOf va 47 39
  | 1 => bitsOf va 38 30
  | _ => bitsOf va 29 21

/-- Size code and log2 size of the leaf a level allows (R278, R279). -/
def leafSize (lvl : Nat) : Nat := match lvl with | 2 => 3 | 1 => 2 | 0 => 1 | _ => 0
def leafLog (lvl : Nat) : Nat := match lvl with | 2 => 39 | 1 => 30 | _ => 21

/-- Reads one table entry: local memory only, key selector 0, plaintext, never from an untrusted channel (R281). -/
def readEntry (b : Block) (r pa : Nat) : Except Status Nat :=
  match channelOf b pa with
  | none => .error .busRetryExhausted
  | some ch => if untrusted b ch then .error .xlateFault
    else match localRead b 0 r 2 pa 8 with
      | .error e => .error e
      | .ok d => .ok (leNat d)

/-- Whether the reserved bits of an entry are zero (R279). -/
def entryReserved (e : Nat) : Bool :=
  if bitsOf e 4 3 = 0 then bitsOf e 2 1 == 0 && bitsOf e 11 5 == 0
  else bitsOf e 11 9 == 0 && bitsOf e 20 20 == 0

/-- What an entry read at a level leads to (R280): the next table, or the end of the walk. -/
inductive WalkStep where
  | table (t : Nat)
  | found (f : Found)
  deriving DecidableEq, Repr

def entryAt (lvl e : Nat) : WalkStep :=
  if !bitOf e 0 || !entryReserved e then .found (.fail .xlateFault)
  else if bitsOf e 4 3 = 0 then
    let t := bitsOf e 63 12 * 4096
    if lvl = 0 || bitsOf t 63 48 ≠ 0xFFFF || inWindow (t % 2 ^ 48) then .found (.fail .xlateFault)
    else .table t
  else if bitsOf e 4 3 ≠ leafSize lvl then .found (.fail .xlateFault)
  else if bitsOf e 7 5 = 7 || bitsOf e 63 21 * 2 ^ 21 % 2 ^ leafLog lvl ≠ 0 then .found (.fail .xlateFault)
  else if bitOf e 8 && bitOf e 2 then .found (.fail .xlateFault)
  else .found (.leaf e lvl)

/-- The walk of R280 from a table at level `lvl`: the leaf and its level, or the failing status. -/
def walkFrom (b : Block) (r va : Nat) : Nat → Nat → Nat → Except Status (Nat × Nat)
  | 0, _, _ => .error .xlateFault
  | fuel + 1, lvl, t =>
    match readEntry b r (t % 2 ^ 48 + 8 * ptIndex va lvl) with
    | .error s => .error s
    | .ok e =>
      match entryAt lvl e with
      | .table t => walkFrom b r va fuel (lvl - 1) t
      | .found (.leaf e l) => .ok (e, l)
      | .found (.fail s) => .error s

/-- The lowest cached table for a VA, else the root (R289). -/
def walkStart (b : Block) (vi gen va : Nat) : Nat × Nat :=
  match [0, 1, 2].findSome? fun lvl => b.xl.ptrs.find? fun p =>
      p.vi == vi && p.gen == gen && p.level == lvl && p.va == va / 2 ^ (leafLog lvl + 9) * 2 ^ (leafLog lvl + 9) with
  | some p => (p.level, p.table)
  | none => (3, (b.vinst vi).root)

/-- The walk of a tenant VA for a record read within a row: leaf entry and log2 page size (R280, R289), its entries read whole
with the row under the retry limit of the reader (R281). (DESIGN CHOICE, log 11) -/
def walkVa (b : Block) (r vi va : Nat) : Except Status (Nat × Nat) :=
  let (lvl, t) := walkStart b vi (b.vinst vi).gen va
  if inWindow (t % 2 ^ 48) then .error .xlateFault
  else match walkFrom b r va (lvl + 1) lvl t with
    | .error s => .error s
    | .ok (e, lvl) => .ok (e, leafLog lvl)

/-- The physical address a leaf gives a VA. -/
def leafPa (leaf log va : Nat) : Nat := bitsOf leaf 63 21 * 2 ^ 21 + va % 2 ^ log

/-- A resource's generation is its owner's; while a reset runs, the generation before it still serves the tracker words
of R115, step 5. -/
def genOk (b : Block) (vi gen : Nat) : Bool :=
  gen == (b.vinst vi).gen || ((b.vinst vi).stage != 0 && (gen + 1) % 65536 == (b.vinst vi).gen)

/-- A buffer of use 0 whose owner tag names the issuer covers the whole window access (R293). -/
def windowOk (b : Block) (vi pa n : Nat) : Bool :=
  let o := pa - windowBase
  b.pal.slots.any fun (u, p) =>
    p.alloc && p.use == 0 && p.vi == vi && p.gen == (b.vinst vi).gen &&
      decide (u * 4096 ≤ o) && decide (o + n ≤ (u + p.units) * 4096)

/-- Whether instance `vi` may use key slot `k` (check 4 of R282): slot 0 for VI 0, else a slot it holds and has not
begun to destroy (R387). -/
def keyOk (b : Block) (vi k : Nat) : Bool :=
  if vi = 0 then k == 0
  else let s := b.keySlot k; s.live && !s.revoked && s.vi == vi && genOk b vi s.gen

/-- What a checked access needs of its leaf (R282): read, write, data class, and the bytes of the access. -/
structure Need where
  rd : Bool
  wr : Bool
  cls : Nat
  len : Nat
  deriving DecidableEq, Repr

/-- Checks 2 to 5 of R282 on a leaf; the physical address and key selector of the access. -/
def checkLeaf (b : Block) (vi va : Nat) (need : Need) (leaf log : Nat) : Except Status (Nat × Nat) :=
  if (need.rd && !bitOf leaf 1) || (need.wr && !bitOf leaf 2) then .error .permission
  else if bitsOf leaf 7 5 ≠ need.cls then .error .permission
  else if !keyOk b vi (bitsOf leaf 19 12) then .error .keySelect
  else
    let pa := leafPa leaf log va
    if isLocalChip b (bitsOf pa 63 48) && inWindow (pa % 2 ^ 48) && !windowOk b vi (pa % 2 ^ 48) need.len then
      .error .permission
    else .ok (pa, bitsOf leaf 19 12)

/-- The translation of VI 0 (R277). -/
def translate0 (b : Block) (va : Nat) (need : Need) : Except Status (Nat × Nat) :=
  if va / 2 ^ 48 ≠ 0 then .error .xlateFault
  else if inWindow va && !windowOk b 0 va need.len then .error .permission
  else .ok (0xFFFF * 2 ^ 48 + va, 0)

/-! ### TLBs (R285-R290) -/

/-- The entry of a TLB list that covers a VA for an instance: its generation must be current unless it is global. -/
def tlbFind (b : Block) (l : List TlbEntry) (vi va : Nat) : Option TlbEntry :=
  l.find? fun e => e.vi == vi && e.va == va / 2 ^ e.log * 2 ^ e.log &&
    (e.gen == (b.vinst vi).gen || bitOf e.leaf 8)

/-- The second-level slice that holds a page (R288). -/
def tlbSlice (va log : Nat) : Nat := bitsOf va (log + 1) log ^^^ bitsOf va (log + 3) (log + 2)

/-- Ring hops from a quadrant to a slice and back count alike; the Atelier stands beside all slices. -/
def sliceHops (q : Option Nat) (h : Nat) : Nat := match q with | some q => (ringPath q h).length | none => 0

/-- The three probes of the second level, the first to return first; of two that return together the smaller page's.
(DESIGN CHOICE, log 112) -/
def probeOrder (q : Option Nat) (va : Nat) : List Nat := sortBy (fun lg => sliceHops q (tlbSlice va lg)) [21, 30, 39]

/-- First level of the reader's quadrant, then the second level, probed for all three page sizes, each in its own slice
(R288); a second-level hit also fills the first. -/
def tlbLookup (b : Block) (q : Option Nat) (vi va : Nat) : Option (TlbEntry × Block) :=
  match q.bind fun q => tlbFind b (b.xl.l1.get [] q) vi va with
  | some e => some (e, b)
  | none =>
    match (probeOrder q va).findSome? fun lg =>
        tlbFind b ((b.xl.l2.get [] (tlbSlice va lg)).filter fun e => e.log == lg) vi va with
    | none => none
    | some e =>
      some (e, match q with
        | none => b
        | some q =>
          let l := ((b.xl.l1.get [] q) ++ [e]).reverse.take 4096 |>.reverse
          { b with xl := { b.xl with l1 := b.xl.l1.put [] q l } })

/-- A walk's leaf fills both levels for the quadrants it serves (R288, R289). -/
def tlbFill (b : Block) (qs : List Nat) (e : TlbEntry) : Block :=
  let l2 := b.xl.l2.upd [] (tlbSlice e.va e.log) fun l => (l ++ [e]).reverse.take 16384 |>.reverse
  qs.foldl (fun b q =>
    let l := ((b.xl.l1.get [] q) ++ [e]).reverse.take 4096 |>.reverse
    { b with xl := { b.xl with l1 := b.xl.l1.put [] q l } }) { b with xl := { b.xl with l2 := l2 } }

/-- Removes every entry of an instance, whatever its G bit (R286). -/
def tlbDrop (b : Block) (vi : Nat) : Block :=
  let keep := fun (e : TlbEntry) => e.vi != vi
  { b with xl := { b.xl with
      l1 := b.xl.l1.mapVals [] (fun _ l => l.filter keep)
      l2 := b.xl.l2.mapVals [] (fun _ l => l.filter keep)
      ptrs := b.xl.ptrs.filter fun p => p.vi != vi } }

/-- The leaf that translates a VA for a row: from the TLBs, else from a walk within the row, which fills them (R288).
(DESIGN CHOICE, log 11) -/
def rowLeaf (b : Block) (q : Option Nat) (r vi va : Nat) : Block × Except Status (Nat × Nat) :=
  match tlbLookup b q vi va with
  | some (e, b) => (b, .ok (e.leaf, e.log))
  | none =>
    match walkVa b r vi va with
    | .error s => (b, .error s)
    | .ok (leaf, log) =>
      (tlbFill b q.toList { vi := vi, gen := (b.vinst vi).gen, va := va / 2 ^ log * 2 ^ log, log := log, leaf := leaf },
        .ok (leaf, log))

/-- Full translation and checks of an access that lies within one page, within a row: PA and key selector. -/
def rowXl (b : Block) (q : Option Nat) (r vi va : Nat) (need : Need) : Block × Except Status (Nat × Nat) :=
  if va / 2 ^ 56 ≠ 0 then (b, .error .xlateFault)
  else if vi = 0 then (b, translate0 b va need)
  else match rowLeaf b q r vi va with
    | (b, .error s) => (b, .error s)
    | (b, .ok (leaf, log)) => (b, checkLeaf b vi va need leaf log)

/-- The translation of an access of the Atelier. -/
def translate (b : Block) (vi va : Nat) (need : Need) : Except Status (Nat × Nat) := (rowXl b none 256 vi va need).2

/-- The physical address and key selector of a VA, no rights asked. -/
def pageOf (b : Block) (q : Option Nat) (vi va : Nat) : Option (Nat × Nat) :=
  if vi = 0 then some (0xFFFF * 2 ^ 48 + va, 0)
  else match (rowLeaf b q 256 vi va).2 with
    | .ok (leaf, log) => some (leafPa leaf log va, bitsOf leaf 19 12)
    | .error _ => none

/-! ### Reads and writes by virtual address, for the records the Atelier and the contexts read whole -/

/-- A failure by virtual address: the status and the VA of the first byte that fails (R291). -/
abbrev VaErr := Status × Nat

/-- Bytes of a physical address on this chip, from a Palette buffer or from memory. (DESIGN CHOICE, log 11) -/
def paRead (b : Block) (pa ksel n : Nat) : Except Status Bytes :=
  let o := pa % 2 ^ 48 - windowBase
  if inWindow (pa % 2 ^ 48) then palGet b o n
  else localRead b ksel 256 (n / 256 + 2) (pa % 2 ^ 48) n

def paWrite (b : Block) (pa ksel : Nat) (d : Bytes) : Except Status Block :=
  if inWindow (pa % 2 ^ 48) then .ok (palPut b (pa % 2 ^ 48 - windowBase) d)
  else localWrite b ksel (d.length / 256 + 2) (pa % 2 ^ 48) d

/-- Bytes within one granule as a cached canvas's reader sees them: the line's, where the granule has one (R308). -/
def lineRead (b : Block) (pa n : Nat) : Option (Except Status Bytes) :=
  (findLine b (pa % 2 ^ 48 / 256)).bind fun l => if l.filling then none else some (palGet b (l.offset + pa % 256) n)

/-- Bytes of a record on another chip for a reader: those its READ has brought; until then the row waits (R276, R330).
(DESIGN CHOICE, log 12) -/
def recBytes (b : Block) (r vi va n : Nat) : Except Status Bytes :=
  match recGot b r vi va with
  | some a => if a.status == .ok then .ok (sliceAt a.data (va % 256) n) else .error a.status
  | none => .error .held

/-- Reads `n` bytes at a VA for the Atelier in pieces that lie within one granule, each checked. -/
def vaRead (b : Block) (vi cls : Nat) (cached : Bool) : Nat → Nat → Nat → Except VaErr Bytes
  | 0, _, _ => .ok []
  | _, _, 0 => .ok []
  | fuel + 1, va, n =>
    let m := min n (256 - va % 256)
    match translate b vi va { rd := true, wr := false, cls := cls, len := m } with
    | .error s => .error (s, va)
    | .ok (pa, ksel) =>
      let got : Except Status Bytes := if isLocalChip b (bitsOf pa 63 48) then
                   (match if cached then lineRead b pa m else none with
                     | some got => got
                     | none => paRead b pa ksel m)
                 else recBytes b 256 vi va m
      match got with
      | .error s => .error (s, va)
      | .ok d =>
        match vaRead b vi cls cached fuel (va + m) (n - m) with
        | .error e => .error e
        | .ok r => .ok (d ++ r)

/-- Writes bytes at a VA; for a page on another chip a WRITE leaves over a link (R276). `cq` is the completion queue whose
entry the bytes are. -/
def vaWrite (b : Block) (cq : Option Nat) (vi cls : Nat) : Nat → Nat → Bytes → Except VaErr Block
  | 0, _, _ => .ok b
  | _, _, [] => .ok b
  | fuel + 1, va, d =>
    let m := min d.length (256 - va % 256)
    match translate b vi va { rd := false, wr := true, cls := cls, len := m } with
    | .error s => .error (s, va)
    | .ok (pa, ksel) =>
      let next := if isLocalChip b (bitsOf pa 63 48) then paWrite b pa ksel (d.take m)
                  else match recordOut b cq vi pa ksel va (d.take m) with
                    | none => .error .route
                    | some b => .ok b
      match next with
      | .error s => .error (s, va)
      | .ok b' => vaWrite b' cq vi cls fuel (va + m) (d.drop m)

/-- Reads `n` bytes of class `cls` at `va` for instance `vi`, of a cached canvas or not. (DESIGN CHOICE, log 11) -/
def readVa (b : Block) (vi cls va n : Nat) (cached : Bool := false) : Except VaErr Bytes :=
  vaRead b vi cls cached (n / 256 + 2) va n

/-- Writes a control record or element bytes at `va`. (DESIGN CHOICE, log 11) -/
def writeVa (b : Block) (vi cls va : Nat) (d : Bytes) (cq : Option Nat := none) : Except VaErr Block :=
  vaWrite b cq vi cls (d.length / 256 + 2) va d

/-- The page of a record a row reads: of a VA, or, for VI 0, of a PA operand that names another chip. -/
def recPage (b : Block) (r vi va : Nat) : Option (Nat × Nat) :=
  if vi = 0 && 2 ^ 48 ≤ va then some (va, 0) else pageOf b (if r < 256 then some (quadOfCtx r) else none) vi va

/-- The local address of the table entry at which a walk within a row stops: one whose read fails or waits. -/
def walkStop (b : Block) (r va : Nat) : Nat → Nat → Nat → Option Nat
  | 0, _, _ => none
  | fuel + 1, lvl, t =>
    let pa := t % 2 ^ 48 + 8 * ptIndex va lvl
    match readEntry b r pa with
    | .error _ => some pa
    | .ok e => match entryAt lvl e with
      | .table t => walkStop b r va fuel (lvl - 1) t
      | .found _ => none

/-- The local address outside the window of the access at which a reader's row stops on its way to a VA: of a walk's entry, or
of the record. -/
def rowStop (b : Block) (r vi va : Nat) : Option Nat :=
  match recPage b r vi va with
  | some (pa, _) => if isLocalChip b (bitsOf pa 63 48) && !inWindow (pa % 2 ^ 48) then some (pa % 2 ^ 48) else none
  | none =>
    let (lvl, t) := walkStart b vi (b.vinst vi).gen va
    walkStop b r va (lvl + 1) lvl t

/-- Notes (`wait`) or drops the wait of a reader's row for a lost channel (R78). -/
def rowWait (b : Block) (r vi va : Nat) (wait : Bool) : Block :=
  match rowStop b r vi va with
  | none => b
  | some pa =>
    match channelOf b pa with
    | none => b
    | some ch =>
      let c := b.chan ch
      let mine := fun (e : Nat × Nat × Nat) => e.1 == r && e.2.1 == pa / 256
      if !wait then b.setChan ch { c with found := c.found.filter fun e => !mine e }
      else if c.service == .lost && !c.found.any mine then b.setChan ch { c with found := c.found ++ [(r, pa / 256, 1)] }
      else b

/-- The pin of a read within a step that failed: of the walk, of a channel, of the Palette, or of a missing route (R281, R411).
(DEDUCED, log 13) -/
def faultPin (b : Block) (vi va ctx : Nat) (st : Status) : Block :=
  if st == .route then
    let chip := ((recPage b ctx vi va).map fun p => bitsOf p.1 63 48).getD 0
    raise b 49 (entryPort b chip) st vi ctx va
  else if st != .busRetryExhausted && st != .uncorrectable && st != .parity then b
  else
    let b := if st == .busRetryExhausted then rowWait b ctx vi va false else b
    let at_ := fun (pa : Nat) =>
      let l := pa % 2 ^ 48
      if inWindow l then raise b (palSource (l - windowBase)) (regionOf ((l - windowBase) / 4096)) st vi ctx (l - windowBase)
      else raise b (match st with | .uncorrectable => 33 | .parity => 34 | _ => 35) ((channelOf b l).getD 0) st vi ctx l
    if vi = 0 then at_ va
    else match pageOf b (if ctx < 256 then some (quadOfCtx ctx) else none) vi va with
      | none => raise b 31 (ctx % 256) st vi ctx va
      | some (pa, _) => at_ pa

/-- Where in the Palette a local address is served: in the window, or, for a cached canvas's reader, in its line. -/
def palPlace (b : Block) (pa : Nat) (cached : Bool) : Option Nat :=
  let l := pa % 2 ^ 48
  if !isLocalChip b (bitsOf pa 63 48) then none
  else if inWindow l then some (l - windowBase)
  else if cached then (findLine b (l / 256)).map fun x => x.offset + l % 256
  else none

/-- The events of a record read within a row that went well: the uncorrectable words it took below ABORT_TASK (R412, R422). -/
def palNote (b : Block) (vi va n : Nat) (cached : Bool := false) : Block :=
  (List.range (n / 256 + 2)).foldl (fun b i =>
    let lo := max va ((va / 256 + i) * 256)
    let hi := min (va + n) ((va / 256 + i + 1) * 256)
    if hi ≤ lo then b
    else match (recPage b 256 vi lo).bind fun p => palPlace b p.1 cached with
      | some o => palRaise b o (hi - lo) vi 256
      | none => b) b

/-- A reader's row waits: for a lost channel it counts (R78); for the granule of a record on another chip: a READ over a link,
unless one is out already; without a route it fails at once (R276, R330). (DESIGN CHOICE, log 12) -/
def pursue (b : Block) (r vi va : Nat) : Block :=
  let b := rowWait b r vi va true
  match recPage b r vi va with
  | none => b
  | some (pa, ksel) =>
    if isLocalChip b (bitsOf pa 63 48) || (recGot b r vi va).isSome ||
        (openReqs b).any fun q => q.acc.owner == .recRead r && q.acc.vi == vi && q.acc.va == va / 256 * 256 then b
    else
      let a := mkAcc (.recRead r) false (pa % 2 ^ 48 / 256) 0 256 (va / 256 * 256) vi ksel [] []
      match sendReq b { acc := a, chip := bitsOf pa 63 48, op := opRead, group := remGroup b a } with
      | some b => b
      | none => recAnswer b r vi a.va .route []

/-! ### Bursts, fetches and flag reads (R282, R288) -/

/-- Translation of a burst through the TLBs: the access, a miss, or a failure (R282, R288). -/
inductive Xl where
  | ok (pa ksel : Nat)
  | miss
  | fail (s : Status)
  deriving DecidableEq, Repr

def xlBurst (b : Block) (q vi va : Nat) (need : Need) : Xl × Block :=
  if va / 2 ^ 56 ≠ 0 then (.fail .xlateFault, b)
  else if vi = 0 then
    match translate0 b va need with
    | .ok (pa, k) => (.ok pa k, b)
    | .error s => (.fail s, b)
  else match tlbLookup b (some q) vi va with
    | none => (.miss, b)
    | some (e, b) =>
      match checkLeaf b vi va need e.leaf e.log with
      | .ok (pa, k) => (.ok pa k, b)
      | .error s => (.fail s, b)

end Sys2Proof.Machine
end

