-- ==== Sys2Proof/Machine/Canvas.lean ====
section
/-! DEFINITION. Canvases: handles (R118-R120), the 128-byte format and its validation (R121-R138), the modulus and
scale canvases an instruction reads again (R136, R140), footprints and address generation (R128, R129, R141). -/

namespace Sys2Proof.Machine

/-- Layout tags of R125. -/
def layStrided : Nat := 0
def isIlv (l : Nat) : Bool := decide (1 ≤ l) && decide (l ≤ 3)
def isPoly (l : Nat) : Bool := decide (4 ≤ l) && decide (l ≤ 6)

/-- Data class codes of R124. -/
def clsCiphertext : Nat := 0
def clsPlaintext : Nat := 1
def clsKey : Nat := 2
def clsScale : Nat := 3
def clsIndex : Nat := 4
def clsFlag : Nat := 5

def isNibble (ty : Nat) : Bool := ty == 13 || ty == 14

/-! ### Handles (R118-R120) -/

/-- The handle tag: the low 48 bits of AES-256 over slot, owner, generation and use count (R119), bit 0 of block and output
in their first bytes. (DEDUCED, log 109) -/
def handleTag (key : Bytes) (slot vi gen uses : Nat) : Nat :=
  leNat (Crypto.aes256 key (natLe 16 (slot + vi % 256 * 2 ^ 16 + gen % 65536 * 2 ^ 24 + uses % 65536 * 2 ^ 40)))
    % 2 ^ 48

/-- The handle of a slot in use. -/
def handleOf (b : Block) (slot : Nat) : Nat :=
  let x := b.slot slot
  slot + handleTag b.sec.handleKey slot x.vi x.gen x.uses * 2 ^ 16

/-- The checks of R120 in order: the slot a handle names. -/
def checkHandle (b : Block) (vi h : Nat) : Except Status Nat :=
  let n := h % 2 ^ 14
  let x := b.slot n
  if bitsOf h 15 14 ≠ 0 || !x.used then .error .badHandle
  else if x.vi ≠ vi then .error .permission
  else if handleTag b.sec.handleKey n x.vi x.gen x.uses ≠ bitsOf h 63 16 then .error .badHandle
  else .ok n

/-- The canvases a canvas names, by link and modtab, still stand (R140). -/
def namesStand (b : Block) (vi : Nat) (cv : Canvas) : Bool :=
  [cv.link, cv.modtab].all fun h => h == 0 || (match checkHandle b vi h with | .ok _ => true | .error _ => false)

/-- A handle an instruction names: its own checks, then those of the canvases its canvas names (R120, R140). -/
def checkNamed (b : Block) (vi h : Nat) : Except Status Nat :=
  match checkHandle b vi h with
  | .error s => .error s
  | .ok n => if namesStand b vi (b.slot n).canvas then .ok n else .error .badHandle

/-- The free slot that has been free longest, the lowest on a tie (R118). -/
def pickSlot (b : Block) : Option Nat :=
  let i := lowestFree b.canv.slots.keys 0
  if i < 16384 then some i
  else
    (b.canv.slots.foldl (fun (a : Option (Nat × Nat)) e =>
      if e.2.used then a
      else match a with
        | none => some (e.2.freedAt, e.1)
        | some (t, _) => if e.2.freedAt < t then some (e.2.freedAt, e.1) else a) none).map (·.2)

/-- Canvases an instance holds (R110). -/
def canvasesOf (b : Block) (vi : Nat) : Nat := (b.canv.slots.filter fun e => e.2.used && e.2.vi == vi).length

/-- Fills a slot with a validated canvas; its statistics start at zero (R118, R236, R240). -/
def takeSlot (b : Block) (n vi : Nat) (c : Canvas) : Block :=
  b.setSlot n { b.slot n with used := true, canvas := c, vi := vi, gen := (b.vinst vi).gen, stats := {} }

/-- Frees a slot: 1 is added to its use count (R118, R140). -/
def freeSlot (b : Block) (n : Nat) : Block :=
  let x := b.slot n
  let b : Block := { b with canv := { b.canv with frees := b.canv.frees + 1 } }
  b.setSlot n { used := false, canvas := {}, vi := 0, gen := 0, uses := (x.uses + 1) % 65536
                freedAt := b.canv.frees, stats := {} }

/-! ### Format (R121, R122) -/

/-- The canvas a 128-byte descriptor spells. -/
def parseCanvas (d : Bytes) : Canvas :=
  let fmt := fieldAt d 74 2
  { base := fieldAt d 0 8
    allocBase := fieldAt d 8 8
    allocLen := fieldAt d 16 8
    e := (List.range 5).map fun i => fieldAt d (24 + 4 * i) 4
    s := (List.range 5).map fun i => signedOf 48 (fieldAt d (44 + 6 * i) 6)
    type := bitsOf fmt 4 0
    cls := bitsOf fmt 7 5
    layout := bitsOf fmt 11 8
    cached := bitOf fmt 12
    compressed := bitOf fmt 13
    lparam := fieldAt d 76 4
    link := fieldAt d 80 8
    shift := signedOf 8 (fieldAt d 88 1)
    grpDim := bitsOf (fieldAt d 89 1) 2 0
    grpLog := bitsOf (fieldAt d 89 1) 7 3
    satThr := fieldAt d 90 2
    mSteps := fieldAt d 92 1
    rank := bitsOf (fieldAt d 93 1) 2 0
    bmask := bitsOf (fieldAt d 94 1) 4 0
    writable := bitOf (fieldAt d 94 1) 5
    scale2 := fieldAt d 96 4
    padLo := (List.range 5).map fun i => fieldAt d (100 + 4 * i) 2
    padHi := (List.range 5).map fun i => fieldAt d (102 + 4 * i) 2
    modtab := fieldAt d 120 8 }

namespace Canvas

def ext (c : Canvas) (d : Nat) : Nat := c.e.getD d 1
def stride (c : Canvas) (d : Nat) : Int := c.s.getD d 0
def lo (c : Canvas) (d : Nat) : Nat := c.padLo.getD d 0
def hi (c : Canvas) (d : Nat) : Nat := c.padHi.getD d 0

/-- E(d) of R130. -/
def logical (c : Canvas) (d : Nat) : Nat := c.lo d + c.ext d + c.hi d

/-- TH, TW, F of an interleaved layout (R127). -/
def th (c : Canvas) : Nat := 2 ^ bitsOf c.lparam 3 0
def tw (c : Canvas) : Nat := 2 ^ bitsOf c.lparam 7 4
def ff (c : Canvas) : Nat := 2 ^ bitsOf c.lparam 10 8

def nti (c : Canvas) : Nat := ceilDiv (c.ext 1) c.th
def ntj (c : Canvas) : Nat := ceilDiv (c.ext 0) c.tw

/-- Tile groups of one batch element (R128). -/
def groups (c : Canvas) : Nat :=
  match c.layout with
  | 1 => c.nti * ceilDiv c.ntj c.ff
  | 2 => c.ntj * ceilDiv c.nti c.ff
  | _ => ceilDiv c.nti c.ff * c.ntj

/-- Nibbles of one batch element of an interleaved or polynomial layout. -/
def batchNibs (c : Canvas) : Nat :=
  nibsOf c.type *
    (if isIlv c.layout then c.groups * (c.th * c.tw * c.ff) else c.ext 0 * c.ext 1)

/-- Element offset of row `i`, column `j` (R128). -/
def ilvOff (c : Canvas) (i j : Nat) : Nat :=
  let ti := i / c.th; let r := i % c.th
  let tj := j / c.tw; let cc := j % c.tw
  let t := c.th * c.tw * c.ff
  match c.layout with
  | 1 => (ti * ceilDiv c.ntj c.ff + tj / c.ff) * t + (r * c.tw + cc) * c.ff + tj % c.ff
  | 2 => (tj * ceilDiv c.nti c.ff + ti / c.ff) * t + (cc * c.th + r) * c.ff + ti % c.ff
  | _ => (ti / c.ff * c.ntj + tj) * t + (r * c.tw + cc) * c.ff + ti % c.ff

/-- Element offset of coefficient `i` of limb `l` (R129). -/
def polyOff (c : Canvas) (i l : Nat) : Nat :=
  match c.layout with
  | 4 => l * c.ext 0 + i
  | 5 => i * c.ext 1 + l
  | _ =>
    let n1 := 2 ^ bitsOf c.lparam 12 8
    let n2 := 2 ^ bitsOf c.lparam 20 16
    l * c.ext 0 + i % n1 * n2 + i / n1

/-- Nibble offset from base of a stored index (R141, R142); the batch dimensions count bytes. -/
def offNib (c : Canvas) (j : List Nat) : Int :=
  let x := fun d => (j.getD d 0 : Int)
  let bat : Int := x 2 * c.stride 2 + x 3 * c.stride 3 + x 4 * c.stride 4
  if isIlv c.layout then 2 * bat + (nibsOf c.type * c.ilvOff (j.getD 1 0) (j.getD 0 0) : Nat)
  else if isPoly c.layout then 2 * bat + (nibsOf c.type * c.polyOff (j.getD 0 0) (j.getD 1 0) : Nat)
  else if isNibble c.type then 2 * (x 1 * c.stride 1 + bat) + x 0
  else 2 * (x 0 * c.stride 0 + x 1 * c.stride 1 + bat)

/-- The stored index of a logical index, none in the halo (R130). -/
def stored (c : Canvas) (x : List Nat) : Option (List Nat) :=
  if (List.range 5).all fun d => decide (c.lo d ≤ x.getD d 0) && decide (x.getD d 0 < c.lo d + c.ext d) then
    some ((List.range 5).map fun d => x.getD d 0 - c.lo d)
  else none

/-- addr(c, x) of R141 as a nibble address: twice the byte address, plus 1 for the high nibble. -/
def addr (c : Canvas) (x : List Nat) : Option Nat :=
  (c.stored x).map fun j => (2 * (c.base : Int) + c.offNib j).toNat

/-- Lowest and highest byte of the footprint (R138). -/
def footprint (c : Canvas) : Int × Int :=
  let term := fun d => ((c.ext d : Int) - 1) * c.stride d
  let sumBy := fun (f : Int → Int) (l : List Nat) => (l.map fun d => f (term d)).foldl (· + ·) 0
  let neg := fun (v : Int) => min v 0
  let pos := fun (v : Int) => max v 0
  let base : Int := c.base
  if c.layout ≠ 0 then
    (base + sumBy neg [2, 3, 4], base + sumBy pos [2, 3, 4] + (ceilDiv c.batchNibs 2 : Nat) - 1)
  else if isNibble c.type then
    (base + sumBy neg [1, 2, 3, 4], base + sumBy pos [1, 2, 3, 4] + ((c.ext 0 - 1) / 2 : Nat))
  else
    (base + sumBy neg [0, 1, 2, 3, 4], base + sumBy pos [0, 1, 2, 3, 4] + (nibsOf c.type / 2 : Nat) - 1)

end Canvas

/-! ### Validation (R137) -/

/-- Whether a type, class, layout and compressed bit go together (R124). -/
def admitted (ty cls lay : Nat) (compressed : Bool) : Bool :=
  let res := isRes ty
  let base := match cls with
    | 0 => res && !compressed
    | 1 => !compressed || lay == 0
    | 2 => (res || ty == 0) && lay != 3 && !compressed
    | 3 => [10, 8, 9, 0, 1].contains ty && lay == 0
    | 4 => [2, 4, 6].contains ty && lay == 0
    | _ => [0, 4, 6].contains ty && lay == 0 && !compressed
  base && (!isPoly lay || res)

/-- scale2 as R134 requires. -/
def scale2Ok (c : Canvas) : Bool :=
  if c.cls == clsScale && c.type == 0 then bitsOf c.scale2 30 23 != 255 && c.scale2 % 2 ^ 31 != 0
  else c.scale2 == 0

/-- lparam, alignment and base rules of a layout (R126, R127). -/
def layoutOk (c : Canvas) : Bool :=
  let p := c.lparam
  if c.layout == 0 then p == 0 && (!isNibble c.type || c.stride 0 == 1)
  else
    c.stride 0 == 0 && c.stride 1 == 0 && c.base % 256 == 0 && c.bmask % 4 == 0 &&
    (if isIlv c.layout then
      p / 2 ^ 11 == 0 && decide (bitsOf p 3 0 ≤ 8) && decide (bitsOf p 7 4 ≤ 8) && decide (bitsOf p 10 8 ≤ 4) &&
        decide (c.th * c.tw * c.ff * nibsOf c.type ≤ 2 * 65536)
    else
      [2, 3, 4].all (fun d => c.stride d % 256 == 0) && decide (10 ≤ bitsOf p 4 0) && decide (bitsOf p 4 0 ≤ 17) &&
        c.ext 0 == 2 ^ bitsOf p 4 0 && decide (c.ext 1 ≤ 128) &&
        (if c.layout == 6 then
          bitsOf p 7 5 == 0 && bitsOf p 15 13 == 0 && p / 2 ^ 21 == 0 &&
            decide (4 ≤ bitsOf p 12 8) && decide (bitsOf p 12 8 ≤ 13) &&
            decide (4 ≤ bitsOf p 20 16) && decide (bitsOf p 20 16 ≤ 13) &&
            bitsOf p 12 8 + bitsOf p 20 16 == bitsOf p 4 0
        else p / 32 == 0))

/-- Stride 0 and broadcast bits (R131). -/
def broadcastOk (c : Canvas) : Bool :=
  (if c.layout == 0 then [0, 1, 2, 3, 4] else [2, 3, 4]).all fun d =>
    if hasBit c.bmask d then c.stride d == 0 else c.stride d != 0 || decide (c.ext d ≤ 1)

/-- Inserts a dimension by rising absolute stride. -/
def sortedIn (x : Nat × Nat) : List (Nat × Nat) → List (Nat × Nat)
  | [] => [x]
  | y :: t => if x.1 ≤ y.1 then x :: y :: t else y :: sortedIn x t

/-- Each stride spans everything before it plus one element (R132). -/
def spansOk (elem : Nat) : Nat → List (Nat × Nat) → Bool
  | _, [] => true
  | span, (s, e) :: t => decide (span + elem ≤ s) && spansOk elem (span + (e - 1) * s) t

/-- No two logical elements share a byte, by the sufficient rule of R132; all in nibbles. -/
def separated (c : Canvas) : Bool :=
  let dims := if c.layout == 0 then [0, 1, 2, 3, 4] else [2, 3, 4]
  let elem := if c.layout == 0 then nibsOf c.type else c.batchNibs
  let nib := fun d => if d = 0 && isNibble c.type then (c.stride 0).natAbs else 2 * (c.stride d).natAbs
  spansOk elem 0 ((dims.filter fun d => decide (1 < c.ext d)).foldr (fun d l => sortedIn (nib d, c.ext d) l) [])

/-- Writability rules of R132. -/
def writableOk (c : Canvas) : Bool :=
  c.padLo.all (· == 0) && c.padHi.all (· == 0) && c.bmask == 0 && !c.compressed && separated c

/-- Dense strides of a compressed canvas (R138), in nibbles: a byte stride of 4-bit elements is half their number.
(DEDUCED, log 111) -/
def denseOk (c : Canvas) : Bool :=
  (List.range c.rank).all fun d =>
    let want := nibsOf c.type * ((List.range d).map c.ext).foldl (· * ·) 1
    (if d = 0 && isNibble c.type then c.stride 0 else 2 * c.stride d) == (want : Int)

/-- Prefix length of a compressed canvas of raw length `lr` (R260). -/
def swatchX (lr : Nat) : Nat := 64 * ceilDiv (4 * ceilDiv lr 4096) 64
def swatchPrefix (lr : Nat) : Nat := 32832 + swatchX lr

/-- Raw length Lr of a compressed canvas. -/
def rawLen (c : Canvas) : Nat := (c.footprint.2 - c.footprint.1 + 1).toNat

/-- Check 7 of R137 (R138, R261). -/
def boundsOk (c : Canvas) : Bool :=
  let (lo, hi) := c.footprint
  let fin := c.allocBase + c.allocLen
  decide (c.base < 2 ^ 56) && decide (c.allocBase < 2 ^ 56) && decide (1 ≤ c.allocLen) && decide (c.allocLen ≤ 2 ^ 48) &&
    decide ((c.allocBase : Int) ≤ lo) && decide (hi < (fin : Int)) && decide (fin ≤ 2 ^ 56) &&
    decide (((List.range 5).map c.logical).foldl (· * ·) (nibsOf c.type) ≤ 2 * 2 ^ 48) &&
    (!c.compressed ||
      (denseOk c && decide (c.allocBase + swatchPrefix (rawLen c) ≤ c.base) &&
        decide (c.base + 64 * ceilDiv (rawLen c) 64 ≤ fin) && decide (rawLen c ≤ 2 ^ 37)))

/-- Checks 1 to 7 of R137 on a 128-byte descriptor, the first failure deciding. -/
def checkFields (d : Bytes) : Except Status Canvas :=
  let c := parseCanvas d
  let fmt := fieldAt d 74 2
  let top := (List.range 5).filter fun i => decide (c.rank ≤ i)
  if bitsOf fmt 15 14 ≠ 0 || bitsOf (fieldAt d 93 1) 7 3 ≠ 0 || bitsOf (fieldAt d 94 1) 7 6 ≠ 0 ||
      fieldAt d 95 1 ≠ 0 || c.type > 0x10 || c.cls > 5 || c.layout > 6 then .error .badType
  else if !admitted c.type c.cls c.layout c.compressed || !scale2Ok c then .error .badType
  else if c.rank = 0 || c.rank > 5 ||
      !(top.all fun i => c.ext i == 1 && c.stride i == 0 && c.lo i == 0 && c.hi i == 0 && !hasBit c.bmask i) then
    .error .badType
  else if !((List.range 5).all fun i => decide (1 ≤ c.ext i) && decide (c.logical i < 2 ^ 32)) then .error .bounds
  else if !layoutOk c || !broadcastOk c || (c.compressed && c.base % 64 != 0) then .error .badType
  else if c.writable && !writableOk c then .error .badType
  else if !boundsOk c then .error .bounds
  else .ok c

/-- R133 for a scale canvas `s` named by `c`. The range of the group byte (R121) is judged here, in check 8 and after the link's
handle. (DESIGN CHOICE, log 114) -/
def scaleLinkOk (c s : Canvas) : Bool :=
  decide (c.grpDim ≤ 4) && decide (c.grpLog ≤ 16) && [13, 14, 1, 0, 11, 12, 3, 2].contains c.type &&
    s.cls == clsScale && s.layout == 0 && s.rank == c.rank && s.link == 0 &&
    (List.range 5).all fun d =>
      s.ext d == (if d = c.grpDim then ceilDiv (c.ext d) (2 ^ c.grpLog) else c.ext d)

/-- Check 8 of R137. -/
def checkLink (b : Block) (vi : Nat) (c : Canvas) : Except Status Unit :=
  if c.link = 0 then (if c.grpDim = 0 && c.grpLog = 0 then .ok () else .error .badType)
  else match checkHandle b vi c.link with
    | .error s => .error s
    | .ok n => if scaleLinkOk c (b.slot n).canvas then .ok () else .error .badType

/-- A modulus entry in range for the type (R135). -/
def modulusOk (ty q : Nat) : Bool := decide (2 ^ 19 ≤ q) && decide (q < (if ty = 15 then 2 ^ 31 else 2 ^ 62))

/-- Splits bytes into little-endian numbers of `n` bytes. -/
def chunksLe (n : Nat) : Nat → Bytes → List Nat
  | 0, _ => []
  | k + 1, d => leNat (d.take n) :: chunksLe n k (d.drop n)

/-- The modulus table of a canvas, none when it needs none (R135). -/
def modTable (b : Block) (vi : Nat) (c : Canvas) : Except Status (Option Canvas) :=
  if !isRes c.type then (if c.modtab = 0 then .ok none else .error .badType)
  else if c.modtab = 0 then .error .badType
  else match checkHandle b vi c.modtab with
    | .error s => .error s
    | .ok n =>
      let t := (b.slot n).canvas
      if t.cls = clsIndex && t.type = 6 && t.layout = 0 && t.rank = 1 && t.stride 0 = 8 && c.ext 1 ≤ t.ext 0 then .ok (some t)
      else .error .badType

/-- The modulus entries read from a table, each in range; a failed read carries its entry's VA (R135, R136). -/
def moduliOf (c t : Canvas) (got : Except VaErr Bytes) : Except VaErr (List Nat) :=
  match got with
  | .error (s, va) => .error (s, t.base + (va - t.base) / 8 * 8)
  | .ok d =>
    let qs := chunksLe 8 (c.ext 1) d
    if qs.all (modulusOk c.type) then .ok qs else .error (.badType, 0)

/-- The modulus entries of a canvas as CANVAS_CREATE reads them (R135, R136). -/
def readModuli (b : Block) (vi : Nat) (c : Canvas) : Except VaErr (List Nat) :=
  match modTable b vi c with
  | .error s => .error (s, 0)
  | .ok none => .ok []
  | .ok (some t) => moduliOf c t (readVa b vi clsIndex t.base (8 * c.ext 1) t.cached)

/-- The events of a modulus table that was read well (R422). -/
def noteModuli (b : Block) (vi : Nat) (c : Canvas) : Block :=
  match modTable b vi c with
  | .ok (some t) => palNote b vi t.base (8 * c.ext 1) t.cached
  | _ => b

/-- CANVAS_CREATE's checks 1 to 9 (R137). -/
def validateCanvas (b : Block) (vi : Nat) (d : Bytes) : Except VaErr Canvas :=
  match checkFields d with
  | .error s => .error (s, 0)
  | .ok c =>
    match checkLink b vi c with
    | .error s => .error (s, 0)
    | .ok _ =>
      match readModuli b vi c with
      | .error e => .error e
      | .ok _ => .ok c

/-- The scale canvas of a value canvas when an instruction starts; a destroyed one is BAD_HANDLE (R140). -/
def linkedScale (b : Block) (vi : Nat) (c : Canvas) : Except Status (Option Canvas) :=
  if c.link = 0 then .ok none
  else match checkHandle b vi c.link with
    | .error _ => .error .badHandle
    | .ok n => .ok (some (b.slot n).canvas)

/-- The address of element `j` (dimension 0) of a one-dimensional STRIDED canvas. -/
def elemVa (c : Canvas) (j : Nat) : Nat := ((c.base : Int) + (j : Int) * c.stride 0).toNat

end Sys2Proof.Machine
end

