-- ==== Sys2Proof/Machine/Rinlin.lean ====
section
/-! DEFINITION. The Rinlin transport: taking a command from a mailbox or a queue (R90-R98), the check order (R104),
completions and where they go (R99-R106), dying queues (R105) and tracker words (R107). -/

namespace Sys2Proof.Machine

/-! ### Queues -/

def Sq.size (q : Sq) : Nat := 2 ^ q.k
def Cq.size (q : Cq) : Nat := 2 ^ q.k

/-- A queue that commands and doorbells may name: one whose destruction is under way is no longer one, and a command that
names it gets BAD_HANDLE (R105). (DESIGN CHOICE, log 103) -/
def Sq.usable (q : Sq) : Bool := q.live && !q.dying
def Cq.usable (q : Cq) : Bool := q.live && !q.dying

/-- Full: (tail + 1) mod size = head (R100). -/
def Cq.full (q : Cq) : Bool := (q.tail + 1) % q.size == q.head

/-- The entry at the tail is written. -/
def Cq.step (q : Cq) : Cq :=
  let t := (q.tail + 1) % q.size
  { q with tail := t, phase := if t = 0 then !q.phase else q.phase, out := false }

/-- Full, or full with the entry whose WRITE to another chip is not answered yet (R100, R305). -/
def Cq.tight (q : Cq) : Bool := q.full || (q.out && q.step.full)

/-- The 32 bytes of a completion (R106). -/
def Cpl.bytes (c : Cpl) (phase : Bool) : Bytes :=
  natLe 2 c.status ++ natLe 2 c.tag ++ natLe 1 c.opcode ++ natLe 1 0 ++ natLe 2 c.sq ++ natLe 8 c.result ++
    natLe 8 c.detail ++ natLe 2 c.sqHead ++ natLe 5 0 ++ natLe 1 (128 * b2n phase)

/-- The completion queue whose entry an access writes on another chip. -/
def entryOf : Owner → Option Nat
  | .record cq _ => cq
  | _ => none

/-- Writes one entry at the tail; the phase inverts on a wrap (R99, R305). An entry whose write fails counts as
written; one whose power domain holds it goes to the front of those that wait; one on another chip is written when its
WRITE is answered. -/
def writeEntry (b : Block) (i : Nat) (c : Cpl) : Block :=
  let q := b.cq i
  let q' := q.step
  match writeVa b q.vi clsControl (q.base + 32 * q.tail) (c.bytes q.phase) (some i) with
  | .ok b => if (openReqs b).any fun r => entryOf r.acc.owner == some i then b.setCq i { q with out := true }
             else b.setCq i q'
  | .error (.held, _) => b.setCq i { q with waiting := c :: q.waiting }
  | .error _ => b.setCq i q'

/-- A completion for queue `i`: written, or kept while the ring is full (R100). (DEDUCED, log 53) -/
def pushCpl (b : Block) (i : Nat) (c : Cpl) : Block :=
  let q := b.cq i
  if !q.live then b
  else if q.full || q.out || !q.waiting.isEmpty then b.setCq i { q with waiting := q.waiting ++ [c] }
  else writeEntry b i c

/-- Writes waiting completions while there is room. (DEDUCED, log 53) -/
def drainWaiting (i : Nat) : Nat → Block → Block
  | 0, b => b
  | n + 1, b =>
    let q := b.cq i
    match q.waiting with
    | [] => b
    | c :: rest => if q.full || q.out then b else drainWaiting i n (writeEntry (b.setCq i { q with waiting := rest }) i c)

/-- The WRITE of an entry on another chip is answered: the tail moves on, and the next entry may be presented (R305). -/
def entryDone (b : Block) (i : Nat) : Block :=
  let q := b.cq i
  if q.live && q.out then drainWaiting i (q.waiting.length) (b.setCq i q.step) else b

/-- CT runs: out of reset, clocked, not in safe state. -/
def ctUp (b : Block) : Bool :=
  b.islands.out.get false 37 && !b.islands.lost.get false 37 && !b.islands.safe.getLsbD 37

/-- ctl_irq[g] (R55, R101); 0 while CT is clamped (R34). -/
def ctlIrq (b : Block) (g : Nat) : Bool :=
  ctUp b && b.rin.cqs.any fun e => e.2.live && e.2.irq && e.2.group == g && e.2.head != e.2.tail

/-- ctl_irq_flt (R55): an unmasked bit, LOG or higher by latching at severity 1 or above; 0 while CT is clamped (R34). -/
def ctlIrqFlt (b : Block) : Bool := ctUp b && (b.flt.status &&& ~~~b.flt.mask) != 0

/-! ### Ending a command -/

/-- One command of a queue has ended. -/
def endStarted (b : Block) (r : Reply) : Block :=
  match r.path with
  | .queue i _ => let q := b.sq i; if q.live then b.setSq i { q with started := q.started - 1 } else b
  | _ => b

/-- Sends a completion along its path (R90, R93). A QUIET command that ends OK writes none; its mailbox still falls
idle. -/
def deliver (b : Block) (r : Reply) (st : Status) (result detail : Nat) : Block :=
  let silent := r.quiet && st == .ok
  let c : Cpl := { status := st.code, tag := r.tag, opcode := r.opcode, sq := 0xFFFF, result := result
                   detail := detail, sqHead := 0 }
  let toMbox := fun v =>
    let m := b.mbox v
    b.setMbox v { m with cpl := if silent then m.cpl else c.bytes false, busy := false, done := true, taken := false }
  match r.path with
  | .mailbox v => toMbox v
  | .privileged => toMbox 256
  | .queue i h =>
    let q := b.sq i
    if silent || !q.live then b else pushCpl b q.cq { c with sq := i, sqHead := h }
  | .mgmt chip req _ =>
    if silent then b
    else routeOwn b (mgmtFlits b mtCompletion chip (c.bytes false ++ natLe 2 req ++ natLe 6 0))

/-- Destroying commands outstanding that came by queue `i` itself. -/
def ownDestroys (b : Block) (i : Nat) : Nat :=
  let via := fun (o : Option Reply) => match o with
    | some r => (match r.path with | .queue j _ => b2n (j == i) | _ => 0)
    | none => 0
  via (b.sq i).owed + via (b.cq (b.sq i).cq).owed

/-- A dying queue all of whose started commands have ended (R105). -/
def dyingSq (b : Block) : Option Nat :=
  (b.rin.sqs.find? fun e => e.2.live && e.2.dying && e.2.started == ownDestroys b e.1).map (·.1)

/-- A dying completion queue with no submission queue left. -/
def dyingCq (b : Block) : Option Nat :=
  (b.rin.cqs.find? fun e => e.2.live && e.2.dying && !(b.rin.sqs.any fun s => s.2.live && s.2.cq == e.1)).map (·.1)

/-- Ends the destructions that have nothing left to wait for. -/
def settle : Nat → Block → Block
  | 0, b => b
  | n + 1, b =>
    match dyingSq b with
    | some i =>
      let b' := match (b.sq i).owed with
        | some r => endStarted (deliver b r .ok 0 0) r
        | none => b
      settle n (b'.setSq i {})
    | none =>
      match dyingCq b with
      | some i =>
        let o := (b.cq i).owed
        let b' := b.setCq i {}
        settle n (match o with
          | some r => endStarted (deliver b' r .ok 0 0) r
          | none => b')
      | none => b

/-- Settles everything that can settle. -/
def settleAll (b : Block) : Block := settle (b.rin.sqs.length + b.rin.cqs.length) b

/-- Completes a command: its completion, then whatever waited for its end. -/
def complete (b : Block) (r : Reply) (st : Status) (result detail : Nat) : Block :=
  settleAll (endStarted (deliver b r st result detail) r)

/-! ### Taking a command -/

/-- Opcodes R103 and R381 list. -/
def listedOpcodes : List Nat :=
  [0x01, 0x10, 0x11, 0x12, 0x13, 0x14, 0x15, 0x20, 0x21, 0x30, 0x31, 0x32, 0x33, 0x34, 0x40, 0x41, 0x50, 0x51, 0x52,
   0x60, 0x70, 0x71, 0x80, 0x81, 0x90, 0x91, 0x92, 0x93, 0x94, 0x95, 0x96, 0x97, 0x98, 0x99, 0x9A, 0x9B]

/-- READY_LOCAL: the block accepts Rinlin commands (R88), until a start is ordered. -/
def readyLocal (b : Block) : Bool :=
  b.boot.stage == 8 && b.power.state != 3 && !b.boot.resetChip && ctUp b && !b.boot.startPending

/-- The Atelier fetches commands (R88, R448), until an entry to P3 begins (R454). -/
def atelierRuns (b : Block) : Bool := readyLocal b && !b.regs.atlHalt && b.power.busy != some 3

/-- The state in which only STATUS on the privileged mailbox is served (R399). -/
def errorState (b : Block) : Bool := b.boot.stage == 0xE

/-- What a command source holds for a row: nothing of this row; a queue whose turn passes without a command; an entry
that cannot be read; or a command, with the block after its fetch and the block where the command stays at its source. -/
inductive Got where
  | nothing
  | pass (b : Block)
  | unread (b : Block) (s : Status) (va : Nat) (r : Reply)
  | command (b : Block) (c : Bytes) (r : Reply) (stay : Block)

/-- The reply record of a command's bytes. -/
def replyOf (path : Path) (vi : Nat) (c : Bytes) : Reply :=
  { path := path, vi := vi, tag := fieldAt c 4 2, opcode := fieldAt c 0 1, quiet := bitOf (fieldAt c 1 1) 0 }

/-- Whether a row takes a command: its own opcode; NOP's row also takes the reserved ones (R104). -/
def rowTakes (op : Nat) (c : Bytes) : Bool :=
  fieldAt c 0 1 == op || (op == 1 && !listedOpcodes.contains (fieldAt c 0 1))

/-- A NORMAL queue with a pending entry whose completion queue has room and whose instance is not being reset (R97,
R98, R100, R115). -/
def queueReady (b : Block) (q : Sq) : Bool :=
  let cq := b.cq q.cq
  q.usable && !q.direct && q.head != q.tail && !cq.tight && cq.waiting.isEmpty && (b.vinst q.vi).stage == 0

/-- Round robin: the lowest number above the last one served, else the lowest. -/
def nextAfter (last : Nat) (l : List Nat) : Option Nat :=
  match (l.filter fun n => decide (last < n)).min? with
  | some n => some n
  | none => l.min?

/-- The queue whose turn it is: the next instance with a pending entry, and of its queues the next (R98). -/
def turnOf (b : Block) : Option Nat :=
  let ready := b.rin.sqs.keys.filter fun i => queueReady b (b.sq i)
  (nextAfter b.rin.lastVi (ready.map fun i => (b.sq i).vi)).bind fun v =>
    nextAfter (b.rin.lastSq.get 32767 v) (ready.filter fun i => (b.sq i).vi == v)

/-- The turn of a queue is over. -/
def passTurn (b : Block) (i : Nat) : Block :=
  { b with rin := { b.rin with lastVi := (b.sq i).vi, lastSq := b.rin.lastSq.put 32767 (b.sq i).vi i } }

/-- The next entry of the NORMAL queue whose turn it is, where the row is its own; a command with FENCE_PREV waits for every
earlier one of its queue, and lets the turn pass (R97, R98). (DESIGN CHOICE, log 46) -/
def fetchQueue (b : Block) (i op : Nat) : Got :=
  if !atelierRuns b || turnOf b != some i then .nothing
  else
    let q := b.sq i
    let bt := passTurn b i
    let h := (q.head + 1) % q.size
    let b' := bt.setSq i { q with head := h, started := q.started + 1 }
    match readVa b q.vi clsControl (q.base + 64 * q.head) 64 with
    | .error (.held, va) => .pass (pursue bt 256 q.vi va)
    | .error (s, va) =>
      if op == 1 then
        let (f, b'') := drawFree b' 3
        .unread b'' s va { path := .queue i h, vi := q.vi, tag := fieldAt f 0 2, opcode := fieldAt f 2 1, quiet := false }
      else .nothing
    | .ok c =>
      if !rowTakes op c then .nothing
      else if bitOf (fieldAt c 1 1) 1 && q.started != 0 then .pass bt
      else .command (palNote b' q.vi (q.base + 64 * q.head) 64) c (replyOf (.queue i h) q.vi c) bt

/-- The command at a source for a row (R90, R93). (DEDUCED, log 37) -/
def fetch (b : Block) (src : CmdSrc) (op : Nat) : Got :=
  match src with
  | .mailbox v =>
    let m := b.mbox v
    if atelierRuns b && m.busy && !m.taken && rowTakes op m.cmd && (b.vinst v).stage == 0 then
      .command (b.setMbox v { m with taken := true }) m.cmd (replyOf (.mailbox v) v m.cmd) b
    else .nothing
  | .privileged =>
    let m := b.mbox 256
    if (atelierRuns b || (errorState b && op == 0x9B)) && m.busy && !m.taken && rowTakes op m.cmd then
      .command (b.setMbox 256 { m with taken := true }) m.cmd (replyOf .privileged 0 m.cmd) b
    else .nothing
  | .queue i => fetchQueue b i op

/-- How a command ends: at once, by a later step, or not started, at the head of its queue (R98). -/
inductive Done where
  | now (s : Status) (result detail : Nat)
  /-- An access to a record has failed at an address, or is held there. -/
  | lost (s : Status) (va : Nat)
  | later
  | stay
  /-- Not started, with what it has drawn (R386). -/
  | redraw
  deriving DecidableEq, Repr

/-- What the Atelier does with a command: the checks of R104 and its effect. -/
abbrev Cmd := AO → Block → Bytes → Reply → Block × Done

/-- A command's writes on other chips that are not yet answered. -/
def jobOpen (b : Block) (n : Nat) : Bool := (openReqs b).any fun r => r.acc.owner == .record none n

/-- The completion of a job: written once its writes have been acknowledged (R305). -/
def finishJob (b : Block) (n : Nat) (r : Reply) (s : Status) (res det : Nat) : Block :=
  if jobOpen b n then
    let j : Job := { reply := r, status := s, result := res, detail := det }
    { b with rin := { b.rin with jobs := b.rin.jobs ++ [(n, j)] } }
  else complete b r s res det

/-- The number of the present job is used up. -/
def nextJob (b : Block) : Block := { b with rin := { b.rin with nextJob := b.rin.nextJob + 1 } }

/-- A command ends with a status: its completion is written once its own writes have been acknowledged (R305). -/
def finishRow (b : Block) (r : Reply) (s : Status) (res det : Nat) : Block :=
  if jobOpen b b.rin.nextJob then finishJob (nextJob b) b.rin.nextJob r s res det else complete b r s res det

/-- Writes the completions of the commands whose writes have all been answered. -/
def settleJobs (b : Block) : Block :=
  b.rin.jobs.foldl (fun b (n, j) =>
    if jobOpen b n then b
    else
      let b : Block := { b with rin := { b.rin with jobs := b.rin.jobs.filter fun e => e.1 != n } }
      complete b j.reply j.status j.result j.detail) b

/-- The WRITE of a record on another chip is answered, with a failing status or none: an entry counts as written, a
command, or the chain it started, takes the status of its first failing write (R99, R305). (DEDUCED, log 53) -/
def recordDone (b : Block) (cq : Option Nat) (n va : Nat) (st : Status) : Block :=
  match cq with
  | some i => entryDone b i
  | none =>
    let jobs := b.rin.jobs.map fun e => if e.1 == n && e.2.status == .ok && st != .ok then
      (n, { e.2 with status := st, result := 0, detail := va }) else e
    let chains := b.chains.mapVals {} fun _ ch =>
      if ch.job = some n && ch.lost.isNone && st != .ok then { ch with lost := some (st, va) } else ch
    settleJobs { b with rin := { b.rin with jobs := jobs }, chains := chains }

/-- A command has ended with a status: its completion; what was read for it is of no more use. -/
def endCommand (b : Block) (r : Reply) (s : Status) (res det : Nat) : Block := finishRow (recForget b 256) r s res det

/-- A command ends with the status of a record's failing access, whose pin is raised; the detail is its address. -/
def lostCommand (b : Block) (r : Reply) (s : Status) (va : Nat) : Block := endCommand (faultPin b r.vi va 256 s) r s 0 va

/-- Takes and runs a row's command. One that needs a power domain that holds it, a record of another chip that has not come,
or a context that is not to be had, waits at its source, and its turn passes (R98, R276, R373). -/
def serveRow (op : Nat) (h : Cmd) (src : CmdSrc) (ao : AO) (b : Block) : Block :=
  match fetch b src op with
  | .nothing => b
  | .pass b' => b'
  | .unread b' s va r => lostCommand b' r s va
  | .command b' c r kept =>
    match h ao b' c r with
    | (_, .lost .held va) => pursue kept 256 r.vi va
    | (b'', .lost s va) => lostCommand b'' r s va
    | (b'', .now s res det) => endCommand b'' r s res det
    | (b'', .later) => recForget b'' 256
    | (_, .stay) => kept
    | (b'', .redraw) => { kept with sec := b''.sec, free := b''.free }

/-! ### The checks of R104 -/

/-- Who may issue a command (R103): any instance, VI 0, or a tenant. The Crypto Officer's token is checked beside
its services. -/
inductive Issuer where
  | any | vi0 | tenant
  deriving DecidableEq, Repr

def Issuer.ok (i : Issuer) (vi : Nat) : Bool :=
  match i with | .any => true | .vi0 => vi == 0 | .tenant => vi != 0

def cmdGen (c : Bytes) : Nat := fieldAt c 6 2
def cmdTarget (c : Bytes) : Nat := fieldAt c 8 8
def cmdEpoch (c : Bytes) : Nat := fieldAt c 2 1

/-- Reserved bits of the header and every operand byte outside the listed ranges are zero (check 6). (DEDUCED, log 47) -/
def reservedOk (c : Bytes) (used : List (Nat × Nat)) : Bool :=
  fieldAt c 3 1 == 0 && fieldAt c 1 1 / 4 == 0 &&
    (List.range 48).all fun i => used.any (fun u => decide (u.1 ≤ 16 + i) && decide (16 + i ≤ u.2)) || fieldAt c (16 + i) 1 == 0

/-- Checks 2 to 6 in order: issuer, generation, target (the command's own), epoch, reserved bytes and operand values.
(DEDUCED, log 47) -/
def check (b : Block) (c : Bytes) (r : Reply) (who : Issuer) (target : Option Status) (epoch : Nat)
    (used : List (Nat × Nat)) (operands : Bool) : Option Status :=
  if !who.ok r.vi then some .permission
  else if cmdGen c ≠ (b.vinst r.vi).gen then some .instanceReset
  else match target with
    | some s => some s
    | none =>
      if cmdEpoch c ≠ epoch then some .staleRole
      else if !reservedOk c used || !operands then some .bounds
      else none

/-- The checks of a command without a target, whose target field is 0. (DEDUCED, log 47) -/
def check0 (b : Block) (c : Bytes) (r : Reply) (who : Issuer) (used : List (Nat × Nat)) (operands : Bool) :
    Option Status :=
  check b c r who none 0 used (operands && cmdTarget c == 0)

/-- Runs `k` when every check passes. -/
def guarded (b : Block) (chk : Option Status) (k : Block × Done) : Block × Done :=
  match chk with
  | some s => (b, .now s 0 0)
  | none => k

/-- The template that bounds an instance; VI 0 uses the whole block (R110). -/
def quotaOf (b : Block) (vi : Nat) (f : Template → Nat) (whole : Nat) : Nat :=
  if vi = 0 then whole else f (b.vinst vi).tpl

/-! ### Tracker words (R107) -/

/-- The 8-byte tracker word. -/
def trackerWord (count status gen : Nat) : Bytes := natLe 4 count ++ natLe 2 status ++ natLe 2 gen

/-- Writes the word of a tracker; a failed write leaves the word, its failure returned. (DEDUCED, log 51) -/
def writeTracker (b : Block) (t : Tracker) (st : Status) : Except VaErr Block :=
  writeVa b t.vi clsControl t.va (trackerWord t.count st.code (b.vinst t.vi).gen)

def trackerAt (b : Block) (i : Nat) : Option Tracker := (b.rin.trackers.find? fun e => e.1 == i).map (·.2)

end Sys2Proof.Machine
end

