-- ==== Sys2Proof/Machine/Access.lean ====
section
/-! DEFINITION. Granule requests at the memory channels: who made them, retry limits, forming and retiring them, and
how an access that fails ends (R37-R42, R78, R175, R176, R296, R412). -/

namespace Sys2Proof.Machine

/-! ### Whose access -/

/-- The retry limit of an access: its context's, else 3 (R175, R337, R464). -/
def accLimit (b : Block) (a : Acc) : Nat :=
  match a.owner.onBehalf with
  | some c => (b.ctx c).limit
  | none => 3

/-- Every access a channel holds, waiting or outstanding. -/
def chanAccs (c : Chan) : List Acc := c.rwait ++ c.wwait ++ c.rtags.map (·.2) ++ c.wtags.map (·.2)

/-- The accesses whose data crosses the ring. -/
def ringAccs (b : Block) : List Acc := (ringItems b).filterMap fun i => match i.load with
  | .write a => some a
  | .read a _ => some a
  | _ => none

/-- The accesses that wait at a Palette bank. -/
def palAccs (b : Block) : List Acc := b.palq.flatMap fun e => e.2.map (·.acc)

def allAccs (b : Block) : List Acc := (b.chans.flatMap fun e => chanAccs e.2) ++ ringAccs b ++ palAccs b

/-- Remote requests in flight or held, as accesses. -/
def remoteAccs (b : Block) : List Acc :=
  b.links.flatMap (fun e => e.2.reqs.flatMap (fun r => r.2.acc :: r.2.also) ++
    (match e.2.encoder with | some k => k.accs | none => [])) ++ b.held.flatMap (fun r => r.acc :: r.also) ++
    (ringItems b).filterMap fun i => match i.load with | .encode _ _ a => some a | _ => none

/-- Accesses of a context that have not ended. -/
def ctxAccs (b : Block) (c : Nat) : List Acc := (allAccs b ++ remoteAccs b).filter fun a => a.owner.ctx == some c

/-- Its reads: those not the read of a write. -/
def ctxReads (b : Block) (c : Nat) : List Acc := (ctxAccs b c).filter fun a => !a.write
def ctxWrites (b : Block) (c : Nat) : List Acc := (ctxAccs b c).filter fun a => a.write

/-- Instruction fetches and flag reads: no bursts of a data instruction. -/
def Owner.small : Owner → Bool
  | .fetch _ => true
  | .flag _ => true
  | .recRead _ => true
  | _ => false

/-- Bursts a context has outstanding (R159): an owner's number tells its bursts apart; a read-back or a signal is one per
2,048-byte stretch. -/
def burstsOut (b : Block) (c : Nat) : Nat :=
  ((((ctxAccs b c).filter fun a => !a.owner.small).map fun a =>
    (a.owner, a.write, if a.owner.seq.isSome then 0 else a.va / 2048)).eraseDups).length

/-! ### Failing -/

/-- Lines being filled for dropped accesses are given back. -/
def dropFills (b : Block) : Block :=
  let wanted := (allAccs b).filter (·.fill)
  let l := b.pal.lines.filter fun e => !e.2.filling || wanted.any fun a => a.gran == e.1
  { b with pal := { b.pal with lines := l } }

/-- A burst one of whose writes did not land never counts as complete (R176). -/
def markBad (b : Block) : Owner → Block
  | .unitWrite c s _ n => b.modCtx c fun x =>
      { x with execs := x.execs.map fun e => if e.seq == s then { e with badBursts := e.badBursts ++ [n] } else e }
  | _ => b

/-- Unit accesses of a context not yet presented are not issued any more (R115, R178). -/
def dropWaiting (b : Block) (c : Nat) : Block :=
  let mine := fun (a : Acc) => a.owner.ctx == some c && a.owner.seq.isSome
  let chans := b.chans.mapVals {} fun _ ch =>
    { ch with rwait := ch.rwait.filter fun a => !mine a
              wwait := ch.wwait.filter fun a => !mine a }
  let ring := b.ring.mapVals [] fun _ l => l.filter fun i => match i.load with
    | .write a => !mine a
    | .encode _ _ a => !mine a
    | _ => true
  let palq := b.palq.mapVals [] fun _ l => l.filter fun i => !mine i.acc
  dropFills { b with chans := chans, ring := ring, palq := palq, held := b.held.filter fun r => !mine r.acc }

/-- Begins a halt (R176): the context issues no further burst; accesses of bursts it issued are waited for.
The halted instruction is that of the execution given, else
the one the context is at. -/
def haltBegin (b : Block) (c : Nat) (st : Status) (va : Nat) (retries : Nat := 0) (seq : Option Nat := none) : Block :=
  let x := b.ctx c
  if x.halting.isSome || x.st == .free || x.st == .halted || x.aborting then b
  else
    let e := seq.bind fun n => x.execs.find? fun e => e.seq == n
    let pc := match e with | some e => e.pcA | none => x.pc
    b.setCtx c
      { x with halting := some (st, va), haltRetries := retries, haltSeq := seq, haltPc := pc }

/-- The pin a failing channel access raises (R41, R411): retry limit, uncorrectable or parity. (DEDUCED, log 13) -/
def raiseFail (b : Block) (a : Acc) (st : Status) : Block :=
  let src := match st with
    | .uncorrectable => 33
    | .parity => 34
    | _ => 35
  raise b src a.ch (status := st) (vi := a.vi) (ctx := (a.owner.ctx).getD 256) (detail := a.gran * 256)

def setLineAt (b : Block) (gran : Nat) (l : Option Line) : Block :=
  let rest := b.pal.lines.filter fun e => e.1 != gran
  { b with pal := { b.pal with lines := match l with | some x => rest ++ [(gran, x)] | none => rest } }

/-- The local granule of a physical address. -/
def granOf (pa : Nat) : Nat := pa % 2 ^ 48 / 256

/-- Ends a write-back that failed: an eviction keeps its line dirty, a free or an invalidation loses it (R309, R464). -/
def writebackFailed (b : Block) (a : Acc) (st : Status) : Block :=
  match findLine b a.gran with
  | none => b
  | some l =>
    let p := b.pslot l.buf
    if p.freeing then
      let off := (l.buf * 16 + l.pos) * 256
      let b := setLineAt b a.gran none
      b.setPslot l.buf { p with wbFail := some (p.wbFail.getD (st.code, off)), wbLost := p.wbLost + 1 }
    else if l.drop && a.owner == .writeback none then
      raise (setLineAt b a.gran none) 54 (regionOf l.buf) (vi := l.vi) (detail := 1)
    else setLineAt b a.gran (some { l with writing := false, newer := false, drop := false })

/-- What a request received over a link still waits to be told: status and data, one entry per answered request. -/
structure RemoteAnswer where
  port : Nat
  rix : Nat
  chip : Nat
  status : Status
  data : Option Bytes

/-- The answer flit to a remote request (R321, R337): RDATA with its status in aux, or an ACK entry. -/
def answerFlit (b : Block) (r : RemoteAnswer) : Flit :=
  let base : Flit := { vc := vcRsp, dl := 0, eom := true, op := opAck, dst := r.chip, src := b.setup.chipId
                       rix := r.rix, vi := 0, ksel := 0, addr := 0, aux := 0, hops := 0, payload := [] }
  match r.data with
  | some d => { base with op := opRdata, aux := r.status.code, payload := pad256 d }
  | none => { base with rix := 0
                        payload := pad256 (natLe 8 (r.rix + r.status.code * 2 ^ 16 + 2 ^ 32)) }

/-- Sends the answer on its route. -/
def sendAnswer (b : Block) (r : RemoteAnswer) : Block := routeOwn b [answerFlit b r]

/-- What is left of a failed request in its stream goes with it. -/
def dropStream (b : Block) (k : Option Nat) (rix : Nat) : Block :=
  match k with
  | none => b
  | some k =>
    let mine := fun (a : Acc) => match a.owner with | .remote _ r _ _ _ => r == rix | _ => false
    { b with streams := b.streams.upd [] k fun l => match l with
        | [] => []
        | a :: t => a :: t.filter fun x => !mine x }

/-- A walk ends with a status. -/
def failWalk (b : Block) (id : Nat) (st : Status) (tries : Nat) : Block :=
  { b with xl := { b.xl with walks := b.xl.walks.map fun w =>
      if w.1 == id then (id, { w.2 with found := some (.fail st), tries := tries }) else w } }

/-- A fetch that failed halts its context when the context comes to what it was to bring (R145). (DEDUCED, log 95) -/
def failFetch (b : Block) (c : Nat) (st : Status) (va retries : Nat) : Block :=
  b.modCtx c fun x => match x.fetch with
    | some l => { x with fetch := none, fetchBad := some (l.va, st, va, retries) }
    | none => x

/-- An access ends in failure; what that means depends on whose it is. -/
def failAcc (b : Block) (a : Acc) (st : Status) : Block :=
  let b := markBad (if a.fill then setLineAt b a.gran none else b) a.owner
  match a.owner with
  | .writeback (some c) => haltBegin (writebackFailed b a st) c st a.va a.retries
  | .writeback none => writebackFailed b a st
  | .remote port rix chip k _ =>
    sendAnswer (dropStream b k rix) { port := port, rix := rix, chip := chip, status := st
                                      data := if a.write then none else some [] }
  | .walk id _ => failWalk b id st a.retries
  | .record cq n => recordDone b cq n a.va st
  | .recRead r => recAnswer b r a.vi a.va st []
  | .fetch c => failFetch b c st a.va a.retries
  | o => match o.ctx with
    | some c => haltBegin b c st a.va a.retries o.seq
    | none => b

/-- An access has met a RETRY, an ERROR or a waiting tick: it goes on with one more counted, or fails at its limit.
A halting context's access is not retried (R176). -/
def retryAcc (b : Block) (a : Acc) : Option Acc :=
  let a := { a with retries := a.retries + 1 }
  let halting := match a.owner.ctx with
    | some c => (b.ctx c).halting.isSome
    | none => false
  if a.retries ≥ accLimit b a || halting || a.owner == .discard then none else some a

/-! ### Forming requests -/

/-- Puts a request behind the others of its path; at a channel out of service it counts its first RETRY (R78). -/
def pushAcc (b : Block) (a : Acc) : Block :=
  let ch := b.chan a.ch
  let b := b.ask (arbChan a.ch (!a.reads)) a.owner.source (weightOf b)
  let place := fun (a : Acc) => if a.reads then b.setChan a.ch { ch with rwait := ch.rwait ++ [a] }
    else b.setChan a.ch { ch with wwait := ch.wwait ++ [a] }
  if ch.service == .lost then
    match retryAcc b a with
    | some a => place a
    | none => failAcc (raiseFail b { a with retries := a.retries + 1 } .busRetryExhausted)
                { a with retries := a.retries + 1 } .busRetryExhausted
  else place a

/-- The ring hops an access's data takes to a channel: a write or the operand of a read-modify-write from another
quadrant (R19, R183, R220). A write already combined, a line's fill and a read's request cross nothing.
(DEDUCED, log 94) -/
def wayTo (a : Acc) (ch : Nat) : List Nat :=
  if a.write && !a.fill && !a.combined then (a.owner.quad.map fun q => ringPath q (quadOfChan ch)).getD [] else []

/-- Forms the request of one granule: the steering table names its channel (R294, R296); a partial write behind an
untrusted channel is a read-modify-write (R389), and a walker's read there fails its walk (R281).
With no channel, or none in service, the access fails (R295). -/
def formAcc (b : Block) (a : Acc) : Block :=
  match channelOf b (a.gran * 256) with
  | none => failAcc b a .busRetryExhausted
  | some ch =>
    if (b.chan ch).service == .fenced then failAcc b a .busRetryExhausted
    else
      let partly := a.write && a.rmw.isNone && untrusted b ch && !(a.mask.all (· == 0xFF))
      let a := { a with ch := ch, rmw := if partly then some .merge else a.rmw }
      match a.owner, untrusted b ch with
      | .walk id _, true => failWalk b id .xlateFault 0
      | _, _ =>
        match wayTo a ch with
        | [] => pushAcc b a
        | path => ringSend b a.owner.ringSource 1 (.write a) path

/-! ### Combining (R142, R219-R221, R389) -/

/-- Applies the elements of a REDUCE to a granule. -/
def applyRed (mode ty : Nat) (d : Bytes) : List RedElt → Bytes
  | [] => d
  | e :: es =>
    let n := nibsOf ty / 2
    let old := leNat (sliceAt d e.off n)
    applyRed mode ty (patchAt d e.off (natLe n (combine mode ty old e.val e.q))) es

/-- The granule a read-modify-write leaves, from the granule read and the access's own bytes. -/
def combineRmw (a : Acc) (old : Bytes) : Bytes :=
  match a.rmw with
  | some (.reduce mode ty es) => applyRed mode ty old es
  | some (.addFlag off n v) => patchAt old off (natLe n (leNat (sliceAt old off n) + v))
  | _ => mergeMasked old a.data a.mask

/-- The write a read-modify-write becomes once its granule has been read: whole bytes only (R142, R220). -/
def Acc.combine (a : Acc) (old : Bytes) : Acc :=
  { a with data := combineRmw a old, combined := true, mask := a.mask.map fun m => if m == 0 then 0 else 0xFF }

/-- The memory behind a channel after a write's OK answer: the byte enables decide on a trusted channel, the whole
granule is written under XTS otherwise (R40, R389). The read part of a read-modify-write has put its result in the
data. (DESIGN CHOICE, log 55) -/
def commitWrite (b : Block) (a : Acc) : Block :=
  let at_ := a.gran * 256
  let k := granKey a.ch a.gran
  let bad := if a.full then b.badGran.put 0 k 0 else b.badGran
  let b : Block := { b with badGran := bad }
  if untrusted b a.ch then memWrite b a.ch at_ (granCipher b a.ch a.gran a.ksel a.data)
  else memWrite b a.ch at_ (mergeMasked (memRead b a.ch at_ 256) a.data a.mask)

end Sys2Proof.Machine
end

