-- ==== Sys2Proof/Machine/Palette.lean ====
section
/-! DEFINITION. The Palette: its words (R422), the scratchpad window (R292, R293, R313), the write-back cache
(R308-R312) and the buffer pool (R112, R113, R464). -/

namespace Sys2Proof.Machine

/-! ### Islands and the power state (R34, R450-R453) -/

/-- An island that runs: out of reset, clocked, not in safe state, not clamped by P3 (R450), no start ordered (R64).
Numbers follow flt_safe (R60). -/
def islandUp (b : Block) (i : Nat) : Bool :=
  b.islands.out.get false i && !b.islands.lost.get false i && !b.islands.safe.getLsbD i && b.power.state != 3 &&
    !b.boot.startPending

/-- A quadrant that runs: its island is up and not clock-gated (R450). -/
def quadUp (b : Block) (q : Nat) : Bool := islandUp b q && decide (b.power.state ≤ 1)

def Block.setPower (b : Block) (f : Power → Power) : Block := { b with power := f b.power }

/-- The stream ports open again when the quadrants run. -/
def openPorts (b : Block) : Block :=
  (List.range 8).foldl (fun b p =>
    if quadUp b (quadOfPort p) then b.setSport p { b.sport p with ready := true } else b) b

/-- Takes up a request for state `t` from the state in force (R452). (DEDUCED, log 41) -/
def requestPower (b : Block) (t : Nat) : Block :=
  let s := b.power.state
  if t = s then b
  else if t ≤ 1 then b.setPower fun p => { p with busy := some t, pending := none }
  else if s = 3 then b
  else b.setPower fun p => { p with pending := some t }

/-- A write made while a transition ran takes effect at its end (R452). -/
def takeDeferred (b : Block) : Block :=
  match b.power.deferred with
  | some t => requestPower (b.setPower fun p => { p with deferred := none }) t
  | none => b

/-- The exit from P2 to a state of running quadrants. -/
def exitP2 (b : Block) (t : Nat) (auto : Bool) : Block :=
  openPorts (b.setPower fun p => { p with state := t, busy := none, auto := auto })

/-- Leaves P2 when work needs the quadrants (R453); an exit that runs already ends with it, an entry to P3 that runs waits for
its condition again. (DEDUCED, log 41) -/
def wakeP2 (b : Block) : Block :=
  if b.power.state = 2 then
    let wake := if bitOf b.power.ctl.toNat 2 then 1 else 0
    match b.power.busy with
    | none => exitP2 b wake true
    | some t =>
      if t ≤ 1 then takeDeferred (exitP2 b t false)
      else takeDeferred ((exitP2 b wake true).setPower fun p => { p with pending := some t })
  else b

/-! ### Lines -/

/-- The bank that is home to a granule (R308). -/
def homeBank (b : Block) (gran : Nat) : Option Nat := (channelOf b (gran * 256)).map quadOfChan

/-- The buffers of use 1 an instance may take lines in (R309). -/
def lineBufs (b : Block) (vi bank : Nat) : List (Nat × PoolSlot) :=
  b.pal.slots.filter fun (u, p) =>
    p.alloc && p.use == 1 && !p.freeing && p.vi == vi && p.gen == (b.vinst vi).gen && regionOf u == bank

/-- The lines of a buffer. -/
def linesIn (b : Block) (u : Nat) : List (Nat × Line) := b.pal.lines.filter fun e => e.2.buf == u

/-- The least recently used line of a list. -/
def oldest : List (Nat × Line) → Option (Nat × Line)
  | [] => none
  | e :: t =>
    match oldest t with
    | some f => if f.2.stamp < e.2.stamp then some f else some e
    | none => some e

/-- A free place in the buffers: the lowest. -/
def freePlace (b : Block) : List (Nat × PoolSlot) → Option (Nat × Nat)
  | [] => none
  | (u, p) :: t =>
    match ((List.range (p.units * 16)).filter fun i => !((linesIn b u).any fun e => e.2.pos == i)).head? with
    | some i => some (u, i)
    | none => freePlace b t

/-- Marks a line as just used. -/
def touchLine (b : Block) (gran : Nat) (l : Line) : Block :=
  let b : Block := { b with pal := { b.pal with stamp := b.pal.stamp + 1 } }
  setLineAt b gran (some { l with stamp := b.pal.stamp })

/-- Writes a dirty line back to its channel (R310). A line with an uncorrectable word is not written back: source 54
records it, and a line that was to go is lost (R422). -/
def startWriteback (b : Block) (gran : Nat) (owner : Owner) (drop : Bool) : Block :=
  match findLine b gran with
  | none => b
  | some l =>
    if !l.dirty || l.writing || l.filling then b
    else if badIn b l.offset 256 then
      let p := b.pslot l.buf
      if p.freeing then
        let b := setLineAt b gran none
        b.setPslot l.buf { p with wbFail := some (p.wbFail.getD (Status.uncorrectable.code, l.offset))
                                  wbLost := p.wbLost + 1 }
      else raise (if drop then setLineAt b gran none else b) 54 (regionOf l.buf) (vi := l.vi) (detail := 1)
    else
      let d := palRead b l.offset 256
      let b := setLineAt b gran (some { l with writing := true, drop := drop })
      formAcc b (mkAcc owner true gran 0 256 (gran * 256) l.vi l.ksel d (List.replicate 256 0xFF))

/-- Takes a line for a granule: a free place, else the place of the least recently used clean line; with every line
dirty none, and the oldest dirty one is written back in the background (R309). -/
def takeLine (b : Block) (vi gran ksel : Nat) : Block × Option Line :=
  match homeBank b gran with
  | none => (b, none)
  | some bank =>
    let bufs := lineBufs b vi bank
    let mine := b.pal.lines.filter fun e => bufs.any fun u => u.1 == e.2.buf
    match freePlace b bufs with
    | some (u, i) =>
      let l : Line := { buf := u, pos := i, vi := vi, ksel := ksel }
      (touchLine b gran l, some l)
    | none =>
      match oldest (mine.filter fun e => !e.2.dirty && !e.2.writing && !e.2.filling) with
      | some (g, o) =>
        let l : Line := { buf := o.buf, pos := o.pos, vi := vi, ksel := ksel }
        (touchLine (setLineAt b g none) gran l, some l)
      | none =>
        if mine.any fun e => e.2.writing then (b, none)
        else match oldest (mine.filter fun e => e.2.dirty) with
          | some (g, _) => (startWriteback b g (.writeback none) false, none)
          | none => (b, none)

/-- How an access to one granule is served. -/
inductive Served where
  | data (d : Bytes)
  | written
  | queued
  | failed (s : Status)

/-- Reads or writes Palette bytes for an access at Palette offset `o` of its granule. -/
def servePal (b : Block) (a : Acc) (o : Nat) : Block × Served :=
  if a.write then
    match a.rmw with
    | none => (palMerge b o a.data a.mask, .written)
    | some _ =>
      match palReadChk b (o + a.off) a.len a.vi ((a.owner.ctx).getD 256) with
      | (b, .error s) => (b, .failed s)
      | (b, .ok _) =>
        let c := a.combine (palRead b o 256)
        (palPut b (o + a.off) (sliceAt c.data a.off a.len), .written)
  else
    match palReadChk b (o + a.off) a.len a.vi ((a.owner.ctx).getD 256) with
    | (b, .error s) => (b, .failed s)
    | (b, .ok _) => (b, .data (palRead b o 256))

/-- Whether a granule of a cached access has to wait: its line is being filled, or holds another key selector and is
being written back. A line of another selector is dropped or its write-back begun (R309). -/
def prepareGran (b : Block) (gran ksel : Nat) : Block × Bool :=
  match findLine b gran with
  | none => (b, false)
  | some l =>
    if l.filling then (b, true)
    else if l.ksel = ksel then (b, false)
    else if l.writing then (setLineAt b gran (some { l with drop := true }), true)
    else if l.dirty then (startWriteback b gran (.writeback none) true, true)
    else (setLineAt b gran none, false)

/-- Puts an access behind what waits at a Palette bank; it passes in as many grants as it touches 64-byte words (R355). -/
def palSend (b : Block) (bank : Nat) (a : Acc) (off : Option Nat) : Block :=
  let i : PalItem := { req := a.owner.source, words := (a.off + a.len + 63) / 64 - a.off / 64, acc := a, off := off }
  let b := b.ask (arbPal bank) i.req (weightOf b)
  { b with palq := b.palq.upd [] bank fun l => l ++ [i] }

/-- An access through a canvas with cached = 1 (R308, R309): a hit waits for its line's bank; a miss that finds a place takes
one, filled from memory unless all 256 bytes are written; else it goes to memory. -/
def serveCached (b : Block) (a : Acc) : Block :=
  match findLine b a.gran with
  | some l => palSend (touchLine b a.gran l) (regionOf l.buf) a none
  | none =>
    match takeLine b a.vi a.gran a.ksel with
    | (b, none) => formAcc b a
    | (b, some l) =>
      let b := touchLine b a.gran { l with filling := true }
      if a.write && a.full && a.rmw.isNone then palSend b (regionOf l.buf) { a with fill := true } none
      else formAcc b { a with fill := true }

/-- A fill's granule has arrived, or the bytes of a whole write: it stands in the line, and the access is served from it. -/
def finishFill (b : Block) (a : Acc) (d : Bytes) : Block × Served :=
  match findLine b a.gran with
  | none => if a.write then (formAcc b { a with fill := false, tag := none }, .queued) else (b, .data d)
  | some l =>
    let b := palPut b l.offset d
    let b := touchLine b a.gran { l with filling := false, dirty := a.write }
    servePal b { a with fill := false } l.offset

/-- An access acts on the Palette, its words granted: on the window, on the line it fills, or on its line; one whose line has
gone meanwhile is a miss again. -/
def palServe (b : Block) (i : PalItem) : Block × Served :=
  let a := i.acc
  match i.off with
  | some o => servePal b a o
  | none =>
    if a.fill then finishFill b a a.data
    else match findLine b a.gran with
      | some l =>
        let b := touchLine b a.gran { l with dirty := l.dirty || a.write, newer := l.newer || (a.write && l.writing) }
        servePal b a l.offset
      | none => (serveCached b a, .queued)

/-- Whether a line's domain drains (R371). -/
def lineDrains (b : Block) (gran : Nat) : Bool :=
  (domainsOf b (channelOf b (gran * 256)) (some (gran * 256))).any fun d => (b.pdom d).drain

/-- A write-back's OK answer (R309, R310). A line written since stays dirty, and one that was to go, or lies in a domain
that drains, is written back once more. (DEDUCED, log 69) -/
def writebackDone (b : Block) (a : Acc) : Block :=
  match findLine b a.gran with
  | none => b
  | some l =>
    let go := l.drop || (b.pslot l.buf).freeing
    if l.newer then
      let b := setLineAt b a.gran (some { l with writing := false, newer := false })
      if go || lineDrains b a.gran then startWriteback b a.gran a.owner go else b
    else if go then setLineAt b a.gran none
    else setLineAt b a.gran (some { l with writing := false, dirty := false })

/-- Every line steered to a fenced channel goes; the lost dirty ones are counted in one event (R312). -/
def dropLinesOf (b : Block) (ch : Nat) : Block :=
  let mine := b.pal.lines.filter fun e => channelOf b (e.1 * 256) == some ch
  let lost := (mine.filter fun e => e.2.dirty).length
  let rest := b.pal.lines.filter fun e => channelOf b (e.1 * 256) != some ch
  let b : Block := { b with pal := { b.pal with lines := rest } }
  if lost = 0 then b else raise b 54 (quadOfChan ch) (detail := lost)

/-! ### The buffer pool -/

/-- Whether a bound context or an open ring names the buffer at a unit (R113). -/
def bufNamed (b : Block) (u : Nat) : Bool :=
  b.ctxs.any (fun e => e.2.st != .free && e.2.bufs.contains u) ||
    b.chains.any (fun e => e.2.live && e.2.rings.any fun r => r.buf == u)

/-- Ends a free: the units are free, a ring's epoch moves on, the completion is written (R113, R114, R464). -/
def finishFree (b : Block) (u : Nat) : Block :=
  let p := b.pslot u
  let b := b.setPslot u { p with alloc := false, freeing := false, vi := 0, gen := 0, units := 0, use := 0, owed := none
                                 epoch := if p.use = 2 then (p.epoch + 1) % 256 else p.epoch
                                 wbFail := none, wbLost := 0 }
  let b := if p.wbLost = 0 then b else raise b 54 (regionOf u) (vi := p.vi) (detail := p.wbLost)
  match p.owed with
  | none => b
  | some r =>
    match p.wbFail with
    | none => complete b r .ok 0 0
    | some (code, o) =>
      complete b r (if code = Status.uncorrectable.code then .uncorrectable
        else if code = Status.parity.code then .parity
        else if code = Status.domainOff.code then .domainOff else .busRetryExhausted) 0 (palOffset o)

/-- Lines of a freeing buffer: clean ones go, dirty ones are written back (R310). -/
def flushBuf (b : Block) (u : Nat) : Block :=
  (linesIn b u).foldl (fun b e =>
    if e.2.writing || e.2.filling then b
    else if e.2.dirty then startWriteback b e.1 (.writeback none) true
    else setLineAt b e.1 none) b

/-- A freeing buffer that nobody names is freed once no line of it is left. -/
def tryFree (b : Block) (u : Nat) : Block :=
  let p := b.pslot u
  if p.alloc && p.freeing && !bufNamed b u then
    let b := flushBuf b u
    if (linesIn b u).isEmpty then finishFree b u else b
  else b

/-- Every freeing buffer. -/
def tryFrees (b : Block) : Block :=
  (b.pal.slots.filter fun e => e.2.freeing).foldl (fun b e => tryFree b e.1) b

/-- The lowest start in a region of `n` free units (R112). -/
def fitIn (b : Block) (r n : Nat) : Option Nat :=
  let lo := regionFirst r
  let hi := lo + regionUnits r
  let used := b.pal.slots.filter fun e => e.2.alloc && decide (lo ≤ e.1) && decide (e.1 < hi)
  let s := used.foldl (fun a e => if a + n ≤ e.1 then a else max a (e.1 + e.2.units)) lo
  let fits := used.all (fun e => decide (s + n ≤ e.1) || decide (e.1 + e.2.units ≤ s))
  if s + n ≤ hi && fits && !b.isFenced .region r then some s else none

/-- Units an instance holds (R110). -/
def unitsOf (b : Block) (vi : Nat) : Nat :=
  (b.pal.slots.filter fun e => e.2.alloc && e.2.vi == vi).foldl (fun a e => a + e.2.units) 0

/-- A buffer's id: the unit, and the unit's allocation count (R112). -/
def bufId (u : Nat) (p : PoolSlot) : Nat := u + p.count * 65536

/-- POOL_ALLOC (R112); a size of 0 is BOUNDS (DESIGN CHOICE, log 107). With bank 0xFF the banks are tried in ascending order: no
operand names the issuing context whose quadrant's bank would come first (DESIGN CHOICE, log 114). -/
def cmdPoolAlloc : Cmd := fun _ b c r =>
  let n := fieldAt c 16 2
  let bank := fieldAt c 18 1
  let use := fieldAt c 19 1
  guarded b (check0 b c r .any [(16, 19)] (decide (1 ≤ n) && (decide (bank ≤ 4) || bank == 0xFF) && decide (use ≤ 2)))
    (let tries := if bank = 0xFF then [0, 1, 2, 3, 4] else [bank]
     match (tries.filterMap fun q => fitIn b q n).head? with
     | none => (b, .now .poolEmpty 0 0)
     | some u =>
       if unitsOf b r.vi + n ≤ quotaOf b r.vi (·.palette) poolUnits then
         let old := b.pslot u
         let p : PoolSlot := { alloc := true, count := (old.count + 1) % 65536, units := n, use := use, vi := r.vi
                               gen := (b.vinst r.vi).gen
                               epoch := if use = 2 then (old.epoch + 1) % 256 else old.epoch }
         (b.setPslot u p, .now .ok (bufId u p + (if use = 2 then p.epoch else 0) * 2 ^ 32) (palOffset (u * 4096)))
       else (b, .now .poolEmpty 0 0))

def execPoolAlloc (src : CmdSrc) (s : State) : Host.Outcome State Fault Refusal := lift (serveRow 0x40 cmdPoolAlloc src) s

/-- The refusing rows of R113. -/
def poolRows (b : Block) (vi id : Nat) : Option Status :=
  let u := id % 65536
  let p := b.pslot u
  if u ≥ poolUnits then some .bounds
  else if !p.alloc || p.count ≠ id / 65536 % 65536 || p.freeing then some .doubleFree
  else if p.vi ≠ vi || p.gen ≠ (b.vinst vi).gen then some .notOwner
  else none

/-- (DEDUCED, log 50) -/
def cmdPoolFree : Cmd := fun _ b c r =>
  let id := cmdTarget c
  let u := id % 65536
  let rows := poolRows b r.vi (id % 2 ^ 32)
  if cmdGen c == (b.vinst r.vi).gen && rows.isSome then
    let s := rows.getD .bounds
    (raise b 53 0 (status := s) (vi := r.vi) (detail := id), .now s 0 0)
  else
    let p := b.pslot u
    guarded b (check b c r .any rows (if p.use = 2 then p.epoch else 0) [] (decide (id < 2 ^ 32)))
      (let b := if (linesIn b u).any (fun e => e.2.dirty) then wakeP2 b else b
       (tryFree (b.setPslot u { p with freeing := true, owed := some r }) u, .later))

def execPoolFree (src : CmdSrc) (s : State) : Host.Outcome State Fault Refusal := lift (serveRow 0x41 cmdPoolFree src) s

end Sys2Proof.Machine
end

