-- ==== Sys2Proof/Machine/Remote.lean ====
section
/-! DEFINITION. Groups and their participants (R345), SLIP and ABORT (R349, R351), and accesses that leave for another
chip (R330). -/

namespace Sys2Proof.Machine

/-! ### Groups -/

/-- The context takes part in the group of an address, recording its present epoch at the first access (R345). -/
def participate (b : Block) (c pa : Nat) : Block :=
  match groupOf b (pa % 2 ^ 48) with
  | none => b
  | some g =>
    let x := b.ctx c
    if x.groups.any fun e => e.1 == g then b
    else b.setCtx c { x with groups := x.groups ++ [(g, (b.grp g).epoch)] }

/-- Contexts taking part in a group: bound and not halted (R345). -/
def participants (b : Block) (g : Nat) : List Nat :=
  (b.ctxs.filter fun e => (e.2.st == .running || e.2.st == .waiting) && e.2.groups.any fun p => p.1 == g).map (·.1)

/-- The ports a SLIP or ABORT of a group leaves on: at its origin (no arrival port) or at another member (R351). -/
def groupPorts (r : GroupCfg) (arrival : Option Nat) : List Nat :=
  let two := r.pa.toList ++ r.pb.toList
  let tree := r.pa.toList ++ (List.range 8).filter fun p => hasBit r.children p
  let l := match r.topo with
    | 0 => two
    | 1 => r.pb.toList
    | _ => tree
  match arrival, r.topo with
  | some _, 1 => l
  | some p, _ => l.filter (· != p)
  | none, _ => l

/-- Sends a group message on the group's ports that are ready (R351). -/
def groupSend (b : Block) (g mtype : Nat) (body : Bytes) (arrival : Option Nat) : Block :=
  match b.setup.groups[g]? with
  | none => b
  | some r => ((groupPorts r arrival).filter fun p => linkReady b p).foldl (fun b p => sendNeighbour b p mtype body) b

/-- The ABORT body (R335). -/
def abortBody (g epoch origin status : Nat) : Bytes :=
  natLe 1 g ++ natLe 1 epoch ++ natLe 2 origin ++ natLe 2 status ++ natLe 10 0

/-- The SLIP body (R335). -/
def slipBody (g origin us : Nat) : Bytes := natLe 2 g ++ natLe 2 origin ++ natLe 4 us ++ natLe 8 0

/-- The epoch of a group moves on and its participants halt with TASK_ABORTED (R349). -/
def endGroup (b : Block) (g : Nat) : Block :=
  let ps := participants b g
  let x := b.grp g
  ps.foldl (fun b c => haltBegin b c .taskAborted 0) (b.setGrp g { x with epoch := (x.epoch + 1) % 256 })

/-- A participant has halted: the group is told, and ends here too (R349). A TASK_ABORTED halt tells nobody. -/
def abortGroups (b : Block) (c : Nat) (st : Nat) : Block :=
  if st = Status.taskAborted.code then b
  else (b.ctx c).groups.foldl (fun b (g, e) =>
    if e = (b.grp g).epoch then
      endGroup (groupSend b g mtAbort (abortBody g e b.setup.chipId st) none) g
    else b) b

/-! ### Requests -/

/-- A request without a route fails at once (R330). -/
def noRoute (b : Block) (r : RemReq) : Block :=
  (r.acc :: r.also).foldl (fun b a => failAcc b a .route) (raise b 49 (entryPort b r.chip) (status := .route) (vi := r.acc.vi)
    (ctx := (r.acc.owner.ctx).getD 256) (detail := r.acc.va))

/-- Sends a remote request on its route. -/
def sendRemote (b : Block) (r : RemReq) : Block := (sendReq b r).getD (noRoute b r)

/-- Sends a remote request whose data stands in a quadrant. -/
def sendRemoteFrom (q : Option Nat) (b : Block) (r : RemReq) : Block := (sendReqFrom q b r).getD (noRoute b r)

/-- A new remote request for an access. -/
def remoteAcc (b : Block) (a : Acc) (chip : Nat) : Block :=
  sendRemote b { acc := a, chip := chip, op := opOfAcc a, group := remGroup b a }

end Sys2Proof.Machine
end

