-- ==== Sys2Proof/Machine/Walker.lean ====
section
/-! DEFINITION. The walker (R280, R281, R285, R287-R291): a miss starts or joins a walk, each table entry is read in one
access through its channel. -/

namespace Sys2Proof.Machine

/-- The walk of a number. -/
def walkAt (b : Block) (i : Nat) : Option Walk := (b.xl.walks.find? fun w => w.1 == i).map (·.2)

def setWalk (b : Block) (i : Nat) (w : Walk) : Block :=
  { b with xl := { b.xl with walks := b.xl.walks.map fun x => if x.1 == i then (i, w) else x } }

/-- The context that waits, and what marks it as waiting for walk `i`. -/
def Waiter.ctx : Waiter → Nat
  | .burst c _ _ => c
  | .fetch c _ => c
  | .flag c _ => c

def waitsFor (b : Block) (i : Nat) (w : Waiter) : Bool :=
  let x := b.ctx w.ctx
  (match w with
    | .burst _ _ _ => x.walk
    | .fetch _ _ => x.fetch.bind (·.walk)
    | .flag _ _ => x.load.bind (·.walk)) == some i

/-- Marks a waiter's wait, or ends it. -/
def setWait (b : Block) (w : Waiter) (i : Option Nat) : Block :=
  b.modCtx w.ctx fun x => match w with
    | .burst _ _ _ => { x with walk := i }
    | .fetch _ _ => { x with fetch := x.fetch.map fun l => { l with walk := i } }
    | .flag _ _ => { x with load := x.load.map fun l => { l with walk := i } }

/-- Presents the read of a walk's next entry, on behalf of the context that missed (R281, R289): never from the window. -/
def walkRead (b : Block) (i : Nat) (w : Walk) : Block :=
  let pa := w.table % 2 ^ 48 + 8 * ptIndex w.va w.level
  if inWindow (w.table % 2 ^ 48) then setWalk b i { w with found := some (.fail .xlateFault) }
  else formAcc (setWalk b i w)
    (mkAcc (.walk i ((w.waiters.head?.map (·.ctx)).getD 256)) false (pa / 256) (pa % 256) 8 pa 0 0 [] [])

/-- Begins a walk that has one of the 64 places. -/
def beginWalk (b : Block) (i : Nat) : Block :=
  match walkAt b i with
  | none => b
  | some w =>
    let (lvl, t) := walkStart b w.vi w.gen w.va
    walkRead b i { w with running := true, level := lvl, table := t }

/-- Starts or joins a walk for a miss (R289): misses of one instance and generation in one 2 MiB region share it. With 64 walks
at work a further one waits for a place; its context waits with it (R290). -/
def startWalk (b : Block) (u : Waiter) (vi va : Nat) : Block :=
  let gen := (b.vinst vi).gen
  match b.xl.walks.find? fun w => w.2.vi == vi && w.2.gen == gen && w.2.va / 2 ^ 21 == va / 2 ^ 21 && !w.2.discard with
  | some (i, w) => setWait (setWalk b i { w with waiters := w.waiters ++ [u] }) u (some i)
  | none =>
    let i := b.xl.nextWalk
    let room := decide ((b.xl.walks.filter fun w => w.2.running).length < 64)
    let ws := b.xl.walks ++ [(i, { vi := vi, gen := gen, va := va, waiters := [u], discard := false })]
    let b : Block := { b with xl := { b.xl with walks := ws, nextWalk := i + 1 } }
    let b := setWait b u (some i)
    if room then beginWalk b i else b

/-- The pointer-cache entry of a table passed at a level (R289). -/
def ptrOf (w : Walk) (t : Nat) : PtrEntry :=
  let log := leafLog (w.level - 1) + 9
  { vi := w.vi, gen := w.gen, level := w.level - 1, va := w.va / 2 ^ log * 2 ^ log, table := t }

/-- A table entry has been read: on to the next table, or the walk has found its end (R280). -/
def walkData (b : Block) (i : Nat) (a : Acc) (d : Bytes) : Block :=
  match walkAt b i with
  | none => b
  | some w =>
    if w.found.isSome then b
    else match entryAt w.level (fieldAt d a.off 8) with
      | .table t => walkRead b i { w with level := w.level - 1, table := t, passed := w.passed ++ [ptrOf w t] }
      | .found f => setWalk b i { w with found := some f }

/-- A place is free: the walk that has waited longest takes it (R289). -/
def nextWalkIn (b : Block) : Block :=
  match b.xl.walks.find? fun w => !w.2.running with
  | some (i, _) => if (b.xl.walks.filter fun w => w.2.running).length < 64 then beginWalk b i else b
  | none => b

end Sys2Proof.Machine
end

