-- ==== Sys2Proof/Machine/Context.lean ====
section
/-! DEFINITION. Contexts: when one may run, instruction fetch (R145), its accesses to records and flags, binding and
unbinding (R114, R143, R144), halts (R176) and chain completions (R174). -/

namespace Sys2Proof.Machine

/-! ### Executions -/

/-- The execution has issued its last write burst. -/
def allIssued (e : Exec) : Bool :=
  e.units.all fun u => (u.phase == .writing || u.phase == .committed || u.phase == .failed) && u.writes.isEmpty

/-! ### Who may run -/

/-- A context's instance is not being reset (R115). -/
def viFree (b : Block) (vi : Nat) : Bool := (b.vinst vi).stage == 0

/-- The context may issue: its quadrant runs and nothing stops it (R115, R143, R160, R176, R178). -/
def canIssue (b : Block) (c : Nat) : Bool :=
  let x := b.ctx c
  quadUp b (quadOfCtx c) && x.halting.isNone && !x.aborting && viFree b x.vi && x.st != .free && x.st != .halted

/-- Write-backs of the context's FLUSH still open (R170). (DEDUCED, log 69) -/
def flushing (b : Block) (c : Nat) : Bool := (allAccs b).any fun a => a.owner == .writeback (some c)

/-- The context may begin its next instruction. (DESIGN CHOICE, log 5) -/
def canStep (b : Block) (c : Nat) : Bool :=
  let x := b.ctx c
  canIssue b c && x.st == .running && x.wait.isNone && x.drain.isNone && !(x.execs.any (·.stopped)) &&
    !(match x.fence with | some f => f.sc | none => false) && !flushing b c

/-! ### Buffers named, granules issued -/

/-- Records that a context names the buffer at a unit (R113): it does from its first access to the buffer's window bytes or
to a cache line in it. (DESIGN CHOICE, log 108) -/
def nameBuf (b : Block) (c u : Nat) : Block :=
  let x := b.ctx c
  if x.bufs.contains u then b else b.setCtx c { x with bufs := x.bufs ++ [u] }

/-- The buffer a window offset lies in. -/
def bufAt (b : Block) (o : Nat) : Option Nat :=
  (b.pal.slots.find? fun e => e.2.alloc && decide (e.1 * 4096 ≤ o) && decide (o < (e.1 + e.2.units) * 4096)).map (·.1)

/-- Notes the last granule a context wrote at a destination: a channel of this chip, or 1000 + a remote chip (R168). -/
def noteWrite (b : Block) (c key : Nat) (a : Acc) : Block :=
  b.modCtx c fun x => { x with lastW := Tab.insert x.lastW key a }

/-- Notes a write to this chip's memory. -/
def noteLocal (b : Block) (c : Nat) (a : Acc) : Block :=
  match channelOf b (a.gran * 256), a.write with
  | some ch, true => noteWrite b c ch a
  | _, _ => b

/-- After a cached access has been presented: the context names the buffer of its line; with no line it went to memory. -/
def noteServed (b : Block) (c : Nat) (a : Acc) : Block :=
  match findLine b a.gran with
  | some l => nameBuf b c l.buf
  | none => noteLocal b c a

/-- Issues one granule of a context's access at a physical address: a remote chip, the window, a cached line or memory. -/
def issueGran (b : Block) (c : Nat) (cached : Bool) (pa : Nat) (a : Acc) : Block :=
  let b := participate b c pa
  if !isLocalChip b (bitsOf pa 63 48) then
    let b := if a.write then noteWrite b c (1000 + bitsOf pa 63 48) a else b
    remoteAcc b a (bitsOf pa 63 48)
  else if inWindow (pa % 2 ^ 48) then
    let o := pa % 2 ^ 48 - windowBase
    let b := match bufAt b o with
      | some u => nameBuf b c u
      | none => b
    palSend b (regionOf (o / 4096)) a (some (o / 256 * 256))
  else if cached then noteServed (serveCached b a) c a
  else formAcc (noteLocal b c a) a

/-! ### Reads of records -/

/-- The translation of a record's access by a context, under its retry limit (R281, R288). -/
def ctxXl (b : Block) (c va : Nat) (need : Need) : Block × Except Status (Nat × Nat) :=
  rowXl b (some (quadOfCtx c)) c (b.ctx c).vi va need

/-- A context's read of local memory within the step, under its own domain policy (R373). -/
def ctxLocal (b : Block) (c ksel pa n : Nat) : Except Status Bytes :=
  match domEffect b (domainsOf b (channelOf b pa) (some pa)) (fun _ => (b.ctx c).failPolicy) with
  | .hold => .error .held
  | .fail => .error .domainOff
  | .pass => localRead b ksel c (n / 256 + 2) pa n

/-- One granule's worth of a record, read within the step: the line if it is cached there (filled on a miss, and waited for
while it is being filled or leaves for another key selector, R309), the window, memory, or what a READ has brought from
another chip. -/
def readPiece (b : Block) (c : Nat) (cached : Bool) (va pa ksel n : Nat) : Block × Except Status Bytes :=
  let b := participate b c pa
  let l := pa % 2 ^ 48
  if !isLocalChip b (bitsOf pa 63 48) then (b, recBytes b c (b.ctx c).vi va n)
  else if inWindow l then
    let b := match bufAt b (l - windowBase) with
      | some u => nameBuf b c u
      | none => b
    palReadChk b (l - windowBase) n (b.ctx c).vi c
  else if cached then
    match prepareGran b (l / 256) ksel with
    | (b, true) => (b, .error .held)
    | (b, false) =>
    match findLine b (l / 256) with
    | some x => palReadChk (touchLine b (l / 256) x) (x.offset + l % 256) n (b.ctx c).vi c
    | none =>
      if (allAccs b).any fun a => a.write && a.gran == l / 256 && !a.remoteClass then (b, .error .held)
      else match ctxLocal b c ksel (l / 256 * 256) 256 with
      | .error s => (b, .error s)
      | .ok d =>
        match takeLine b (b.ctx c).vi (l / 256) ksel with
        | (b, none) => (b, .ok (sliceAt d (l % 256) n))
        | (b, some x) => (nameBuf (palPut b x.offset d) c x.buf, .ok (sliceAt d (l % 256) n))
  else (b, ctxLocal b c ksel l n)

/-- Reads `n` bytes at a VA for a context. -/
def ctxRead (c cls : Nat) (cached : Bool) : Nat → Nat → Nat → Block → Block × Except VaErr Bytes
  | 0, _, _, b => (b, .ok [])
  | _, _, 0, b => (b, .ok [])
  | fuel + 1, va, n, b =>
    let m := min n (256 - va % 256)
    match ctxXl b c va { rd := true, wr := false, cls := cls, len := m } with
    | (b, .error s) => (b, .error (s, va))
    | (b, .ok (pa, ksel)) =>
      match readPiece b c cached va pa ksel m with
      | (b, .error s) => (b, .error (s, va))
      | (b, .ok d) =>
        match ctxRead c cls cached fuel (va + m) (n - m) b with
        | (b, .error e) => (b, .error e)
        | (b, .ok r) => (b, .ok (d ++ r))

def readCtx (b : Block) (c cls : Nat) (cached : Bool) (va n : Nat) : Block × Except VaErr Bytes :=
  ctxRead c cls cached (n / 256 + 2) va n b

/-! ### Instruction fetch (R145) -/

/-- Cuts fetched bytes into instructions by address. -/
def cutInstr (a : Nat) : Nat → Bytes → List (Nat × Bytes)
  | 0, _ => []
  | n + 1, d => (a, d.take 32) :: cutInstr (a + 32) n (d.drop 32)

/-- Adds the bytes an access has brought to a small read. -/
def SmallRead.add (l : SmallRead) (a : Acc) (d : Bytes) : SmallRead :=
  { l with got := (List.range a.len).foldl (fun t i => Tab.insert t (a.va + i) (d.getD (a.off + i) 0)) l.got }

/-- All its bytes have come. -/
def SmallRead.whole (l : SmallRead) : Bool := decide (l.len ≤ l.got.length)

/-- Instructions that stand buffered in a row from an address, at most `n`. -/
def buffered (l : List (Nat × Bytes)) : Nat → Nat → Nat
  | 0, _ => 0
  | n + 1, pc => if l.any fun e => e.1 == pc then buffered l n (pc + 32) + 1 else 0

/-- The buffer with a fetch's 8 instructions: the last 16. -/
def fillBuf (l : List (Nat × Bytes)) (va : Nat) (d : Bytes) : List (Nat × Bytes) :=
  let new := cutInstr va 8 d
  ((l.filter (fun e => !(new.any fun n => n.1 == e.1)) ++ new).reverse.take 16).reverse

/-- Bytes of the fetch under way have come; a whole fetch fills the buffer. -/
def fetchGot (b : Block) (c : Nat) (a : Acc) (d : Bytes) : Block :=
  b.modCtx c fun x => match x.fetch with
    | none => x
    | some l =>
      let l := l.add a d
      if l.whole then { x with fetch := none, ibuf := fillBuf x.ibuf l.va (l.got.map (·.2)) }
      else { x with fetch := some l }

/-- The pieces of a run of bytes, granule by granule. -/
def pieces : Nat → Nat → Nat → List (Nat × Nat)
  | 0, _, _ => []
  | _, _, 0 => []
  | f + 1, a, n => let m := min n (256 - a % 256); (a, m) :: pieces f (a + m) (n - m)

/-- The pieces of a small read translated: each with its physical address and key selector; or the VA of the first that
misses in the TLBs, or fails. -/
inductive SmallXl where
  | ok (l : List ((Nat × Nat) × (Nat × Nat)))
  | miss (va : Nat)
  | fail (s : Status) (va : Nat)
  deriving DecidableEq, Repr

def xlPieces (c cls : Nat) : List (Nat × Nat) → Block → Block × SmallXl
  | [], b => (b, .ok [])
  | p :: t, b =>
    match xlBurst b (quadOfCtx c) (b.ctx c).vi p.1 { rd := true, wr := false, cls := cls, len := p.2 } with
    | (.miss, b) => (b, .miss p.1)
    | (.fail s, b) => (b, .fail s p.1)
    | (.ok pa k, b) =>
      match xlPieces c cls t b with
      | (b, .ok l) => (b, .ok ((p, (pa, k)) :: l))
      | e => e

/-- Issues one piece of a context's fetch. -/
def issueFetch (c : Nat) (b : Block) (p : (Nat × Nat) × (Nat × Nat)) : Block :=
  let a := mkAcc (.fetch c) false (granOf p.2.1) (p.1.1 % 256) p.1.2 p.1.1 (b.ctx c).vi p.2.2 [] []
  issueGran b c false p.2.1 a

/-- The next fetch of 256 bytes, with the rights of the instance, when 8 buffered instructions remain and none is under
way (R145). (DEDUCED, log 95) -/
def startFetch (b : Block) (c : Nat) : Block :=
  let x := b.ctx c
  let n := buffered x.ibuf 16 x.pc
  if !canIssue b c || x.fetch.isSome || x.fetchBad.isSome || 8 < n then b
  else
    let va := x.pc + 32 * n
    let b := b.setCtx c { x with fetch := some { va := va, len := 256 } }
    match xlPieces c clsControl (pieces 3 va 256) b with
    | (b, .fail s at_) => failFetch (faultPin b x.vi at_ c s) c s at_ 0
    | (b, .miss at_) => startWalk b (.fetch c at_) x.vi at_
    | (b, .ok l) => l.foldl (issueFetch c) b

/-- The instruction at the context's address from its buffer; `held` while it has not come. A failed fetch that was to
bring it is the failure. -/
def fetchInstr (b : Block) (c : Nat) : Block × Except VaErr Bytes :=
  let x := b.ctx c
  match x.ibuf.find? fun e => e.1 == x.pc with
  | some e => (b, .ok e.2)
  | none =>
    match x.fetchBad with
    | some (va, s, at_, _) => if va ≤ x.pc && x.pc < va + 256 then (b, .error (s, at_)) else (b, .error (.held, x.pc))
    | none => (b, .error (.held, x.pc))

/-- Retries of the fetch that failed (R179). -/
def fetchRetries (x : Ctx) : Nat := match x.fetchBad with | some (_, _, _, n) => n | none => 0

/-- Opcodes R147 lists. -/
def listedInstr : List Nat :=
  [1, 2, 3, 4, 5, 6, 7, 8, 9, 0x10, 0x11, 0x12, 0x13, 0x14, 0x15, 0x16, 0x17, 0x1F]

/-- How an instruction goes: on with a block, not yet, or a halt with its status and VA. -/
inductive Res where
  | go (b : Block)
  | stay
  /-- Not yet, with what has begun. -/
  | hold (b : Block)
  | halt (b : Block) (s : Status) (va : Nat)

/-- Lets context `c` begin its next instruction when that is one of the row: a failed fetch and a reserved opcode halt
the context (R145, R147). An instruction that would halt it begins once the executions before it have ended, so that
they are whole (R176 keeps resume points for the halted and for later instructions only).
(DESIGN CHOICE, log 5; DEDUCED, log 60) -/
def runInstr (row : Bytes → Bool) (k : Block → Ctx → Bytes → Res) (c : Nat) (b : Block) : Block :=
  if !canStep b c then b
  else
    let wait := fun (b : Block) => b.modCtx c fun x => { x with stuckAt := some x.pc }
    let stay := wait b
    let halt := fun b' s va =>
      if (b.ctx c).execs.isEmpty then haltBegin (recForget (faultPin b' (b.ctx c).vi va c s) c) c s va else stay
    match fetchInstr b c with
    | (_, .error (.held, _)) =>
      startFetch (b.modCtx c fun x => if x.fetch.isNone then { x with fetchBad := none } else x) c
    | (_, .error (s, va)) => if (b.ctx c).execs.isEmpty then haltBegin b c s va (fetchRetries (b.ctx c)) else stay
    | (b', .ok i) =>
      if !listedInstr.contains (fieldAt i 0 1) then halt b' .badOpcode 0
      else if !row i then b
      else match k b' (b'.ctx c) i with
        | .go b'' => startFetch (recForget b'' c) c
        | .stay => stay
        | .hold b'' => wait b''
        | .halt b'' .held va => wait (pursue b'' c (b''.ctx c).vi va)
        | .halt b'' s va => halt b'' s va

/-- On to the next instruction. -/
def advance (b : Block) (c : Nat) : Block := b.modCtx c fun x => { x with pc := x.pc + 32 }

/-- Whether PEN and the predicate skip an instruction (R171). -/
def skipped (x : Ctx) (i : Bytes) : Bool :=
  let f := fieldAt i 1 1
  bitOf f 0 && x.pred == bitOf f 1

/-- The iteration index of the loop at a depth 1 to 4 (R156). (DEDUCED, log 58) -/
def iterAt (x : Ctx) (d : Nat) : Option Nat := if d = 0 then some 0 else (x.loops[d - 1]?).map (·.it)

/-! ### Completions of a context (R144, R174) -/

/-- The statuses by code, for recorded halts. -/
def statusOf (code : Nat) : Status :=
  match [Status.badHandle, .bounds, .badType, .badOpcode, .xlateFault, .permission, .keySelect, .busRetryExhausted,
      .uncorrectable, .parity, .instanceReset, .domainOff, .thermalStop, .doubleFree, .notOwner, .poolEmpty, .locked,
      .staleRole, .writeOnce, .digestMismatch, .seedDigest, .linkDown, .route, .taskAborted, .queueFull].find?
      fun s => s.code == code with
  | some s => s
  | none => .ok

/-- The result naming a context: number and epoch. -/
def ctxResult (c : Nat) (x : Ctx) : Nat := c + x.epoch * 256

/-- A completion that would wait for room in its queue; one owed to a queue that is being destroyed is dropped (R100, R105). -/
def stuckReply (b : Block) (r : Option Reply) (st : Status) : Bool :=
  match r with
  | none => false
  | some r =>
    match r.path with
    | .queue i _ =>
      let q := b.cq (b.sq i).cq
      (b.sq i).live && !(r.quiet && st == .ok) && !q.dying && (q.tight || !q.waiting.isEmpty)
    | _ => false

/-- The END of a context waits for room for its completion, or for its chain's when it is the last stage to end (R100). -/
def endStuck (b : Block) (c : Nat) : Bool :=
  let x := b.ctx c
  let ending := match x.chain with
    | some (n, _) => if (b.chainAt n).ended.length + 1 = (b.chainAt n).stages.length then (b.chainAt n).owed else none
    | none => none
  stuckReply b x.owed .ok || stuckReply b ending .ok

/-- Sends the completion a context owes for PROGRAM_SUBMIT or CONTEXT_RESUME (R144). -/
def postOwed (b : Block) (c : Nat) (st : Status) (detail : Nat) : Block :=
  let x := b.ctx c
  match x.owed with
  | none => b
  | some r => complete (b.setCtx c { x with owed := none }) r st (if x.owedResult then ctxResult c x else 0) detail

/-- Sends the completion of a chain, once (R174), with the writes of its stage records acknowledged (R305). -/
def postChain (b : Block) (n : Nat) (st : Status) (detail : Nat) : Block :=
  let ch := b.chainAt n
  match ch.owed with
  | none => b
  | some r =>
    let b := b.setChain n { ch with owed := none }
    let (st, detail) := if st == .ok then ch.lost.getD (st, detail) else (st, detail)
    match ch.job with
    | some j => finishJob b j r st ch.result detail
    | none => complete b r st ch.result detail

/-! ### Unbinding -/

/-- Takes a context, and the walks for it, out of the arbiters that number contexts: a new binding starts at its weight
(R357). The link arbiters, from 300 on, number other requesters. -/
def dropArb (b : Block) (c : Nat) : Block :=
  { b with arb := b.arb.mapVals {} fun k a => if 300 ≤ k && k < 400 then a else
      { a with reqs := (a.reqs.erase c).erase (300 + c)
               prev := if a.prev = some c then none else a.prev
               lock := match a.lock with | some (o, n) => if o = c then none else some (o, n) | none => none } }

/-- Reads of a context not yet returned are discarded when they return; those not yet presented are dropped (R115,
R178). A read-modify-write that has not written yet is dropped with them. (DEDUCED, log 72) -/
def discardReads (b : Block) (c : Nat) : Block :=
  let mine := fun (a : Acc) => a.owner.ctx == some c && a.reads
  let chans := b.chans.mapVals {} fun _ ch =>
    { ch with rwait := ch.rwait.filter fun a => !mine a
              rtags := ch.rtags.map fun e => if mine e.2 then (e.1, { e.2 with owner := .discard, rmw := none }) else e }
  let links := b.links.mapVals {} fun _ l =>
    { l with reqs := l.reqs.map fun e =>
        if e.2.acc.owner.ctx == some c && e.2.op == opRead then
          (e.1, { e.2 with acc := { e.2.acc with owner := .discard } }) else e }
  let ring := b.ring.mapVals [] fun _ l => l.filter fun i => match i.load with
    | .write a => !mine a
    | .read a _ => !mine a
    | _ => true
  let palq := b.palq.mapVals [] fun _ l => l.filter fun i => !mine i.acc
  { b with chans := chans, links := links, ring := ring, palq := palq
           held := b.held.filter fun r => !(r.acc.owner.ctx == some c && r.op == opRead) }

/-- Unbinds a context (R114, R143): its epoch moves on, lines and buffers it held are given up. -/
def unbind (b : Block) (c : Nat) : Block :=
  let x := b.ctx c
  if x.st == .free then b
  else
    let b := recForget (dropFills (discardReads b c)) c
    let b := dropArb b c
    let b : Block := { b with sports := b.sports.mapVals {} fun _ p =>
      { p with out := p.out.map fun o => if o.ctx = c then { o with ctx := 256 } else o } }
    let b : Block := { b with ring := b.ring.mapVals [] fun _ l => l.filterMap fun i => match i.load with
      | .egress p o => some (if o.ctx = c then { i with load := .egress p { o with ctx := 256 } } else i)
      | .ingress k _ _ => if k = c then none else some i
      | _ => some i }
    let b := { b with drq := b.drq.mapVals {} fun _ d => if d.pacing = some c then { d with pacing := none } else d }
    tryFrees (b.setCtx c { epoch := (x.epoch + 1) % 256 })

/-! ### Halts -/

/-- The lowest number not complete, and the mask of the complete ones that follow it (R176). (DEDUCED, log 62) -/
def resumePoint (done : List Nat) : Nat × Nat :=
  let r := (List.range (done.length + 1)).foldl (fun (a : Option Nat) n =>
    match a with | some x => some x | none => if done.contains n then none else some n) none
  let r := r.getD 0
  (r, (List.range 64).foldl (fun a i => a + b2n (done.contains (r + i)) * 2 ^ i) 0)

/-- A unit cut short by a halt commits nothing and is read again in full (R200). -/
def WorkUnit.cut (u : WorkUnit) : WorkUnit :=
  if u.phase == .committed then u
  else { u with phase := .waiting, lane := none, onLane := false, decs := [], raw := [], runs := u.reads, got := [], writes := [] }

/-- An execution stopped by a halt; it gives up its codebook store (R268). -/
def Exec.stop (e : Exec) : Exec :=
  { e with stopped := true, store := false, loader := none, swatch := { e.swatch with codebook := [] }
           units := e.units.map WorkUnit.cut }

/-- Ends a halt (R144, R176): every execution keeps its resume point, the context is HALTED, the completion it owes is
written, its group is told (R349). (DEDUCED, log 61, 72) -/
def finishHalt (b : Block) (c : Nat) : Block :=
  let x := b.ctx c
  match x.halting with
  | none => b
  | some (st, va) =>
    let e := x.haltSeq.bind fun n => x.execs.find? fun e => e.seq == n
    let (r, m) := match e with
      | some e => resumePoint e.doneBursts
      | none => (0, 0)
    let faultVa := if st == .xlateFault || st == .permission then va else 0
    let detail := if st == .xlateFault || st == .permission then va else x.haltPc
    let b := recForget (abortGroups b c st.code) c
    let b := b.setCtx c { b.ctx c with
      st := .halted, halting := none, haltStatus := st.code, faultVa := faultVa, resume := r, mask := m, wait := none
      drain := none, walk := none, fetch := none, fetchBad := none, load := none
      execs := x.execs.map Exec.stop }
    let b := postOwed b c st detail
    match x.chain with
    | some (n, _) => postChain b n st detail
    | none => b

end Sys2Proof.Machine
end

