-- ==== Sys2Proof/Machine/Programs.lean ====
section
/-! DEFINITION. Programs and chains: binding (R143-R145, R172, R182), CONTEXT_ABORT (R178) and CONTEXT_INSPECT (R179).
CONTEXT_RESUME stands beside the data instructions, which it checks again. -/

namespace Sys2Proof.Machine

/-! ### Binding -/

/-- A quadrant whose 16 lanes are all fenced (R181). -/
def quadFenced (b : Block) (q : Nat) : Bool := (List.range 16).all fun i => b.isFenced .lane (16 * q + i)

/-- Bound contexts of a quadrant, and of an instance (R182, R110). -/
def boundIn (b : Block) (q : Nat) : Nat := (b.ctxs.filter fun e => e.2.st != .free && quadOfCtx e.1 == q).length
def boundOf (b : Block) (vi : Nat) : Nat := (b.ctxs.filter fun e => e.2.st != .free && e.2.vi == vi).length

/-- The quadrant with the fewest bound contexts, the lowest on a tie, among those that bind (R181, R182).
(DEDUCED, log 48) -/
def leastQuad (b : Block) : Option Nat :=
  ((List.range 4).filter fun q => !quadFenced b q).foldl (fun (a : Option Nat) q =>
    match a with
    | none => some q
    | some p => if boundIn b q < boundIn b p then some q else a) none

/-- The lowest free context of a quadrant. -/
def freeCtx (b : Block) (q : Nat) : Option Nat :=
  (((List.range 64).map (64 * q + ·)).filter fun c => (b.ctx c).st == .free).head?

/-- What a binding needs to know of a program. -/
structure Bind where
  prog : Nat
  weight : Nat
  limit : Nat
  fail : Bool
  deriving DecidableEq, Repr

/-- The retry limit and domain policy byte of a submission (R103, R175). -/
def Bind.of (prog weight policy : Nat) : Bind :=
  { prog := prog, weight := weight, limit := if policy % 16 = 0 then 3 else policy % 16, fail := bitOf policy 4 }

/-- Binds a program to a context: the epoch moves on, the predicate is 1 (R114, R143, R171), and its fetch begins; a chain's
stages begin once all are bound (R172). -/
def bindCtx (b : Block) (c vi : Nat) (l : Bind) (owed : Option Reply) (chain : Option (Nat × Nat)) : Block :=
  let x := b.ctx c
  let a := b.arbAt (arbCtx (quadOfCtx c))
  let b := b.setArb (arbCtx (quadOfCtx c)) { a with reqs := a.reqs.put {} c { bound := true, ctr := l.weight } }
  let b := b.setCtx c { st := .running, epoch := (x.epoch + 1) % 256, vi := vi, gen := (b.vinst vi).gen, weight := l.weight
                        limit := l.limit, failPolicy := l.fail, prog := l.prog, pc := l.prog, owed := owed
                        chain := chain }
  if chain.isNone then startFetch b c else b

/-- A place for one more context: quadrant and context, a fenced quadrant, or nothing free now (R98, R111, R181). -/
inductive Place where
  | at (c : Nat)
  | fenced
  | full
  deriving DecidableEq, Repr

/-- (DEDUCED, log 48) -/
def placeCtx (b : Block) (vi quad : Nat) : Place :=
  match (if quad = 0xFF then leastQuad b else some quad) with
  | none => .fenced
  | some q =>
    if quadFenced b q then .fenced
    else if boundOf b vi ≥ quotaOf b vi (·.contexts) 256 then .full
    else match freeCtx b q with
      | some c => .at c
      | none => .full

/-- PROGRAM_SUBMIT (R144, R145, R181, R182): the completion is owed until END or a halt. -/
def cmdProgramSubmit : Cmd := fun _ b c r =>
  let prog := fieldAt c 16 8
  let weight := fieldAt c 24 1
  let policy := fieldAt c 25 1
  let quad := fieldAt c 26 1
  guarded b
    (check0 b c r .any [(16, 26)]
      (prog % 32 == 0 && decide (1 ≤ weight) && decide (policy < 32) && (decide (quad ≤ 3) || quad == 0xFF)))
    (match placeCtx b r.vi quad with
      | .fenced => (b, .now .taskAborted 0 0)
      | .full => (b, .stay)
      | .at n => (bindCtx (wakeP2 b) n r.vi (Bind.of prog weight policy) (some r) none, .later))

def execProgramSubmit (src : CmdSrc) (s : State) : Host.Outcome State Fault Refusal :=
  lift (serveRow 0x30 cmdProgramSubmit src) s

/-! ### Chains (R172) -/

/-- One stage record. -/
structure StageRec where
  load : Bind
  quad : Nat
  ring : Nat
  repoch : Nat
  slotLog : Nat
  count : Nat
  /-- Reserved bytes are zero and the fields in range, the ring's size apart. -/
  ok : Bool
  deriving DecidableEq, Repr

/-- (DESIGN CHOICE, log 57) -/
def stageRec (last : Bool) (d : Bytes) : StageRec :=
  let prog := fieldAt d 0 8
  let weight := fieldAt d 8 1
  let policy := fieldAt d 9 1
  let quad := fieldAt d 10 1
  let ring := fieldAt d 12 4
  let slotLog := fieldAt d 17 1
  let count := fieldAt d 18 2
  { load := Bind.of prog weight policy, quad := quad, ring := ring, repoch := fieldAt d 16 1, slotLog := slotLog
    count := count
    ok := prog % 32 == 0 && decide (1 ≤ weight) && decide (policy < 32) && (decide (quad ≤ 3) || quad == 0xFF) &&
      fieldAt d 11 1 == 0 && fieldAt d 20 4 == 0 && fieldAt d 26 6 == 0 &&
      (if last then ring == 0
       else decide (8 ≤ slotLog) && decide (slotLog ≤ 16) && decide (2 ≤ count) && decide (count ≤ 4096)) }

/-- Existence, owner and use of a stage's ring buffer. (DESIGN CHOICE, log 57) -/
def ringTarget (b : Block) (vi id : Nat) : Option Status :=
  let u := id % 65536
  let p := b.pslot u
  if u ≥ poolUnits || !p.alloc || p.freeing || p.count ≠ id / 65536 then some .badHandle
  else if p.vi ≠ vi || p.gen ≠ (b.vinst vi).gen then some .permission
  else if p.use ≠ 2 then some .badType
  else none

/-- The checks of the stage records: ring buffers, their epochs, then sizes and ranges (R104, R172).
(DESIGN CHOICE, log 57) -/
def checkStages (b : Block) (vi : Nat) (l : List StageRec) : Option Status :=
  let rings := l.dropLast
  match rings.filterMap (fun s => ringTarget b vi s.ring) with
  | s :: _ => some s
  | [] =>
    if rings.any fun s => (b.pslot (s.ring % 65536)).epoch != s.repoch then some .staleRole
    else if l.any (fun s => !s.ok) ||
        rings.any fun s => decide ((b.pslot (s.ring % 65536)).units * 4096 < s.count * 2 ^ s.slotLog) then some .bounds
    else none

/-- Binds the stages in order; nothing unless every one has a place. -/
def bindStages (n vi : Nat) : Nat → List StageRec → Block → List Nat → Block × Except Place (List Nat)
  | _, [], b, acc => (b, .ok acc)
  | i, s :: t, b, acc =>
    match placeCtx b vi s.quad with
    | .at c => bindStages n vi (i + 1) t (bindCtx b c vi s.load none (some (n, i))) (acc ++ [c])
    | p => (b, .error p)

/-- Cuts the chain table into its records. -/
def stageRecs (k : Nat) (d : Bytes) : List StageRec :=
  (List.range k).map fun i => stageRec (i + 1 == k) (sliceAt d (32 * i) 32)

/-- Writes bytes 24 and 25 of every record. -/
def writeStages (vi va : Nat) : Nat → List Nat → Block → Except VaErr Block
  | _, [], b => .ok b
  | i, c :: t, b =>
    match writeVa b vi clsControl (va + 32 * i + 24) (natLe 1 c ++ natLe 1 (b.ctx c).epoch) with
    | .error e => .error e
    | .ok b' => writeStages vi va (i + 1) t b'

def cmdChainSubmit : Cmd := fun _ b c r =>
  let va := fieldAt c 16 8
  let k := fieldAt c 24 1
  guarded b (check0 b c r .any [(16, 24)] (decide (2 ≤ k) && decide (k ≤ 8)))
    (match readVa b r.vi clsControl va (32 * k) with
      | .error (s, at_) => (b, .lost s at_)
      | .ok d =>
        let b := palNote b r.vi va (32 * k)
        let l := stageRecs k d
        guarded b (checkStages b r.vi l)
          (let n := lowestFree b.chains.keys 0
           match bindStages n r.vi 0 l b [] with
           | (_, .error .fenced) => (b, .now .taskAborted 0 0)
           | (_, .error _) => (b, .stay)
           | (b', .ok cs) =>
             match writeStages r.vi va 0 cs b' with
             | .error (s, at_) => (b, .lost s at_)
             | .ok b' =>
               let first := cs.getD 0 0
               let rings := l.dropLast.map fun s => ({ buf := s.ring % 65536, slotLog := s.slotLog, count := s.count } : Ring)
               let ch : Chain := { live := true, vi := r.vi, stages := cs, rings := rings, owed := some r
                                   result := ctxResult first (b'.ctx first)
                                   job := if jobOpen b' b'.rin.nextJob then some b'.rin.nextJob else none }
               let b' := if ch.job.isSome then nextJob b' else b'
               (cs.foldl startFetch (wakeP2 (b'.setChain n ch)), .later)))

def execChainSubmit (src : CmdSrc) (s : State) : Host.Outcome State Fault Refusal :=
  lift (serveRow 0x31 cmdChainSubmit src) s

/-! ### CONTEXT_ABORT (R178) -/

/-- Existence and ownership of a context target (check 4). -/
def ctxTarget (b : Block) (vi t : Nat) : Option Status :=
  let x := b.ctx t
  if t ≥ 256 || x.st == .free then some .badHandle
  else if x.vi ≠ vi then some .permission
  else none

/-- The contexts an abort reaches: every bound stage of a chain, else the one (R174). -/
def abortSet (b : Block) (c : Nat) : List Nat :=
  match (b.ctx c).chain with
  | none => [c]
  | some (n, _) => (b.chainAt n).stages.filter fun d => (b.ctx d).st != .free && (b.ctx d).chain.map (·.1) == some n

/-- A context stops issuing for an abort or a reset; its reads are discarded when they return. -/
def stopCtx (b : Block) (c : Nat) : Block := dropFills (discardReads (dropWaiting b c) c)

/-- Ends the abort of contexts none of which has a write open: the owed completion with TASK_ABORTED, the unbinding,
the OK of each CONTEXT_ABORT. -/
def finishAbort (b : Block) (cs : List Nat) : Block :=
  let aborts := cs.flatMap fun c => (b.ctx c).aborts
  let chain := (cs.head?.bind fun c => (b.ctx c).chain).map (·.1)
  let b := cs.foldl (fun b c => unbind (postOwed b c .taskAborted 0) c) b
  let b := match chain with
    | some n => tryFrees ((postChain b n .taskAborted 0).setChain n {})
    | none => b
  aborts.foldl (fun b r => complete b r .ok 0 0) b

/-- A context keeps its binding while its TASK_ABORTED completion waits for room (R100). -/
def abortStuck (b : Block) (cs : List Nat) : Bool :=
  (cs.any fun c => stuckReply b (b.ctx c).owed .taskAborted) ||
    (match (cs.head?.bind fun c => (b.ctx c).chain) with
      | some (n, _) => stuckReply b (b.chainAt n).owed .taskAborted
      | none => false)

/-- Ends an abort once the last write has answered. -/
def settleAborts (b : Block) : Block :=
  (b.ctxs.filter fun e => e.2.aborting).foldl (fun b e =>
    if (b.ctx e.1).aborting then
      let cs := abortSet b e.1
      if (cs.all fun c => (ctxAccs b c).isEmpty) && !abortStuck b cs then finishAbort b cs else b
    else b) b

def cmdContextAbort : Cmd := fun _ b c r =>
  let t := cmdTarget c
  guarded b (check b c r .any (ctxTarget b r.vi t) (b.ctx t).epoch [] true)
    (let cs := abortSet b t
     let b := cs.foldl (fun b d => (stopCtx b d).modCtx d fun x => { x with aborting := true, halting := none }) b
     (settleAborts (b.modCtx t fun x => { x with aborts := x.aborts ++ [r] }), .later))

def execContextAbort (src : CmdSrc) (s : State) : Host.Outcome State Fault Refusal :=
  lift (serveRow 0x33 cmdContextAbort src) s

/-! ### CONTEXT_INSPECT (R179) -/

def stateCode : CtxState → Nat
  | .free => 0 | .running => 1 | .waiting => 2 | .halted => 3

/-- Four 32-bit values, missing ones 0. -/
def four (l : List Nat) : Bytes := (List.range 4).flatMap fun i => natLe 4 (l.getD i 0)

/-- The 128-byte record of a context and the bytes of its current instruction; of a context halted in a data instruction,
with the loops as they stood when that began. (DEDUCED, log 61) -/
def inspectRec (x : Ctx) (ins : Bytes) : Bytes :=
  let isHalted := x.st == .halted
  let e : Option Exec := if isHalted then x.haltSeq.bind fun n => x.execs.find? fun e => e.seq == n else x.execs.head?
  let later := match e with
    | some e => (x.execs.filter fun f => decide (e.seq < f.seq)).length
    | none => x.execs.length
  let pc := if isHalted then x.haltPc else x.pc
  let loops : List Nat × List Nat := match isHalted, e with
    | true, some e => (e.lefts, e.its)
    | _, _ => (x.loops.map (·.left), x.loops.map (·.it))
  natLe 2 (if isHalted then x.haltStatus else 0) ++ natLe 1 (stateCode x.st) ++ natLe 1 x.epoch ++
    natLe 2 (if isHalted then x.haltRetries else 0) ++
    natLe 1 (b2n x.pred + b2n x.hystHigh * 2 + loops.2.length * 4) ++ natLe 1 (if isHalted then min later 15 else 0) ++
    natLe 8 x.prog ++ natLe 8 pc ++ four loops.1 ++ four loops.2 ++
    natLe 8 (if isHalted then x.resume else 0) ++ natLe 8 (if isHalted then x.mask else 0) ++
    natLe 8 (if isHalted then x.faultVa else 0) ++
    natLe 8 ((e.map (·.dsrc)).getD 0) ++ natLe 8 ((e.map (·.ddst)).getD 0) ++ sliceAt ins 0 32

/-- The current instruction's bytes: of its execution, from the buffer, else read from the program; zero when that
read fails. (DEDUCED, log 61) -/
def currentIns (b : Block) (c : Nat) : Bytes :=
  let x := b.ctx c
  let pc := if x.st == .halted then x.haltPc else x.pc
  match x.execs.find? fun e => e.pcA == pc with
  | some e => e.ins
  | none =>
    match x.ibuf.find? fun e => e.1 == pc with
    | some e => e.2
    | none => match readVa b x.vi clsControl pc 32 with
      | .ok d => d
      | .error _ => []

def cmdContextInspect : Cmd := fun _ b c r =>
  let t := cmdTarget c
  let va := fieldAt c 16 8
  guarded b (check b c r .any (ctxTarget b r.vi t) (b.ctx t).epoch [(16, 23)] true)
    (match writeVa b r.vi clsControl va (inspectRec (b.ctx t) (currentIns b t)) with
      | .error (s, at_) => (b, .lost s at_)
      | .ok b => (b, .now .ok 128 0))

def execContextInspect (src : CmdSrc) (s : State) : Host.Outcome State Fault Refusal :=
  lift (serveRow 0x34 cmdContextInspect src) s

end Sys2Proof.Machine
end

