-- ==== Sys2Proof/Machine/Control.lean ====
section
/-! DEFINITION. The control instructions LOOP, ENDLOOP, WAIT, SIGNAL, FENCE, FLUSH, PRED, CHAIN and END (R154-R158,
R163-R173) and the events that end their waits. -/

namespace Sys2Proof.Machine

/-- Bytes `lo` to `hi` of an instruction are zero. -/
def zeros (i : Bytes) (lo hi : Nat) : Bool := fieldAt i lo (hi + 1 - lo) == 0

def opIs (op : Nat) (i : Bytes) : Bool := fieldAt i 0 1 == op

/-- A fence without SC that has not completed holds later writes (R300). -/
def writesHeld (x : Ctx) : Bool := x.fence.isSome

/-! ### Loops (R158) -/

def insLoop (b : Block) (c : Nat) (x : Ctx) (i : Bytes) : Res :=
  let count := fieldAt i 4 4
  let fin := fieldAt i 8 4
  if !(zeros i 1 3 && zeros i 12 31) then .halt b .badOpcode 0
  else if fin = 0 || x.loops.length ≥ 4 then .halt b .bounds 0
  else if count = 0 then .go (b.setCtx c { x with pc := x.pc + 32 * fin + 32 })
  else .go (b.setCtx c { x with pc := x.pc + 32
                                loops := x.loops ++ [{ start := x.pc, stop := x.pc + 32 * fin, left := count, it := 0 }] })

def execLoop (ctx : Nat) (s : State) : Host.Outcome State Fault Refusal :=
  lift (fun _ b => runInstr (opIs 0x10) (fun b x i => insLoop b ctx x i) ctx b) s

def insEndloop (b : Block) (c : Nat) (x : Ctx) (i : Bytes) : Res :=
  if !zeros i 1 31 then .halt b .badOpcode 0
  else match x.loops.getLast? with
    | none => .halt b .bounds 0
    | some l =>
      if l.stop ≠ x.pc then .halt b .bounds 0
      else
        let outer := x.loops.dropLast
        if l.left ≤ 1 then .go (b.setCtx c { x with pc := x.pc + 32, loops := outer })
        else .go (b.setCtx c { x with pc := l.start + 32
                                      loops := outer ++ [{ l with left := l.left - 1, it := (l.it + 1) % 2 ^ 32 }] })

def execEndloop (ctx : Nat) (s : State) : Host.Outcome State Fault Refusal :=
  lift (fun _ b => runInstr (opIs 0x11) (fun b x i => insEndloop b ctx x i) ctx b) s

/-! ### Flags (R155) -/

/-- The flag canvas and element of a WAIT, SIGNAL or PRED; `wr` when the instruction writes it. (DEDUCED, log 58) -/
def flagElem (b : Block) (x : Ctx) (i : Bytes) (wr : Bool) : Except Status (Canvas × Nat) :=
  match checkNamed b x.vi (fieldAt i 8 8) with
  | .error s => .error s
  | .ok n =>
    let cv := (b.slot n).canvas
    if cv.cls ≠ clsFlag || cv.rank ≠ 1 || (wr && !cv.writable) then .error .badType
    else match iterAt x (fieldAt i 20 1) with
      | none => .error .bounds
      | some it =>
        let j := fieldAt i 16 4 + it
        if j < cv.ext 0 then .ok (cv, j) else .error .bounds

/-- A flag access waits while its word overlaps a destination whose writes are not yet acknowledged (R299). -/
def flagBlocked (x : Ctx) (va n : Nat) : Bool :=
  x.execs.any fun e => match e.dfoot with
    | some (lo, hi) => decide (lo < va + n) && decide (va ≤ hi)
    | none => false

/-- Size in bytes of an element type that fills whole bytes. -/
def bytesOf (ty : Nat) : Nat := nibsOf ty / 2

/-- The compare of a WAIT on a flag of `n` bytes (R163). -/
def flagCmp (cmp n w v : Nat) : Bool :=
  match cmp with
  | 0 => w == v
  | 1 => w != v
  | 2 => decide (v ≤ w)
  | _ => decide (codeOf (8 * n) ((w : Int) - v) < 2 ^ (8 * n - 1))

/-- How a flag read stands once begun: it is under way, a line holds it up, or it has failed at a VA. -/
inductive FlagRead where
  | pending
  | stay
  | failed (s : Status) (va : Nat)

/-- Bytes of the flag read under way have come. -/
def flagGot (b : Block) (c : Nat) (a : Acc) (d : Bytes) : Block :=
  b.modCtx c fun x => { x with load := x.load.map fun l => l.add a d }

/-- Prepares the lines of a cached access's granules, by physical address and key selector (R309): whether one holds it up. -/
def prepareAll (cached : Bool) : List (Nat × Nat) → Block → Block × Bool
  | [], b => (b, false)
  | (pa, ksel) :: t, b =>
    let lined := cached && isLocalChip b (bitsOf pa 63 48) && !inWindow (pa % 2 ^ 48)
    let r := if lined then prepareGran b (granOf pa) ksel else (b, false)
    let u := prepareAll cached t r.1
    (u.1, r.2 || u.2)

/-- Issues one piece of a flag read, a granule request (R163, R175). -/
def issueFlag (c : Nat) (cached : Bool) (b : Block) (p : (Nat × Nat) × (Nat × Nat)) : Block :=
  issueGran b c cached p.2.1
    (mkAcc (.flag c) false (granOf p.2.1) (p.1.1 % 256) p.1.2 p.1.1 (b.ctx c).vi p.2.2 [] [])

/-- Reads the flag word of `n` bytes at a VA for a context; a miss in the TLBs walks first. -/
def readFlag (b : Block) (c : Nat) (cached : Bool) (va n : Nat) : Block × FlagRead :=
  let b := b.modCtx c fun x => { x with load := some { va := va, len := n, cached := cached } }
  match xlPieces c clsFlag (pieces 3 va n) b with
  | (b, .fail s at_) => (b.modCtx c fun x => { x with load := none }, .failed s at_)
  | (b, .miss at_) => (startWalk b (.flag c at_) (b.ctx c).vi at_, .pending)
  | (b, .ok l) =>
    match prepareAll cached (l.map (·.2)) b with
    | (b, true) => (b.modCtx c fun x => { x with load := none }, .stay)
    | (b, false) => (l.foldl (issueFlag c cached) b, .pending)

/-! ### WAIT (R163-R166) -/

/-- The context waits: its state, what for, and the instruction's timeout. -/
def block (b : Block) (c : Nat) (w : WaitFor) (timeout : Nat) : Block :=
  b.modCtx c fun x => { x with st := .waiting, wait := some w, timeout := timeout, slip := 0 }

/-- The WAIT has completed: on to the next instruction. -/
def wake (b : Block) (c : Nat) : Block :=
  b.modCtx c fun x => { x with st := .running, wait := none, timeout := 0, pc := x.pc + 32 }

/-- Order 1 of R148 for a WAIT (R154): the fields its kind lists. -/
def waitLegal (i : Bytes) : Bool :=
  fieldAt i 1 1 / 4 == 0 && zeros i 22 23 &&
    match fieldAt i 2 1 with
    | 0 => decide (fieldAt i 3 1 < 4) && zeros i 21 21
    | 1 => zeros i 3 3 && zeros i 8 15 && zeros i 17 21 && zeros i 24 31
    | 2 => zeros i 3 3 && zeros i 8 15 && zeros i 18 20 && zeros i 28 31
    | _ => false

/-- Runs a WAIT's kind once its encoding is legal and its predicate agrees. (DEDUCED, log 59) -/
def insWait (k : Block → Ctx → Bytes → Res) (b : Block) (c : Nat) (x : Ctx) (i : Bytes) : Res :=
  if !waitLegal i then .halt b .badOpcode 0
  else if skipped x i then .go (advance b c)
  else k b x i

/-- A flag wait reads its flag once as it begins; it waits while the read is under way. -/
def waitOnFlag (c : Nat) (b : Block) (x : Ctx) (i : Bytes) : Res :=
  match flagElem b x i false with
  | .error s => .halt b s 0
  | .ok (cv, j) =>
    let va := elemVa cv j
    let n := bytesOf cv.type
    let cmp := fieldAt i 3 1
    let v := fieldAt i 24 8
    if flagBlocked x va n then .stay
    else match readFlag b c cv.cached va n with
      | (b, .stay) => .hold b
      | (b, .failed s at_) => .halt b s at_
      | (b, .pending) => .go (block b c (.flag va n cmp v cv.cached) (fieldAt i 4 4))

/-- WAIT of kind 0, and of the reserved kinds, which are BAD_OPCODE. -/
def rowWaitFlag (i : Bytes) : Bool := opIs 0x12 i && fieldAt i 2 1 != 1 && fieldAt i 2 1 != 2

def execWaitFlag (ctx : Nat) (s : State) : Host.Outcome State Fault Refusal :=
  lift (fun _ b => runInstr rowWaitFlag (fun b x i => insWait (waitOnFlag ctx) b ctx x i) ctx b) s

/-- The context gives up the lines it holds that pace none of its instructions under way (R164). -/
def dropPacing (b : Block) (c : Nat) : Block :=
  { b with drq := b.drq.mapVals {} fun l d =>
      if d.pacing = some c && !((b.ctx c).execs.any fun e => e.line == some l) then { d with pacing := none } else d }

/-- The line is the context's: it paces the next data instruction (R164). -/
def takeLineFor (b : Block) (c l : Nat) : Block :=
  let b := dropPacing b c
  (b.setLine l { b.line l with pacing := some c }).modCtx c fun x => { x with paced := some l }

/-- Whether line `l` serves another context. (DESIGN CHOICE, log 5) -/
def lineBusy (b : Block) (c l : Nat) : Bool :=
  match (b.line l).pacing with
  | some d => d != c
  | none => false

def waitOnLine (c : Nat) (b : Block) (_x : Ctx) (i : Bytes) : Res :=
  let l := fieldAt i 16 1
  let q := quadOfCtx c
  if l < 16 * q || 16 * q + 15 < l then .halt b .bounds 0
  else if lineBusy b c l then .go (block b c (.line l) (fieldAt i 4 4))
  else .go (advance (takeLineFor b c l) c)

def execWaitRequestLine (ctx : Nat) (s : State) : Host.Outcome State Fault Refusal :=
  lift (fun _ b => runInstr (fun i => opIs 0x12 i && fieldAt i 2 1 == 1)
    (fun b x i => insWait (waitOnLine ctx) b ctx x i) ctx b) s

/-- One look of a WAIT at the fill of a DIRECT queue (R165): the block with what it consumed and whether the WAIT
completes. (DEDUCED, log 49, 59) -/
def levelStep (b : Block) (c q n high low : Nat) : Block × Bool :=
  let x := b.ctx c
  let isHigh := x.hystQ == some q && x.hystHigh
  let sq := b.sq q
  let go := if isHigh then decide (low ≤ sq.fill) else decide (high ≤ sq.fill)
  if go then
    ((b.setSq q { sq with fill := sq.fill - n, head := (sq.head + n) % sq.size }).setCtx c
      { x with hystQ := some q, hystHigh := true }, true)
  else (b.setCtx c { x with hystQ := some q, hystHigh := false }, false)

/-- (DEDUCED, log 59) -/
def waitOnLevel (c : Nat) (b : Block) (x : Ctx) (i : Bytes) : Res :=
  let q := fieldAt i 16 2
  let n := fieldAt i 21 1
  let high := fieldAt i 24 2
  let low := fieldAt i 26 2
  let sq := b.sq q
  if !sq.usable || !sq.direct || sq.vi ≠ x.vi then .halt b .permission 0
  else if n = 0 || low < n || high < low || sq.size - 1 < high then .halt b .bounds 0
  else match levelStep b c q n high low with
    | (b, true) => .go (advance b c)
    | (b, false) => .go (block b c (.level q n high low) (fieldAt i 4 4))

def execWaitQueueLevel (ctx : Nat) (s : State) : Host.Outcome State Fault Refusal :=
  lift (fun _ b => runInstr (fun i => opIs 0x12 i && fieldAt i 2 1 == 2)
    (fun b x i => insWait (waitOnLevel ctx) b ctx x i) ctx b) s

/-! ### Waking -/

/-- A waiting context that nothing holds up (R160, R176, R178). -/
def canWake (b : Block) (c : Nat) : Bool := canIssue b c && (b.ctx c).st == .waiting

/-- Whether a flag VA lies in the scratchpad window, where it is watched and not polled (R163). -/
def flagWatched (b : Block) (vi va : Nat) : Bool :=
  (pageOf b none vi va).any fun p => isLocalChip b (bitsOf p.1 63 48) && inWindow (p.1 % 2 ^ 48)

/-- Reads a waiting context's flag again, unless its last read is still under way. -/
def pollFlag (b : Block) (c va n : Nat) (cached : Bool) : Block :=
  if (b.ctx c).load.isSome then b
  else match readFlag b c cached va n with
  | (b, .failed s at_) => haltBegin (faultPin b (b.ctx c).vi at_ c s) c s at_
  | (b, _) => b

/-- The predicate a PRED sets (R171). -/
def predOf (cmp w v : Nat) : Bool :=
  match cmp with
  | 0 => w == v
  | 1 => w != v
  | 2 => w &&& v != 0
  | _ => w &&& v == 0

/-- PRED has its word: the predicate is set, the context goes on. -/
def predDone (b : Block) (c cmp w v : Nat) : Block :=
  advance (b.modCtx c fun x => { x with pred := predOf cmp w v, wait := none }) c

/-- Bytes of a context's flag read have come; with the last of them its WAIT looks at the word, or its PRED ends. -/
def flagArrived (b : Block) (c : Nat) (a : Acc) (d : Bytes) : Block :=
  let b := flagGot b c a d
  let x := b.ctx c
  match x.load with
  | none => b
  | some l =>
    if !l.whole then b
    else
      let b := b.setCtx c { x with load := none }
      let w := leNat (l.got.map (·.2))
      match x.wait with
      | some (.flag _ n cmp v _) =>
        if canWake b c && flagCmp cmp n w v then startFetch (wake b c) c else b
      | some (.pred cmp v) => if canIssue b c then startFetch (predDone b c cmp w v) c else b.modCtx c fun x => { x with wait := none }
      | _ => b

/-! ### Walks that end (R280, R285, R289, R291) -/

/-- Issues again the flag read that waited for a walk. -/
def reissueFlag (b : Block) (c : Nat) : Block :=
  match (b.ctx c).load with
  | none => b
  | some l =>
    match readFlag b c l.cached l.va l.len with
    | (b, .failed s at_) => haltBegin (faultPin b (b.ctx c).vi at_ c s) c s at_
    | (b, .stay) => b.modCtx c fun x => { x with wait := match x.wait with
        | some (.pred _ _) => none
        | w => w }
    | (b, .pending) => b

/-- The translation a context waited for has come: its burst asks for a grant again, its fetch or flag read is issued. -/
def walkServes (b : Block) : Waiter → Block
  | .burst _ _ _ => b
  | .fetch c _ => startFetch (b.modCtx c fun x => { x with fetch := none }) c
  | .flag c _ => reissueFlag b c

/-- The walk a context waited for has failed (R280, R281). -/
def walkFails (st : Status) (tries : Nat) (b : Block) : Waiter → Block
  | .burst c seq va => haltBegin b c st va tries (some seq)
  | .fetch c va => failFetch b c st va tries
  | .flag c va => haltBegin (b.modCtx c fun x => { x with load := none }) c st va tries

/-- WALK_COMPLETE of a walk that has found its end: it no longer holds its contexts. A walk of an instance that was reset
meanwhile serves nobody (R287). A leaf fills the TLBs and the pointer cache, and the accesses that waited go on; a
failure halts their contexts and caches nothing (R285, R289). -/
def walkComplete (i : Nat) (b : Block) : Block :=
  match walkAt b i with
  | none => b
  | some w =>
    match w.found with
    | none => b
    | some f =>
      let mine := w.waiters.filter (waitsFor b i)
      let b := mine.foldl (fun b u => setWait b u none)
        { b with xl := { b.xl with walks := b.xl.walks.filter fun v => v.1 != i } }
      let b :=
        if w.discard || w.gen ≠ (b.vinst w.vi).gen then b
        else match f with
          | .leaf leaf lvl =>
            let old := b.xl.ptrs.filter fun p => !w.passed.contains p
            let b : Block := { b with xl := { b.xl with ptrs := ((old ++ w.passed).reverse.take 1024).reverse } }
            let b := tlbFill b ((mine.map fun u => quadOfCtx u.ctx).eraseDups)
              { vi := w.vi, gen := w.gen, va := w.va / 2 ^ leafLog lvl * 2 ^ leafLog lvl, log := leafLog lvl, leaf := leaf }
            mine.foldl walkServes b
          | .fail st =>
            let b := if st == .xlateFault then b
                     else raise b 31 ((mine.head?.map (·.ctx)).getD 0) (status := st) (vi := w.vi)
                       (ctx := (mine.head?.map (·.ctx)).getD 256) (detail := w.va)
            mine.foldl (walkFails st w.tries) b
      nextWalkIn b

def execWalkComplete (walk : Nat) (s : State) : Host.Outcome State Fault Refusal := lift (fun _ b => walkComplete walk b) s

/-- WAIT_SATISFIED: the condition of a waiting context is looked at again (R163-R165, R100). -/
def waitSatisfied (c : Nat) (b : Block) : Block :=
  if !canWake b c then b
  else match (b.ctx c).wait with
    | some (.flag va n _ _ cached) => if flagWatched b (b.ctx c).vi va then pollFlag b c va n cached else b
    | some (.line l) => if lineBusy b c l then b else startFetch (wake (takeLineFor b c l) c) c
    | some (.level q n high low) =>
      match levelStep b c q n high low with
      | (b, true) => startFetch (wake b c) c
      | (b, false) => b
    | some .cqFull =>
      if endStuck b c then b else b.modCtx c fun x => { x with st := .running, wait := none }
    | _ => b

def execWaitSatisfied (ctx : Nat) (s : State) : Host.Outcome State Fault Refusal :=
  lift (fun _ b => waitSatisfied ctx b) s

/-- FLAG_POLL: a flag outside the window is read again. -/
def flagPoll (c : Nat) (b : Block) : Block :=
  if !canWake b c then b
  else match (b.ctx c).wait with
    | some (.flag va n _ _ cached) => if flagWatched b (b.ctx c).vi va then b else pollFlag b c va n cached
    | _ => b

def execFlagPoll (ctx : Nat) (s : State) : Host.Outcome State Fault Refusal := lift (fun _ b => flagPoll ctx b) s

/-- The group whose window holds a waiting context's flag, when it takes part in it (R345, R348). -/
def waitGroup (b : Block) (c : Nat) : Option Nat :=
  let x := b.ctx c
  match x.wait with
  | some (.flag va _ _ _ _) =>
    (pageOf b none x.vi va).bind fun p => (groupOf b (p.1 % 2 ^ 48)).bind fun g =>
      if x.groups.any fun e => e.1 == g then some g else none
  | _ => none

/-- WAIT_TIMEOUT: a WAIT with a timeout halts with TASK_ABORTED (R166); the deadline of a collective is
COLLECTIVE_TIMEOUT's. -/
def waitTimeout (c : Nat) (b : Block) : Block :=
  let x := b.ctx c
  let isWait := match x.wait with
    | some (.flag _ _ _ _ _) => true
    | some (.line _) => true
    | some (.level _ _ _ _) => true
    | _ => false
  if canWake b c && isWait && x.timeout != 0 && (waitGroup b c).isNone then haltBegin b c .taskAborted 0 else b

def execWaitTimeout (ctx : Nat) (s : State) : Host.Outcome State Fault Refusal := lift (fun _ b => waitTimeout ctx b) s

/-- The ports of a group (R342). -/
def portsOfGroup (r : GroupCfg) : List Nat :=
  r.pa.toList ++ r.pb.toList ++ (List.range 8).filter fun p => hasBit r.children p

/-- COLLECTIVE_TIMEOUT (R348): LINK_DOWN when a port of the group is not ready, else TASK_ABORTED. -/
def collectiveTimeout (c : Nat) (b : Block) : Block :=
  if !canWake b c then b
  else match waitGroup b c with
    | none => b
    | some g =>
      match b.setup.groups[g]? with
      | none => b
      | some r =>
        haltBegin b c (if (portsOfGroup r).all fun p => linkReady b p then .taskAborted else .linkDown) 0

def execCollectiveTimeout (ctx : Nat) (s : State) : Host.Outcome State Fault Refusal :=
  lift (fun _ b => collectiveTimeout ctx b) s

/-- Whether a request that waits for a port is a context's, or the Atelier's (256). -/
def portless (b : Block) (c : Nat) (r : RemReq) : Bool := r.acc.owner.source == c && routeTo b r.chip == .notReady

/-- PORT_NOT_READY_TIMEOUT (R89, R330): the requests of a context, or of the Atelier (256), that are held for a port fail with
LINK_DOWN. -/
def portNotReadyTimeout (c : Nat) (b : Block) : Block :=
  let mine := b.held.filter (portless b c)
  let rest := b.held.filter fun r => !portless b c r
  (mine.flatMap fun r => r.acc :: r.also).foldl (fun b a => failAcc b a .linkDown) { b with held := rest }

def execPortNotReadyTimeout (ctx : Nat) (s : State) : Host.Outcome State Fault Refusal :=
  lift (fun _ b => portNotReadyTimeout ctx b) s

/-! ### Writes of a context outside its data instructions -/

/-- Cuts a run of bytes at granule boundaries. -/
def cutGrans : Nat → Nat → Bytes → List (Nat × Bytes)
  | 0, _, _ => []
  | _, _, [] => []
  | n + 1, va, d =>
    let m := min d.length (256 - va % 256)
    (va, d.take m) :: cutGrans n (va + m) (d.drop m)

/-- Issues one granule of a context's write. -/
def issuePiece (c : Nat) (cached : Bool) (rmw : Option Rmw) (b : Block) (p : (Nat × Bytes) × (Nat × Nat)) : Block :=
  let off := p.2.1 % 256
  let a := mkAcc (.signal c) true (granOf p.2.1) off p.1.2.length p.1.1 (b.ctx c).vi p.2.2 (placeIn off p.1.2)
    (maskIn off p.1.2.length)
  issueGran b c cached p.2.1 { a with rmw := rmw }

/-- Translates the pieces of a context's write, up to the first that fails. -/
def xlWrites (c cls : Nat) (rd : Bool) : List (Nat × Bytes) → Block → Block × Except VaErr (List ((Nat × Bytes) × (Nat × Nat)))
  | [], b => (b, .ok [])
  | p :: t, b =>
    match ctxXl b c p.1 { rd := rd, wr := true, cls := cls, len := p.2.length } with
    | (b, .error s) => (b, .error (s, p.1))
    | (b, .ok x) =>
      match xlWrites c cls rd t b with
      | (b, .error e) => (b, .error e)
      | (b, .ok l) => (b, .ok ((p, x) :: l))

/-- A write of bytes at a VA by a context: every piece is translated, and its line prepared, before the first issues. -/
def issueWrite (b : Block) (c cls : Nat) (cached : Bool) (rmw : Option Rmw) (va : Nat) (d : Bytes) : Res :=
  match xlWrites c cls rmw.isSome (cutGrans (d.length + 1) va d) b with
  | (b, .error (s, at_)) => .halt b s at_
  | (b, .ok l) =>
    match prepareAll cached (l.map (·.2)) b with
    | (b, true) => .hold b
    | (b, false) => .go (l.foldl (issuePiece c cached rmw) b)

/-! ### SIGNAL (R167, R168) -/

/-- Order 1 of R148 for a SIGNAL (R154). -/
def signalLegal (i : Bytes) : Bool :=
  fieldAt i 1 1 / 8 == 0 && decide (fieldAt i 2 1 < 3) && decide (fieldAt i 3 1 < 2) && zeros i 4 7 && zeros i 21 23 &&
    (fieldAt i 2 1 != 1 || zeros i 8 15)

/-- Checks 2 to 4 of a SIGNAL and what it will do. (DEDUCED, log 58) -/
def signalAct (b : Block) (x : Ctx) (i : Bytes) : Except Status SigAct :=
  let op1 := fieldAt i 3 1 == 1
  let v := fieldAt i 24 8
  match fieldAt i 2 1 with
  | 0 =>
    match flagElem b x i true with
    | .error s => .error s
    | .ok (cv, j) =>
      let va := elemVa cv j
      let n := bytesOf cv.type
      if op1 && va / 256 ≠ (va + n - 1) / 256 then .error .bounds
      else .ok (.flag va n cv.cached op1 v)
  | 1 =>
    match iterAt x (fieldAt i 20 1) with
    | none => .error .bounds
    | some it =>
      let t := fieldAt i 16 4 + it
      (match trackerAt b t with
        | some k => if k.vi = x.vi then .ok (.tracker t op1 v) else .error .permission
        | none => .error .permission)
  | _ =>
    match checkNamed b x.vi (fieldAt i 8 8) with
    | .error s => .error s
    | .ok n => .ok (.shift n (b.slot n).uses op1 v)

/-- A flag SIGNAL waits while its word overlaps an earlier destination (R299). -/
def actBlocked (x : Ctx) : SigAct → Bool
  | .flag va n _ _ _ => flagBlocked x va n
  | _ => false

/-- Whether a SIGNAL writes a word on another chip: it follows the earlier writes there in issue order (R306). -/
def remoteAct (b : Block) (x : Ctx) (act : SigAct) : Bool :=
  let away := fun (va n cls : Nat) => match translate b x.vi va { rd := false, wr := true, cls := cls, len := n } with
    | .ok (pa, _) => !isLocalChip b (bitsOf pa 63 48)
    | .error _ => false
  match act with
  | .flag va n _ _ _ => away va n clsFlag
  | .tracker t _ _ => (match trackerAt b t with | some k => away k.va 8 clsControl | none => false)
  | .shift _ _ _ _ => false

/-- The tracker table with tracker `t` replaced. (DEDUCED, log 51) -/
def setTracker (b : Block) (t : Nat) (k : Tracker) : Block :=
  { b with rin := { b.rin with trackers := b.rin.trackers.map fun e => if e.1 == t then (t, k) else e } }

/-- The effect of a SIGNAL (R167). A tracker's word is written only when it changes (R107); a shift whose canvas has gone
during the drain is without effect (R140) (DEDUCED, log 96). After TRACKER_ALLOC the count is 0 and no word has been written, so
the first SIGNAL writes it whatever the count (DESIGN CHOICE, log 114). -/
def doSignal (b : Block) (c : Nat) : SigAct → Res
  | .flag va n cached add v =>
    if add then
      issueWrite b c clsFlag cached (some (.addFlag (va % 256) n (v % 2 ^ (8 * n)))) va (natLe n v)
    else issueWrite b c clsFlag cached none va (natLe n v)
  | .tracker t add v =>
    match trackerAt b t with
    | none => .halt b .permission 0
    | some k =>
      let n := if add then (k.count + v) % 2 ^ 32 else v % 2 ^ 32
      if k.told && n = k.count then .go b
      else match issueWrite b c clsControl false none k.va (trackerWord n 0 (b.vinst k.vi).gen) with
        | .go b => .go (setTracker b t { k with count := n, told := true })
        | r => r
  | .shift n uses apply v =>
    if (b.slot n).used && (b.slot n).uses = uses then .go (b.setSlot n (signalShift apply v (b.slot n))) else .go b

/-! ### Draining (R168) -/

/-- The ring a stage writes, by chain and index. -/
def downRing (b : Block) (x : Ctx) : Option (Nat × Nat × Ring) :=
  match x.chain with
  | none => none
  | some (n, i) => ((b.chainAt n).rings[i]?).map fun r => (n, i, r)

/-- The ring a stage reads. -/
def upRing (b : Block) (x : Ctx) : Option (Nat × Nat × Ring) :=
  match x.chain with
  | none => none
  | some (_, 0) => none
  | some (n, i + 1) => ((b.chainAt n).rings[i]?).map fun r => (n, i, r)

/-- Every write acknowledged, every beat transferred, no execution open, and every ring slot written published.
(DEDUCED, log 63) -/
def drained (b : Block) (c : Nat) : Bool :=
  (b.ctx c).execs.isEmpty && (ctxWrites b c).isEmpty && ((downRing b (b.ctx c)).all fun r => r.2.2.cur.isEmpty)

/-- Accesses of a context that a drain waits for: all but its instruction fetch. -/
def drainAccs (b : Block) (c : Nat) : List Acc := (ctxAccs b c).filter fun a => !a.owner.small

/-- Issues the read-back of a destination's last granule. -/
def readback (b : Block) (c : Nat) (e : Nat × Acc) : Block :=
  let a := mkAcc (.readback c) false e.2.gran 0 256 e.2.va e.2.vi e.2.ksel [] []
  if e.1 < 1000 then formAcc b a else remoteAcc b a (e.1 - 1000)

/-- END has drained: the completion, the unbinding, and the end of its stage (R144, R174). With its completion queue
full the context keeps its binding and waits (R100). -/
def endContext (b : Block) (c : Nat) : Block :=
  let x := b.ctx c
  if endStuck b c then b.modCtx c fun x => { x with st := .waiting, wait := some .cqFull }
  else
    let b := unbind (postOwed b c .ok 0) c
    match x.chain with
    | none => b
    | some (n, i) =>
      let ch := b.chainAt n
      let ch := { ch with ended := ch.ended ++ [i] }
      let b := b.setChain n ch
      if ch.ended.length = ch.stages.length then tryFrees ((postChain b n .ok 0).setChain n {}) else b

/-- The drain goes on as far as it can: read-backs once every write is acknowledged, then the FINAL write or the end. -/
def drainStep (c : Nat) (b : Block) : Block :=
  let x := b.ctx c
  match x.drain with
  | none => b
  | some d =>
    if x.halting.isSome || x.aborting || !drained b c || x.st != .running || !viFree b x.vi then b
    else if !d.readbacks && !x.lastW.isEmpty then
      x.lastW.foldl (fun b e => readback b c e)
        (b.setCtx c { x with drain := some { d with readbacks := true } })
    else if !(drainAccs b c).isEmpty then b
    else match d.act with
      | none => endContext b c
      | some act =>
        let b' := b.setCtx c { x with drain := none, lastW := [] }
        (match doSignal b' c act with
          | .go b'' => startFetch (advance b'' c) c
          | .stay => b
          | .hold b'' => b''.modCtx c fun y => { y with drain := x.drain, lastW := x.lastW }
          | .halt _ .held _ => b
          | .halt b'' s va => haltBegin b'' c s va)

def execDrainComplete (ctx : Nat) (s : State) : Host.Outcome State Fault Refusal :=
  lift (fun _ b => if quadUp b (quadOfCtx ctx) then drainStep ctx b else b) s

/-- SIGNAL: at once, or with FINAL after the drain. -/
def insSignal (b : Block) (c : Nat) (x : Ctx) (i : Bytes) : Res :=
  if !signalLegal i then .halt b .badOpcode 0
  else if skipped x i then .go (advance b c)
  else match signalAct b x i with
    | .error s => .halt b s 0
    | .ok act =>
      if bitOf (fieldAt i 1 1) 2 then
        .go (drainStep c (b.setCtx c { x with drain := some { act := some act, readbacks := false } }))
      else if writesHeld x || actBlocked x act || (remoteAct b x act && !x.execs.all fun e => e.dfoot.isNone || allIssued e) then
        .stay
      else match doSignal b c act with
        | .go b => .go (advance b c)
        | r => r

/-- SIGNAL on a flag word; the reserved targets are BAD_OPCODE. -/
def rowSignalFlag (i : Bytes) : Bool := opIs 0x13 i && fieldAt i 2 1 != 1 && fieldAt i 2 1 != 2

def execSignalFlag (ctx : Nat) (s : State) : Host.Outcome State Fault Refusal :=
  lift (fun _ b => runInstr rowSignalFlag (fun b x i => insSignal b ctx x i) ctx b) s

def execSignalTracker (ctx : Nat) (s : State) : Host.Outcome State Fault Refusal :=
  lift (fun _ b => runInstr (fun i => opIs 0x13 i && fieldAt i 2 1 == 1) (fun b x i => insSignal b ctx x i) ctx b) s

def execSignalShift (ctx : Nat) (s : State) : Host.Outcome State Fault Refusal :=
  lift (fun _ b => runInstr (fun i => opIs 0x13 i && fieldAt i 2 1 == 2) (fun b x i => insSignal b ctx x i) ctx b) s

/-- END (R158, R168). -/
def insEnd (b : Block) (c : Nat) (x : Ctx) (i : Bytes) : Res :=
  if !zeros i 1 31 then .halt b .badOpcode 0
  else .go (drainStep c (b.setCtx c { x with drain := some { act := none, readbacks := false } }))

def execEndProgram (ctx : Nat) (s : State) : Host.Outcome State Fault Refusal :=
  lift (fun _ b => runInstr (opIs 0x1F) (fun b x i => insEnd b ctx x i) ctx b) s

/-! ### FENCE (R169, R300) -/

/-- Whether a unit has read everything it needs. -/
def WorkUnit.readDone (u : WorkUnit) : Bool :=
  match u.phase with
  | .writing => true
  | .committed => true
  | .failed => true
  | _ => false

/-- Every read of the executions before number `n` has returned. -/
def readsBack (x : Ctx) (n : Nat) : Bool := (x.execs.filter fun e => decide (e.seq < n)).all fun e => e.units.all WorkUnit.readDone

/-- Every write issued before the fence has been acknowledged. -/
def writesBack (b : Block) (c n : Nat) : Bool :=
  (((b.ctx c).execs.filter fun e => decide (e.seq < n)).all fun e => e.dfoot.isNone) &&
    (ctxWrites b c).all fun a => a.owner.seq.isSome

def fenceHolds (b : Block) (c : Nat) (f : Fence) : Bool :=
  (!(f.rd || f.sc) || readsBack (b.ctx c) f.seq) && (!(f.wr || f.sc) || writesBack b c f.seq)

def insFence (b : Block) (c : Nat) (x : Ctx) (i : Bytes) : Res :=
  let q := fieldAt i 2 1
  if !(zeros i 1 1 && decide (q < 8) && zeros i 3 31) then .halt b .badOpcode 0
  else if x.fence.isSome then .stay
  else
    let f : Fence := { seq := x.nextSeq, rd := bitOf q 0, wr := bitOf q 1, sc := bitOf q 2 }
    if fenceHolds b c f then .go (advance b c)
    else .go (b.setCtx c { x with pc := x.pc + 32, fence := some f })

def execFence (ctx : Nat) (s : State) : Host.Outcome State Fault Refusal :=
  lift (fun _ b => runInstr (opIs 0x14) (fun b x i => insFence b ctx x i) ctx b) s

/-- FENCE_COMPLETE: the qualifiers hold. -/
def fenceComplete (c : Nat) (b : Block) : Block :=
  let x := b.ctx c
  match x.fence with
  | none => b
  | some f => if canIssue b c && fenceHolds b c f then b.setCtx c { x with fence := none } else b

def execFenceComplete (ctx : Nat) (s : State) : Host.Outcome State Fault Refusal :=
  lift (fun _ b => fenceComplete ctx b) s

/-! ### FLUSH (R170, R310, R311) -/

/-- The ranges of local granules a range of VAs maps to, 2 MiB at a time; pages without a leaf are passed over. -/
def flushRanges (b : Block) (vi lo hi : Nat) : List (Nat × Nat) :=
  (List.range (hi / 2 ^ 21 + 1 - lo / 2 ^ 21)).filterMap fun k =>
    let p := lo / 2 ^ 21 + k
    let va0 := max lo (p * 2 ^ 21)
    let va1 := min hi (p * 2 ^ 21 + (2 ^ 21 - 1))
    if vi = 0 then some (va0 / 256, va1 / 256)
    else match (rowLeaf b none 256 vi va0).2 with
      | .error _ => none
      | .ok (leaf, log) =>
        let pa := leafPa leaf log va0
        if isLocalChip b (bitsOf pa 63 48) then some (granOf pa, granOf (pa + (va1 - va0))) else none

/-- Lines within the footprint of a canvas. -/
def linesUnder (b : Block) (vi : Nat) (cv : Canvas) : List (Nat × Line) :=
  let f := cv.footprint
  let rs := flushRanges b vi f.1.toNat f.2.toNat
  b.pal.lines.filter fun e => rs.any fun r => decide (r.1 ≤ e.1) && decide (e.1 ≤ r.2)

/-- Writes a line back for a context's FLUSH. (DEDUCED, log 69) -/
def flushLine (b : Block) (c : Nat) (inv : Bool) (e : Nat × Line) : Block :=
  if e.2.dirty then
    let a := mkAcc (.writeback (some c)) true e.1 0 256 (e.1 * 256) e.2.vi e.2.ksel [] []
    let b := match channelOf b (e.1 * 256) with
      | some ch => noteWrite b c ch a
      | none => b
    startWriteback b e.1 (.writeback (some c)) inv
  else if inv then setLineAt b e.1 none
  else b

/-- FLUSH comes after the earlier executions that write under its canvas: their lines are then dirty (R170, R303).
(DEDUCED, log 69) -/
def flushWaits (x : Ctx) (cv : Canvas) : Bool :=
  x.execs.any fun e => match e.dfoot with
    | some (lo, hi) => decide (lo ≤ cv.footprint.2.toNat) && decide (cv.footprint.1.toNat ≤ hi)
    | none => false

/-- (DEDUCED, log 69) -/
def insFlush (b : Block) (c : Nat) (x : Ctx) (i : Bytes) : Res :=
  let inv := bitOf (fieldAt i 2 1) 0
  if !(fieldAt i 1 1 / 4 == 0 && decide (fieldAt i 2 1 < 2) && zeros i 3 7 && zeros i 16 31) then .halt b .badOpcode 0
  else if skipped x i then .go (advance b c)
  else match checkNamed b x.vi (fieldAt i 8 8) with
    | .error s => .halt b s 0
    | .ok n =>
      let cv := (b.slot n).canvas
      if !cv.cached then .go (advance b c)
      else
        let ls := linesUnder b x.vi cv
        if flushWaits x cv || writesHeld x || ls.any fun e => e.2.writing || e.2.filling then .stay
        else
          let b := if ls.any fun e => e.2.dirty then wakeP2 b else b
          let b := ls.foldl (fun b e => flushLine b c inv e) b
          .go (if flushing b c then b else advance b c)

def execFlush (ctx : Nat) (s : State) : Host.Outcome State Fault Refusal :=
  lift (fun _ b => runInstr (opIs 0x15) (fun b x i => insFlush b ctx x i) ctx b) s

/-! ### PRED (R171) -/

def insPred (b : Block) (c : Nat) (x : Ctx) (i : Bytes) : Res :=
  let cmp := fieldAt i 2 1
  let v := fieldAt i 24 8
  if !(zeros i 1 1 && decide (cmp < 4) && zeros i 3 7 && zeros i 21 23) then .halt b .badOpcode 0
  else match flagElem b x i false with
    | .error s => .halt b s 0
    | .ok (cv, j) =>
      let va := elemVa cv j
      let n := bytesOf cv.type
      if flagBlocked x va n then .stay
      else match readFlag b c cv.cached va n with
        | (b, .stay) => .hold b
        | (b, .failed s at_) => .halt b s at_
        | (b, .pending) => .go (b.modCtx c fun x => { x with wait := some (.pred cmp v) })

def execPred (ctx : Nat) (s : State) : Host.Outcome State Fault Refusal :=
  lift (fun _ b => runInstr (opIs 0x16) (fun b x i => insPred b ctx x i) ctx b) s

/-! ### CHAIN (R173) -/

def setRing (b : Block) (n i : Nat) (r : Ring) : Block :=
  let ch := b.chainAt n
  b.setChain n { ch with rings := setAt ch.rings i r }

/-- eoc on a beat. -/
def OutBeat.end (o : OutBeat) : OutBeat := { o with beat := { o.beat with eoc := true } }

/-- A context's egress beats at ports and on their way there. -/
def beatsOf (b : Block) (c : Nat) : List OutBeat :=
  (b.sports.flatMap (fun p => p.2.out) ++ (ringItems b).filterMap fun i => match i.load with
    | .egress _ o => some o
    | _ => none).filter fun o => o.ctx == c

/-- eoc on the context's last egress beat, at its port or on its way there (R47): the last beat of its latest execution.
(DEDUCED, log 63) -/
def markEoc (b : Block) (c : Nat) : Block :=
  let n := (beatsOf b c).foldl (fun n o => max n o.seq) 0
  let f := fun (o : OutBeat) => if o.ctx = c && o.seq = n && o.last then o.end else o
  { b with
    sports := b.sports.mapVals {} fun _ p => { p with out := p.out.map f }
    ring := b.ring.mapVals [] fun _ l => l.map fun i => match i.load with
      | .egress p o => { i with load := .egress p (f o) }
      | _ => i }

/-- CHAIN publishes the partly filled slot and, with EOC, ends the stage's output, once the writes to the ring before it
have been made; a context without a downstream ring has nothing to publish. (DEDUCED, log 63) -/
def insChain (b : Block) (c : Nat) (x : Ctx) (i : Bytes) : Res :=
  if !(decide (fieldAt i 1 1 < 2) && zeros i 2 31) then .halt b .badOpcode 0
  else if x.execs.any fun e => bitsOf (fieldAt e.ins 2 1) 7 6 == 2 then .stay
  else match downRing b x with
    | none =>
      if !bitOf (fieldAt i 1 1) 0 then .go (advance b c)
      else if x.execs.any fun e => bitsOf (fieldAt e.ins 2 1) 7 6 == 1 && decide (e.outNext < e.outLen) then .stay
      else .go (advance (markEoc b c) c)
    | some (n, k, r) =>
      if !r.cur.isEmpty && r.full.length ≥ r.count then .stay
      else
        let full := if r.cur.isEmpty then r.full else r.full ++ [r.cur]
        .go (advance (setRing b n k { r with full := full, cur := [], eoc := r.eoc || bitOf (fieldAt i 1 1) 0 }) c)

def execChain (ctx : Nat) (s : State) : Host.Outcome State Fault Refusal :=
  lift (fun _ b => runInstr (opIs 0x17) (fun b x i => insChain b ctx x i) ctx b) s

end Sys2Proof.Machine
end

