-- ==== Sys2Proof/Machine/Operands.lean ====
section
/-! DEFINITION. The operand forms of data instructions: their fields (R149, R150), boxes and origins (R156), the two
sides and where an element stands (R141, R157), and the records an instruction reads at its start (R206, R242, R248,
R262). -/

namespace Sys2Proof.Machine

/-! ### Fields (R149) -/

def iOp (i : Bytes) : Nat := fieldAt i 0 1
def iPen (i : Bytes) : Bool := bitOf (fieldAt i 1 1) 0
def iDigest (i : Bytes) : Bool := bitOf (fieldAt i 1 1) 2
def iLock (i : Bytes) : Bool := bitOf (fieldAt i 1 1) 3
def iBoxsrc (i : Bytes) : Bool := bitOf (fieldAt i 1 1) 4
def iTexp (i : Bytes) : Bool := bitOf (fieldAt i 1 1) 5
def iStep (i : Bytes) : Bool := bitOf (fieldAt i 1 1) 6
def iSwap (i : Bytes) : Nat := bitsOf (fieldAt i 2 1) 2 0
def iSkind (i : Bytes) : Nat := bitsOf (fieldAt i 2 1) 5 4
def iDkind (i : Bytes) : Nat := bitsOf (fieldAt i 2 1) 7 6
def iSport (i : Bytes) : Nat := bitsOf (fieldAt i 3 1) 2 0
def iDport (i : Bytes) : Nat := bitsOf (fieldAt i 3 1) 6 4
def iWalkS (i : Bytes) (w : Nat) : Nat := bitsOf (fieldAt i (4 + w) 1) 3 0
def iWalkD (i : Bytes) (w : Nat) : Nat := bitsOf (fieldAt i (4 + w) 1) 7 4
def iSrc (i : Bytes) : Nat := fieldAt i 8 8
def iDst (i : Bytes) : Nat := fieldAt i 16 8
def iOpd (i : Bytes) : Nat := fieldAt i 24 8
/-- REDUCE's mode. -/
def iMode (i : Bytes) : Nat := fieldAt i 24 1
def iCornerA (i : Bytes) : Nat := bitsOf (fieldAt i 24 1) 2 0
def iCornerB (i : Bytes) : Nat := bitsOf (fieldAt i 24 1) 5 3
def iTa (i : Bytes) : Nat := fieldAt i 25 1
def iTb (i : Bytes) : Nat := fieldAt i 26 1

/-- Data opcodes. -/
def opMove : Nat := 1
def opGather : Nat := 2
def opScatter : Nat := 3
def opMaskmove : Nat := 4
def opExpand : Nat := 5
def opAutomorph : Nat := 6
def opRnscast : Nat := 7
def opReduce : Nat := 8
def opCorner : Nat := 9

/-- Opcodes whose operand is a handle. -/
def hasOpd (op : Nat) : Bool := decide (2 ≤ op) && decide (op ≤ 6)

def nibOk (v : Nat) : Bool := decide (v ≤ 4) || v == 15

/-- Order 1 of R148 for a data instruction. -/
def dataLegal (i : Bytes) : Bool :=
  !bitOf (fieldAt i 1 1) 7 && !bitOf (fieldAt i 2 1) 3 && decide (iSwap i ≤ 5) && iSkind i != 3 && iDkind i != 3 &&
    !bitOf (fieldAt i 3 1) 3 && !bitOf (fieldAt i 3 1) 7 && (iSkind i == 1 || iSport i == 0) &&
    (iDkind i == 1 || iDport i == 0) && ((List.range 4).all fun w => nibOk (iWalkS i w) && nibOk (iWalkD i w)) &&
    (if iOp i == opMove || iOp i == opRnscast then iOpd i == 0
     else if iOp i == opReduce then decide (iMode i ≤ 4) && zeros i 25 31
     else if iOp i == opCorner then decide (fieldAt i 24 1 < 64) && zeros i 27 31
     else true)

/-! ### Boxes, origins and sides (R156, R157) -/

/-- Where an instruction's elements come from or go to: canvas, origin, whether it is the box side (moved as a slice),
and its kind (0 memory, 1 stream port, 2 ring). -/
structure Side where
  c : Canvas
  o : List Nat
  slice : Bool
  kind : Nat

def addIdx (a b : List Nat) : List Nat := (List.range 5).map fun d => a.getD d 0 + b.getD d 0

/-- The stored index of box element `x`, none in the halo. -/
def Side.idx (s : Side) (x : List Nat) : Option (List Nat) :=
  if s.slice then (s.c.stored x).map (addIdx s.o) else s.c.stored (addIdx s.o x)

/-- The nibble address of a stored index. -/
def nibAt (c : Canvas) (j : List Nat) : Nat := (2 * (c.base : Int) + c.offNib j).toNat

/-- E(d) of the box side. -/
def boxOf (c : Canvas) : List Nat := (List.range 5).map c.logical

/-- The origin of a side (R156). -/
def originOf (walk : Nat → Nat) (its box : List Nat) : List Nat :=
  (List.range 5).map fun d =>
    (List.range its.length).foldl (fun a w => if walk w = d then a + its.getD w 0 * box.getD d 0 else a) 0

/-- Whether an open loop walks a dimension of a side. -/
def walks (walk : Nat → Nat) (its : List Nat) (d : Nat) : Bool := (List.range its.length).any fun w => walk w == d

/-- Every index of a box, dimension 0 fastest. -/
def boxIdx : List Nat → List (List Nat)
  | [] => [[]]
  | n :: t => (boxIdx t).flatMap fun r => (List.range n).map fun i => i :: r

/-- The batch element and tile group of a stored index of an interleaved canvas. -/
def tileOf (c : Canvas) (j : List Nat) : List Nat :=
  [j.getD 4 0, j.getD 3 0, j.getD 2 0, c.ilvOff (j.getD 1 0) (j.getD 0 0) / (c.th * c.tw * c.ff)]

/-- The nibble address at which a tile group starts. -/
def tileBase (c : Canvas) (t : List Nat) : Nat :=
  (2 * (c.base : Int) + 2 * ((t.getD 2 0 : Int) * c.stride 2 + (t.getD 1 0 : Int) * c.stride 3 +
    (t.getD 0 0 : Int) * c.stride 4) + (nibsOf c.type * (t.getD 3 0 * (c.th * c.tw * c.ff)) : Nat)).toNat

/-- The nibble addresses of a tile group's positions beyond e0 or e1 (R128). -/
def tileFill (c : Canvas) (t : List Nat) : List Nat :=
  let g := t.getD 3 0
  (List.range (c.th * c.tw * c.ff)).filterMap fun p =>
    let f := p % c.ff
    let q := p / c.ff
    let (ti, tj, r, cc) := match c.layout with
      | 2 => let ng := ceilDiv c.nti c.ff; (g % ng * c.ff + f, g / ng, q % c.th, q / c.th)
      | 1 => let ng := ceilDiv c.ntj c.ff; (g / ng, g % ng * c.ff + f, q / c.tw, q % c.tw)
      | _ => (g / c.ntj * c.ff + f, g % c.ntj, q / c.tw, q % c.tw)
    if c.ext 1 ≤ ti * c.th + r || c.ext 0 ≤ tj * c.tw + cc then some (tileBase c t + p * nibsOf c.type) else none

/-- The bytes an element's place stands for in a footprint: its own, or its whole tile group (R161). -/
def spanOf (c : Canvas) (j : List Nat) : Nat × Nat :=
  if isIlv c.layout then
    let a := tileBase c (tileOf c j)
    (a / 2, (a + c.th * c.tw * c.ff * nibsOf c.type - 1) / 2)
  else
    let a := nibAt c j
    (a / 2, (a + nibsOf c.type - 1) / 2)

/-- The range that covers a list of ranges. -/
def hull : List (Nat × Nat) → Option (Nat × Nat)
  | [] => none
  | r :: t =>
    match hull t with
    | none => some r
    | some s => some (min r.1 s.1, max r.2 s.2)

/-- Whether two ranges overlap (R161). -/
def overlap : Option (Nat × Nat) → Option (Nat × Nat) → Bool
  | some (a, b), some (c, d) => decide (a ≤ d) && decide (c ≤ b)
  | _, _ => false

/-! ### Records read at the start of an instruction -/

/-- The modulus entries as an instruction starts, read like the rest of a canvas's bytes; a destroyed table is BAD_HANDLE
(R136, R140). -/
def sampleModuli (b : Block) (c : Nat) (cv : Canvas) : Block × Except VaErr (List Nat) :=
  if !isRes cv.type then (b, .ok [])
  else match modTable b (b.ctx c).vi cv with
    | .ok (some t) =>
      match readCtx b c clsIndex t.cached t.base (8 * cv.ext 1) with
      | (b, got) => (b, moduliOf cv t got)
    | _ => (b, .error (.badHandle, 0))

/-- Reads `n` elements of `w` bytes of a one-dimensional canvas, one by one. -/
def readElems (b : Block) (c : Nat) (cv : Canvas) (w : Nat) : Nat → Nat → Block × Except VaErr (List Nat)
  | 0, _ => (b, .ok [])
  | n + 1, j =>
    match readCtx b c cv.cls cv.cached (elemVa cv j) w with
    | (b, .error e) => (b, .error e)
    | (b, .ok d) =>
      match readElems b c cv w n (j + 1) with
      | (b, .error e) => (b, .error e)
      | (b, .ok l) => (b, .ok (leNat d :: l))

/-- A k-list canvas (R150); one with more than 8 entries is BAD_TYPE. (DESIGN CHOICE, log 114) -/
def klistOk (cv : Canvas) : Bool :=
  cv.cls == clsIndex && cv.type == 4 && cv.layout == 0 && cv.rank == 1 && decide (cv.ext 0 ≤ 8)

/-- The entries of a k-list and their domain (R206). -/
def klistOf (n : Nat) (l : List Nat) : Except Status (List Nat × Nat) :=
  let dom := bitsOf (l.headD 0) 30 30
  if l.all fun e => bitsOf e 17 0 % 2 == 1 && decide (bitsOf e 17 0 ≤ 2 * n - 1) && bitsOf e 29 18 == 0 &&
      bitsOf e 30 30 == dom && bitsOf e 31 31 == 0 then .ok (l.map fun e => bitsOf e 17 0, dom)
  else .error .badType

/-- An index canvas (R242), its number of entries apart. -/
def indexOk (cv : Canvas) : Bool :=
  let w := nibsOf cv.type / 2
  cv.cls == clsIndex && [2, 4, 6].contains cv.type && cv.layout == 0 && decide (cv.rank ≤ 2) &&
    cv.stride 0 == (w : Int) && (cv.rank == 1 || cv.stride 1 == ((w * cv.ext 0 : Nat) : Int))

/-- One entry of an index list: its value, null, or why it cannot be had. -/
inductive Entry where
  | slice (i : Nat)
  | null
  | bad (e : VaErr)
  deriving DecidableEq, Repr

/-- Reads entries `j` to `j + n - 1` of an index list; one that cannot be read fails the units that need it (R247). -/
def readIndex (b : Block) (c : Nat) (cv : Canvas) : Nat → Nat → Block × List Entry
  | 0, _ => (b, [])
  | n + 1, j =>
    let w := nibsOf cv.type / 2
    match readCtx b c cv.cls cv.cached (nibAt cv [j % cv.ext 0, j / cv.ext 0, 0, 0, 0] / 2) w with
    | (b, .error e) =>
      let (b, l) := readIndex b c cv n (j + 1)
      (b, .bad e :: l)
    | (b, .ok d) =>
      let (b, l) := readIndex b c cv n (j + 1)
      (b, (if leNat d = 256 ^ w - 1 then .null else .slice (leNat d)) :: l)

/-- What a bitmap says (R248): mode, fill, log2 block extents, bit words. -/
structure Bitmap where
  mode : Nat
  fill : Nat
  lb : List Nat
  nbits : Nat
  words : List Nat

def bitmapOk (cv : Canvas) : Bool :=
  cv.cls == clsFlag && cv.type == 6 && cv.layout == 0 && cv.rank == 1 && cv.stride 0 == 8

/-- The header of a bitmap (R248); nonzero reserved words 2 and 3 are BAD_OPCODE like the reserved bits of word 0.
(DESIGN CHOICE, log 114) -/
def headerOf (h : List Nat) : Except Status Bitmap :=
  let w := h.getD 0 0
  let mode := bitsOf w 1 0
  let fill := bitsOf w 3 2
  if mode = 3 || 2 ≤ fill || (mode = 1 && fill ≠ 0) || bitsOf w 7 4 ≠ 0 || bitsOf w 63 28 ≠ 0 ||
      h.getD 2 0 ≠ 0 || h.getD 3 0 ≠ 0 then .error .badOpcode
  else .ok { mode := mode, fill := fill, lb := (List.range 5).map fun d => bitsOf w (11 + 4 * d) (8 + 4 * d)
             nbits := h.getD 1 0, words := [] }

/-- Blocks along each dimension of a box (R249). -/
def blocksOf (m : Bitmap) (box : List Nat) : List Nat :=
  (List.range 5).map fun d => ceilDiv (box.getD d 1) (2 ^ m.lb.getD d 0)

/-- Elements of a block. -/
def Bitmap.blockSize (m : Bitmap) : Nat := 2 ^ m.lb.foldl (· + ·) 0

/-- Mixed-radix number of an index, dimension 0 fastest. -/
def flatIdx : List Nat → List Nat → Nat
  | e :: es, i :: is => i + e * flatIdx es is
  | _, _ => 0

def Bitmap.occupied (m : Bitmap) (n : Nat) : Bool := bitOf (m.words.getD (n / 64) 0) (n % 64)

/-- Occupied blocks below bit `n`. -/
def Bitmap.below (m : Bitmap) (n : Nat) : Nat := ((List.range n).filter m.occupied).length

/-- Reads the header of a bitmap (R252). (DEDUCED, log 92) -/
def readHeader (b : Block) (c : Nat) (cv : Canvas) : Block × Except VaErr Bitmap :=
  if cv.ext 0 < 4 then (b, .error (.bounds, 0))
  else match readElems b c cv 8 4 0 with
    | (b, .error e) => (b, .error e)
    | (b, .ok h) =>
      match headerOf h with
      | .error s => (b, .error (s, 0))
      | .ok m => (b, .ok m)

/-- Reads the bit words of a bitmap, each once and in ascending order (R252). -/
def readBitmap (b : Block) (c : Nat) (cv : Canvas) (m : Bitmap) : Block × Except VaErr Bitmap :=
  match readElems b c cv 8 (ceilDiv m.nbits 64) 4 with
  | (b, .error e) => (b, .error e)
  | (b, .ok ws) => (b, .ok { m with words := ws })

/-- The header of a compressed canvas (R262). -/
def swatchHeader (cv : Canvas) (d : Bytes) : Option SwatchHdr :=
  let lr := rawLen cv
  let nblk := ceilDiv lr 4096
  let a := fieldAt d 16 4
  let cb := fieldAt d 4 1
  if fieldAt d 0 4 = 0x53574331 && (cb == 8 || cb == 12) && fieldAt d 5 3 == 0 && fieldAt d 8 8 = lr &&
      decide (nblk ≤ a) && decide (a ≤ 64 * nblk) && allZero (sliceAt d 20 44) then
    some { cbits := cb, lr := lr, area := a }
  else none

/-- Reads and checks the header of a compressed canvas (R262). (DEDUCED, log 71) -/
def readSwHeader (b : Block) (c : Nat) (cv : Canvas) : Block × Except VaErr SwatchHdr :=
  let x := swatchX (rawLen cv)
  match readCtx b c cv.cls cv.cached (cv.base - x - 32832) 64 with
  | (b, .error e) => (b, .error e)
  | (b, .ok d) =>
    match swatchHeader cv d with
    | none => (b, .error (.badType, 0))
    | some h => (b, .ok h)

/-- Reads the index table of a compressed canvas (R260, R261, R263). (DEDUCED, log 71) -/
def readSwatch (b : Block) (c : Nat) (cv : Canvas) (h : SwatchHdr) : Block × Except VaErr SwatchHdr :=
  let x := swatchX (rawLen cv)
  match readCtx b c cv.cls cv.cached (cv.base - x) (4 * ceilDiv h.lr 4096) with
  | (b, .error e) => (b, .error e)
  | (b, .ok t) => (b, .ok { h with index := chunksLe 4 (ceilDiv h.lr 4096) t })

end Sys2Proof.Machine
end

