-- ==== Sys2Proof/Machine/Plan.lean ====
section
/-! DEFINITION. How an execution is laid out: the elements each data instruction moves (R156, R207, R213, R218, R243,
R250, R251), the stages it enables (R153, R224), Easel's mode (R188-R190, R203, R211) and the work units (R180, R204,
R267). -/

namespace Sys2Proof.Machine

/-! ### Grouping -/

/-- Adds a value to its key's group; groups stand in the order of their first member. -/
def addGroup {α : Type} (k : List Nat) (x : α) : List (List Nat × List α) → List (List Nat × List α)
  | [] => [(k, [x])]
  | (j, l) :: t => if j = k then (j, l ++ [x]) :: t else (j, l) :: addGroup k x t

def groupBy {α : Type} (k : α → List Nat) (l : List α) : List (List α) :=
  (l.foldl (fun g x => addGroup (k x) x g) []).map (·.2)

/-- Cuts a list in chunks of `n`. -/
def chunks {α : Type} (n : Nat) : Nat → List α → List (List α)
  | 0, _ => []
  | _, [] => []
  | f + 1, l => l.take n :: chunks n f (l.drop n)

/-! ### Elements -/

/-- An element while its execution is laid out: box index, stored indices, the element, whether it is selected, and
the failure it meets. -/
structure PElem where
  x : List Nat
  sj : Option (List Nat)
  dj : List Nat
  e : UElem
  sel : Bool := true
  bad : Option VaErr := none
  /-- Source places read and discarded with it (R251). -/
  also : List Nat := []

/-- The place of the scale element of a stored index of `v` (R133). -/
def scalePos (v s : Canvas) (j : List Nat) : Nat :=
  nibAt s (setAt j v.grpDim (j.getD v.grpDim 0 / 2 ^ v.grpLog))

/-- The element that goes from box index `sx` of the source to `dx` of the destination. -/
def mkElem (s d : Side) (sc : Option Canvas) (x sx dx : List Nat) : PElem :=
  let sj := s.idx sx
  let dj := (d.idx dx).getD dx
  { x := x, sj := sj, dj := dj
    e := { src := sj.map (nibAt s.c), dst := nibAt d.c dj, slimb := (sj.map (·.getD 1 0)).getD 0, dlimb := dj.getD 1 0
           scale := match sc, sj with
             | some k, some j => some (scalePos s.c k j)
             | _, _ => none } }

/-- A destination that takes the zero encoding. -/
def PElem.zero (p : PElem) : PElem := { p with sj := none, e := { p.e with src := none, scale := none } }

/-- MOVE, CORNER and REDUCE (R156). -/
def elemsMove (s d : Side) (sc : Option Canvas) (box : List Nat) : List PElem :=
  (boxIdx box).map fun x => mkElem s d sc x x x

/-- RNSCAST: source dimension 1 stays at 0 (R217). (DEDUCED, log 65) -/
def elemsRns (s d : Side) (box : List Nat) : List PElem :=
  (boxIdx box).map fun x => mkElem s d none x (setAt x 1 0) x

/-- The indexed dimension (R243). -/
def indexDim (box : List Nat) : Nat := (([4, 3, 2, 1].filter fun d => decide (1 < box.getD d 1)).head?).getD 0

/-- GATHER (R243, R245). -/
def elemsGather (s d : Side) (sc : Option Canvas) (box : List Nat) (g : Nat) (l : List Entry) : List PElem :=
  (boxIdx box).map fun x =>
    match l.getD (x.getD g 0) .null with
    | .null => (mkElem s d sc x x x).zero
    | .bad e => { (mkElem s d sc x x x).zero with bad := some e }
    | .slice i =>
      if s.c.logical g ≤ s.o.getD g 0 + i then { (mkElem s d sc x x x).zero with bad := some (.bounds, 0) }
      else
        let p := mkElem s d sc x (setAt x g i) x
        { p with e := { p.e with occ := x.getD g 0 } }

/-- SCATTER: dropped slices have no element (R243, R245). -/
def elemsScatter (s d : Side) (sc : Option Canvas) (box : List Nat) (g : Nat) (l : List Entry) : List PElem :=
  (boxIdx box).filterMap fun x =>
    match l.getD (x.getD g 0) .null with
    | .null => none
    | .bad e => some { x := x, sj := none, dj := x, e := { src := none, dst := 0 }, bad := some e }
    | .slice i =>
      if d.c.logical g ≤ d.o.getD g 0 + i then
        some { x := x, sj := none, dj := x, e := { src := none, dst := 0 }, bad := some (.bounds, 0) }
      else some (mkElem s d sc x x (setAt x g i))

/-- The block of a box index, and its place within the block (R249, R251). -/
def blockIdx (m : Bitmap) (x : List Nat) : List Nat := (List.range 5).map fun d => x.getD d 0 / 2 ^ m.lb.getD d 0
def inBlock (m : Bitmap) (x : List Nat) : Nat :=
  flatIdx (m.lb.map (2 ^ ·)) ((List.range 5).map fun d => x.getD d 0 % 2 ^ m.lb.getD d 0)

/-- MASKMOVE in MASK mode (R250). -/
def elemsMask (s d : Side) (sc : Option Canvas) (box : List Nat) (m : Bitmap) : List PElem :=
  (boxIdx box).map fun x =>
    let p := mkElem s d sc x x x
    if m.occupied (flatIdx (blocksOf m box) (blockIdx m x)) then p
    else if m.fill = 0 then { p with sel := false }
    else p.zero

/-- MASKMOVE in PACK mode: each occupied block in full, zeros beyond the box (R250, R251). -/
def elemsPack (s d : Side) (sc : Option Canvas) (box : List Nat) (m : Bitmap) : List PElem :=
  let nb := blocksOf m box
  ((boxIdx nb).filter fun k => m.occupied (flatIdx nb k)).flatMap fun k =>
    let r := m.below (flatIdx nb k)
    (boxIdx (m.lb.map (2 ^ ·))).map fun w =>
      let x := (List.range 5).map fun i => k.getD i 0 * 2 ^ m.lb.getD i 0 + w.getD i 0
      let pos := r * m.blockSize + inBlock m x
      let inside := (List.range 5).all fun i => decide (x.getD i 0 < box.getD i 1)
      let p := mkElem s d sc x x [pos, 0, 0, 0, 0]
      let p := if inside then p else p.zero
      if d.c.ext 0 ≤ pos then { p with bad := some (.bounds, 0) } else p

/-- The indices beyond the box edge, in the block of a box element at the edge, that go with it: those whose nearest box
element it is. -/
def beyondOf (m : Bitmap) (box x : List Nat) : List (List Nat) :=
  let ends := (List.range 5).map fun d =>
    let i := x.getD d 0
    if i + 1 = box.getD d 1 then (i / 2 ^ m.lb.getD d 0 + 1) * 2 ^ m.lb.getD d 0 - i else 1
  ((boxIdx ends).map fun w => addIdx x w).filter fun y => y != addIdx x [0, 0, 0, 0, 0]

/-- MASKMOVE in UNPACK mode: the positions of a block beyond the box are read and discarded (R250, R251). -/
def elemsUnpack (s d : Side) (sc : Option Canvas) (box : List Nat) (m : Bitmap) : List PElem :=
  (boxIdx box).map fun x =>
    let n := flatIdx (blocksOf m box) (blockIdx m x)
    if m.occupied n then
      let at_ := fun y => m.below n * m.blockSize + inBlock m y
      let pos := at_ x
      let more := (beyondOf m box x).map at_
      let p := mkElem s d sc x [pos, 0, 0, 0, 0] x
      if (pos :: more).any fun k => decide (s.c.ext 0 ≤ k) then { p.zero with bad := some (.bounds, 0) }
      else { p with also := more.filterMap fun k => (s.idx [k, 0, 0, 0, 0]).map (nibAt s.c) }
    else if m.fill = 0 then { (mkElem s d sc x x x).zero with sel := false }
    else (mkElem s d sc x x x).zero

/-- The odd inverse of `k` modulo a power of two `m`. -/
def inverseOdd (k m : Nat) : Nat := iterate (fun y => y * ((2 * m + 2 - k * y % m) % m) % m) 6 (k % m)

/-- R207. -/
def imageOf (n i k dom : Nat) : Nat × Bool :=
  if dom = 0 then
    let r := i * k % (2 * n)
    if n ≤ r then (r - n, true) else (r, false)
  else
    let ki := inverseOdd k (2 * n)
    ((i * ki + (ki - 1) / 2) % n, false)

/-- AUTOMORPH: image `j` stands at destination dimension-4 origin plus `j` (R151, R207). (DEDUCED, log 65) -/
def elemsAuto (s d : Side) (box ks : List Nat) (dom : Nat) : List PElem :=
  (boxIdx box).flatMap fun x =>
    (List.range ks.length).map fun j =>
      let (i, neg) := imageOf (box.getD 0 1) (x.getD 0 0) (ks.getD j 1) dom
      let p := mkElem s d none x x [i, x.getD 1 0, x.getD 2 0, x.getD 3 0, x.getD 4 0 + j]
      { p with e := { p.e with neg := neg, img := j } }

/-- EXPAND: the source position is that of the residue in Gesso's output, record by record (R213). -/
def elemsExpand (d : Side) (box : List Nat) : List PElem :=
  (boxIdx box).map fun x =>
    let dj := (d.idx x).getD x
    let rec_ := x.getD 2 0 + box.getD 2 1 * (x.getD 3 0 + box.getD 3 1 * x.getD 4 0)
    { x := x, sj := some x, dj := dj
      e := { src := some (rec_ * box.getD 0 1 + x.getD 0 0), dst := nibAt d.c dj, dlimb := dj.getD 1 0 } }

/-- The zero positions of the destination tile groups written, each with the box index of the group's lowest element that
is written (R128). A group of which a MASKMOVE under KEEP writes nothing keeps its zero positions unwritten.
(DESIGN CHOICE, log 113) -/
def fillElems (d : Canvas) (l : List PElem) : List PElem :=
  (groupBy (fun p => tileOf d p.dj) (l.filter (·.sel))).flatMap fun g =>
    match sortBy (·.e.dst) g with
    | [] => []
    | p :: _ => (tileFill d (tileOf d p.dj)).map fun k => { p.zero with e := { src := none, dst := k, fill := true } }

/-- Splits an element that crosses a 2,048-byte address (R159). -/
def splitElem (nibs : Nat) (p : PElem) : List PElem :=
  if p.e.dst / 4096 = (p.e.dst + nibs - 1) / 4096 then [p] else [p, { p with e := { p.e with tail := true } }]

/-- The nibbles an element writes: all, or its part before or after the 2,048-byte address. -/
def UElem.wspan (nibs : Nat) (e : UElem) : Nat × Nat :=
  let cut := (e.dst / 4096 + 1) * 4096
  if e.tail then (cut, e.dst + nibs - cut)
  else (e.dst, min nibs (cut - e.dst))

/-- The rank of each place among places, in nibbles: positions in a stream or ring (R157). (DEDUCED, log 56) -/
def rankPos (nibs : Nat) (keys : List Nat) (k : Nat) : Nat := (keys.filter (· < k)).length * nibs

/-- Distinct values. -/
def distinct (l : List Nat) : List Nat := l.foldr (fun k a => if a.contains k then a else k :: a) []

/-! ### Stages and modes -/

/-- The magnitude by which a dimension steps, in nibbles. -/
def nibStep (c : Canvas) (d : Nat) : Nat :=
  if d = 0 && isNibble c.type then (c.stride 0).natAbs else 2 * (c.stride d).natAbs

/-- The dimensions of a STRIDED side that move, by rising step (R153, R188). (DEDUCED, log 56) -/
def dimOrder (c : Canvas) (box : List Nat) : List Nat :=
  sortBy (nibStep c) ((List.range 5).filter fun d => decide (1 < box.getD d 1) && c.stride d != 0)

/-- The layout a side counts as; Gesso's output is LIMB_MAJOR (R202). -/
def layoutOf (op : Nat) (c : Canvas) : Nat := if op = opExpand then 4 else c.layout

/-- The innermost dimension of a memory side and whether it runs forward (R188). -/
def innermost (lay : Nat) (c : Canvas) (box : List Nat) : Nat × Bool :=
  if lay = 0 then
    match dimOrder c box with
    | d :: _ => (d, decide (0 < c.stride d))
    | [] => (0, true)
  else if lay = 5 then (if 1 < box.getD 1 1 then 1 else 0, true)
  else (0, true)

/-- Whether Tint is enabled (R153). -/
def tintOn (i : Bytes) (s d : Canvas) : Bool :=
  iOp i != opExpand && !(iOp i == opReduce && iMode i == 2) &&
    (s.type != d.type || sideShift s != sideShift d || iTexp i || iOp i == opRnscast || s.link != 0 || d.link != 0)

/-- Tint's path (R224-R227, R233); `eqMods` says that the modulus entries agree. -/
def castOf (i : Bytes) (s d : Canvas) (eqMods : Bool) : Except Status Cast :=
  let op := iOp i
  if op = opRnscast then (if iTexp i then .error .badType else .ok .rns)
  else if iTexp i then
    if s.link != 0 && s.cls == clsPlaintext && d.cls == clsPlaintext && d.type == 9 && d.link == 0 &&
        [opMove, opGather, opScatter, opMaskmove, opCorner].contains op then .ok .expand
    else .error .badType
  else if !tintOn i s d then .ok .bypass
  else if s.cls ≠ d.cls then .error .badType
  else if isRes s.type && isRes d.type then (if eqMods then .ok .container else .error .badType)
  else if s.cls = clsKey then .error .badType
  else if isRes s.type then
    if [1, 3, 5, 7].contains d.type then .ok .lift else .error .badType
  else if isRes d.type then
    if isInt s.type then .ok .modred else .error .badType
  else if s.cls = clsScale then
    if s.type = d.type then .ok .bypass
    else if [10, 8, 9].contains d.type && [0, 1, 10, 8, 9].contains s.type then .ok .scale
    else .error .badType
  else if s.link ≠ 0 || d.link ≠ 0 then
    if s.link ≠ 0 && d.link ≠ 0 && s.grpDim = d.grpDim && s.grpLog = d.grpLog then .ok .plain else .error .badType
  else .ok .plain

/-- How units are formed (R180, R189, R203, R211). -/
inductive Shape where
  | bursts
  | corner (a b ea eb : Nat)
  | tileDst
  | tileSrc
  | column
  | scatter
  deriving DecidableEq, Repr

/-- Whether Easel is enabled (R153). Two interleaved layouts differ when their tags do; tile sizes and factors of one tag
are not compared. (DESIGN CHOICE, log 113) -/
def easelOn (i : Bytes) (s d : Side) (box : List Nat) : Bool :=
  let op := iOp i
  let sl := layoutOf op s.c
  sl != d.c.layout || (op != opExpand && s.c.bmask != 0) || op == opCorner || op == opAutomorph || sl == 6 ||
    (sl == 0 && d.c.layout == 0 && s.kind == 0 && d.kind == 0 && dimOrder s.c box != dimOrder d.c box)

/-- Easel's mode (R189, R190). Where both sides lie outside memory, R188's row for them is circular: a is the innermost
dimension of the source canvas and b that of the destination canvas. (DESIGN CHOICE, log 113) -/
def shapeOf (i : Bytes) (s d : Side) (box : List Nat) : Shape :=
  let op := iOp i
  let sl := layoutOf op s.c
  let dl := d.c.layout
  let nibs := nibsOf d.c.type
  if !easelOn i s d box then .bursts
  else if sl = 6 || dl = 6 then .column
  else if op = opAutomorph then .scatter
  else if op = opCorner then .corner (iCornerA i) (iCornerB i) (2 ^ iTa i) (2 ^ iTb i)
  else if isIlv dl then .tileDst
  else if isIlv sl then .tileSrc
  else
    let a := (if d.kind = 0 then innermost dl d.c box else innermost sl s.c box).1
    let bb := (if s.kind = 0 then innermost sl s.c box else innermost dl d.c box).1
    if a = bb || box.getD a 1 * box.getD bb 1 * nibs ≤ 512 then .bursts
    else
      let ea := min (box.getD a 1) (4096 / nibs)
      .corner a bb ea (min (box.getD bb 1) (pow2floor (65536 / (nibs * ea))))

/-! ### Units -/

/-- Cuts places in order into runs that break at a gap, at a 2,048-byte address and where `blk` changes. -/
def cutRuns {α : Type} (at_ : α → Nat × Nat) (blk : α → Nat) : List α → List (List α)
  | [] => []
  | e :: t =>
    match cutRuns at_ blk t with
    | (f :: g) :: r =>
      if (at_ f).1 = (at_ e).1 + (at_ e).2 && (at_ f).1 % 4096 ≠ 0 && blk e = blk f then (e :: f :: g) :: r
      else [e] :: (f :: g) :: r
    | _ => [[e]]

/-- The raw block of a compressed source an element lies in, plus 1 (R260). -/
def rawBlock (s : Canvas) (e : UElem) : Nat :=
  match s.compressed, e.src with
  | true, some k => (k / 2 - s.base) / 4096 + 1
  | _, _ => 0

/-- The raw block that feeds each place of a compressed source: the element's own; in a halo or at a null index that of
the place it follows without a gap, else of the one it precedes (R267). -/
def feedBlocks (nibs : Nat) (s : Canvas) (l : List PElem) : List PElem :=
  let ends := fun (p : PElem) => let w := p.e.wspan nibs; w.1 + w.2
  let own := (sortBy (fun p => (p.e.wspan nibs).1) l).map fun p => { p with e := { p.e with blk := rawBlock s p.e } }
  let fwd := own.foldl (fun (a : List PElem) p => match a with
    | q :: _ => (if p.e.blk = 0 && ends q = (p.e.wspan nibs).1 then { p with e := { p.e with blk := q.e.blk } } else p) :: a
    | [] => [p]) []
  fwd.foldl (fun (a : List PElem) p => match a with
    | q :: _ => (if p.e.blk = 0 && ends p = (q.e.wspan nibs).1 then { p with e := { p.e with blk := q.e.blk } } else p) :: a
    | [] => [p]) []

/-- The bursts of places, image by image and each image by ascending address (R205); the runs of a scatter unit are those
of all its images together (R211). Where bursts are cut at raw blocks, there too (R159, R267). -/
def burstsBy {α : Type} (joint : Bool) (nibs : Nat) (el : α → UElem) (l : List α) : List (List α) :=
  let cut := fun (l : List α) =>
    cutRuns (fun x => (el x).wspan nibs) (fun x => (el x).blk) (sortBy (fun x => ((el x).wspan nibs).1) l)
  if joint then cut l
  else (sortBy id (distinct (l.map fun x => (el x).img))).flatMap fun j => cut (l.filter fun x => (el x).img == j)

/-- Cuts elements sorted by source place into source bursts (R211). -/
def cutSrc (nibs : Nat) : List PElem → List (List PElem)
  | [] => []
  | e :: t =>
    match cutSrc nibs t with
    | (f :: g) :: r =>
      let a := e.e.src.getD 0
      let b := f.e.src.getD 0
      if a = b || (b = a + nibs && b % 4096 ≠ 0) then (e :: f :: g) :: r else [e] :: (f :: g) :: r
    | _ => [[e]]

/-- The column unit of a box index (R204). -/
def columnKey (op : Nat) (s d : Canvas) (box : List Nat) (x : List Nat) : List Nat :=
  let view := if d.layout = 6 then d else s
  let n1 := 2 ^ bitsOf view.lparam 12 8
  let n2 := 2 ^ bitsOf view.lparam 20 16
  let sz := nibsOf d.type / 2
  let g := if layoutOf op s = 5 then min (box.getD 1 1) (65536 / (n2 * sz)) else 1
  let col := n2 * g * sz
  let w := if 32768 < col then 1 else min n1 (pow2floor (32768 / col))
  [x.getD 4 0, x.getD 3 0, x.getD 2 0, x.getD 1 0 / g, x.getD 0 0 % n1 / w]

/-- The lowest destination place of a group. -/
def lowDst (l : List PElem) : Nat := (l.map (·.e.dst)).foldl min ((l.head?.map (·.e.dst)).getD 0)

/-- Units of burst size. A compressed source takes up to 16 raw blocks to a unit (R267). -/
def burstGroups (op : Nat) (s d : Canvas) (l : List PElem) : List (List PElem) :=
  let nibs := nibsOf d.type
  let at_ := fun (p : PElem) => p.e.wspan nibs
  if s.compressed then
    let l := feedBlocks nibs s (l.filter (·.sel))
    let blks := sortBy id (distinct ((l.map (·.e.blk)).filter (· != 0)))
    let units := (chunks 16 blks.length blks).map fun bs => l.filter fun p => bs.contains p.e.blk
    units ++ cutRuns at_ (fun _ => 0) (l.filter fun p => p.e.blk == 0)
  else if op = opScatter then cutRuns at_ (fun _ => 0) l
  else cutRuns at_ (fun _ => 0) (sortBy (fun p => (at_ p).1) l)

/-- The units of an execution, in order (R176, R180, R190, R204, R211). An element of an interleaved source's halo lies in
no tile group and is a unit of its own; scatter units go by ascending source address. (DESIGN CHOICE, log 113) -/
def unitGroups (op : Nat) (shape : Shape) (s d : Canvas) (box : List Nat) (l : List PElem) : List (List PElem) :=
  match shape with
  | .bursts => burstGroups op s d l
  | .corner a b ea eb =>
    sortBy lowDst (groupBy (fun p => setAt (setAt p.x a (p.x.getD a 0 / ea)) b (p.x.getD b 0 / eb)) l)
  | .tileDst => sortBy lowDst (groupBy (fun p => tileOf d p.dj) l)
  | .tileSrc => sortBy lowDst (groupBy (fun p => match p.sj with | some j => tileOf s j | none => p.x) l)
  | .column => groupBy (fun p => columnKey op s d box p.x) l
  | .scatter => cutSrc (nibsOf s.type) (sortBy (fun p => p.e.src.getD 0) l)

/-- Merges rising byte ranges that touch. -/
def mergeRanges : List (Nat × Nat) → List (Nat × Nat)
  | [] => []
  | (a, n) :: t =>
    match mergeRanges t with
    | (b, m) :: r => if b ≤ a + n then (a, max (a + n) (b + m) - a) :: r else (a, n) :: (b, m) :: r
    | [] => [(a, n)]

/-- Cuts a byte range at 2,048-byte addresses. -/
def cutRange : Nat → Nat → Nat → List (Nat × Nat)
  | 0, _, _ => []
  | _, _, 0 => []
  | f + 1, a, n => let m := min n (2048 - a % 2048); (a, m) :: cutRange f (a + m) (n - m)

/-- The read bursts of byte ranges (R159). -/
def readRuns (cls : Nat) (l : List (Nat × Nat)) : List Run :=
  (mergeRanges (sortBy (·.1) l)).flatMap fun r =>
    (cutRange (r.2 / 2048 + 2) r.1 r.2).map fun p => { va := p.1, len := p.2, cls := cls }

/-- The bytes of a place. -/
def byteRange (nibs k : Nat) : Nat × Nat := (k / 2, ceilDiv (k % 2 + nibs) 2)

/-- Offset, raw flag and stored length of a block, none when it fails R264's checks on the index (R263). (DEDUCED, log 71) -/
def blockStored (h : SwatchHdr) (j : Nat) : Option (Nat × Bool × Nat) :=
  let off := fun k => if k = ceilDiv h.lr 4096 then h.area else h.index.getD k 0 % 2 ^ 31
  let rawf := bitOf (h.index.getD j 0) 31
  let t := min 4096 (h.lr - 4096 * j)
  let c := 64 * ceilDiv t 64
  if off (j + 1) < off j then none
  else
    let len := 64 * (off (j + 1) - off j)
    if rawf then (if len = c then some (off j, true, len) else none)
    else if 64 ≤ len && len + 64 ≤ c then some (off j, false, len) else none

/-- The raw blocks a unit needs, rising. (DEDUCED, log 71) -/
def unitBlocks (s : Canvas) (l : List UElem) : List Nat :=
  sortBy id (distinct (l.filterMap fun e => if rawBlock s e = 0 then none else some (rawBlock s e - 1)))

/-- The source runs of a unit in memory: its stored blocks, or its data, occurrence by occurrence of a GATHER's index
(R159, R246, R269); `also` are places read beside. -/
def dataRuns (s : Canvas) (h : SwatchHdr) (also : List Nat) (l : List UElem) : List Run :=
  if s.compressed then
    (unitBlocks s l).flatMap fun j => match blockStored h j with
      | some (off, _, len) => (cutRange (len / 2048 + 2) (s.base + 64 * off) len).map fun p =>
          ({ va := p.1, len := p.2, cls := s.cls } : Run)
      | none => []
  else
    let occs := sortBy id (distinct (l.map (·.occ)))
    occs.flatMap fun k => readRuns s.cls
      (((l.filter fun e => e.occ == k).filterMap fun e => e.src.map (byteRange (nibsOf s.type))) ++
        (if occs.head? = some k then also.map (byteRange (nibsOf s.type)) else []))

/-- The runs of a unit's scale elements (R234): the bytes stored at their addresses, of a compressed scale canvas too.
(DESIGN CHOICE, log 113) -/
def scaleRuns (sc : Option Canvas) (l : List UElem) : List Run :=
  match sc with
  | none => []
  | some k => readRuns k.cls (l.filterMap fun e => e.scale.map (byteRange (nibsOf k.type)))

/-- The layout of an execution's units from its elements. -/
structure UnitPlan where
  /-- Memory source, stream or ring source, or neither (Gesso). -/
  smem : Bool
  sport : Bool
  dmem : Bool
  /-- Scatter units (R211). -/
  joint : Bool
  s : Canvas
  d : Canvas
  sc : Option Canvas
  sw : SwatchHdr

/-- The source runs of a unit. -/
def unitRuns (p : UnitPlan) (also : List Nat) (es : List UElem) : List Run :=
  (if p.smem then dataRuns p.s p.sw also es else []) ++ scaleRuns p.sc es

/-- One unit (R176: a unit without a destination burst still takes one number); of a stream or ring, a number for every
2,048 bytes of the unit (R194). -/
def mkUnit (p : UnitPlan) (n first : Nat) (l : List PElem) : WorkUnit :=
  let es := (l.filter (·.sel)).map (·.e)
  let nb := if p.dmem then (burstsBy p.joint (nibsOf p.d.type) id es).length
            else ceilDiv (es.length * nibsOf p.d.type) 4096
  let rs := unitRuns p ((l.filter (·.sel)).flatMap (·.also)) es
  { n := n, firstBurst := first, nBursts := max 1 nb, elems := es
    reads := rs, runs := rs
    need := if p.sport then (es.map fun e => match e.src with
      | some k => ceilDiv (k + nibsOf p.s.type) 2 | none => 0).foldl max 0 else 0
    fail := (l.filter (·.sel)).findSome? (·.bad) }

/-- Gives the units of a stream or ring their places: unit after unit, each in the order of its elements' places (R185,
R194). (DEDUCED, log 56) -/
def stackUnits (nibs : Nat) : Nat → List (List PElem) → List (List PElem)
  | _, [] => []
  | k, g :: t =>
    let ks := distinct ((g.filter (·.sel)).map (·.e.dst))
    g.map (fun p => { p with e := { p.e with dst := k + rankPos nibs ks p.e.dst } }) ::
      stackUnits nibs (k + ks.length * nibs) t

def mkUnits (p : UnitPlan) : Nat → Nat → List (List PElem) → List WorkUnit
  | _, _, [] => []
  | n, first, g :: t =>
    let u := mkUnit p n first g
    u :: mkUnits p (n + 1) (first + u.nBursts) t

end Sys2Proof.Machine
end

