-- ==== Sys2Proof/Machine/Swatch.lean ====
section
/-! DEFINITION. Swatch: decoding a stored block (R264) and encoding one (R265). -/

namespace Sys2Proof.Machine

/-- The escape code of a code width (R262). -/
def escapeOf (cbits : Nat) : Nat := 2 ^ cbits - 1

/-- 64-byte units of a raw length, in bytes. -/
def ceil64 (x : Nat) : Nat := 64 * ceilDiv x 64

/-- Decodes `n` vectors from bit `pos` of the stored bits, which number `lim`. -/
def decodeVecs (cbits : Nat) (book : Bytes) (bits lim : Nat) : Nat → Nat → Option Bytes
  | 0, _ => some []
  | n + 1, pos =>
    let c := bits / 2 ^ pos % 2 ^ cbits
    let esc := c == escapeOf cbits
    let vec := if esc then natLe 8 (bits / 2 ^ (pos + cbits) % 2 ^ 64) else sliceAt book (8 * c) 8
    let pos := pos + cbits + (if esc then 64 else 0)
    if lim < pos then none
    else (decodeVecs cbits book bits lim n pos).map (vec ++ ·)

/-- A stored block of raw length `t` (R264): nothing when a check fails. -/
def decodeStored (cbits : Nat) (book : Bytes) (raw : Bool) (t : Nat) (stored : Bytes) : Option Bytes :=
  let len := stored.length
  if raw then (if len = ceil64 t then some (stored.take t) else none)
  else if 64 ≤ len && len + 64 ≤ ceil64 t then
    (decodeVecs cbits book (leNat stored) (8 * len) (ceilDiv t 8) 0).map (·.take t)
  else none

/-- The lowest code whose entry equals a vector. -/
def codeOfVec (cbits : Nat) (book : Bytes) (vec : Bytes) : Option Nat :=
  (List.range (escapeOf cbits)).find? fun c => sliceAt book (8 * c) 8 == vec

/-- The bits of the encoded vectors and their number (R265). -/
def encodeVecs (cbits : Nat) (book : Bytes) : Nat → Bytes → Nat × Nat
  | 0, _ => (0, 0)
  | n + 1, d =>
    let vec := sliceAt d 0 8
    let (v, k) := match codeOfVec cbits book vec with
      | some c => (c, cbits)
      | none => (escapeOf cbits + leNat vec * 2 ^ cbits, cbits + 64)
    let (w, m) := encodeVecs cbits book n (d.drop 8)
    (v + w * 2 ^ k, k + m)

/-- The stored form of a block: raw flag and stored bytes (R265). -/
def encodeStored (cbits : Nat) (book d : Bytes) : Bool × Bytes :=
  let t := d.length
  let (v, k) := encodeVecs cbits book (ceilDiv t 8) d
  let n := ceil64 (ceilDiv k 8)
  if n + 64 ≤ ceil64 t then (false, natLe n v) else (true, sliceAt d 0 (ceil64 t))

end Sys2Proof.Machine
end

