-- ==== Sys2Proof/Machine/Checks.lean ====
section
/-! DEFINITION. The checks of a data instruction as it begins (R148) and the execution they lead to: roles (R150-R153,
R162, R202, R212, R217, R219, R224, R242-R244, R248-R251, R262), bounds (R151, R152, R156, R157) and footprints (R161). -/

namespace Sys2Proof.Machine

/-- The first failure of a list of checks. -/
def firstBad : List (Bool × Status) → Option Status
  | [] => none
  | (ok, s) :: t => if ok then firstBad t else some s

/-- Everything about an instruction that its handles and loops settle. -/
structure Setting where
  i : Bytes
  its : List Nat
  s : Side
  d : Side
  opd : Canvas
  dstSlot : Nat
  dstUses : Nat
  box : List Nat
  scale : Option Canvas
  snum : Nat
  dnum : Nat

/-! ### Handles (order 2) -/

/-- The lowest open stream number of a port for a handle and direction (R108). -/
def streamFor (b : Block) (port h : Nat) (egress : Bool) (vi : Nat) : Option Nat :=
  ((b.sport port).openNos.find? fun e => e.2.egress == egress && e.2.handle == h && e.2.vi == vi).map (·.1)

/-- The port sides' stream numbers; a side that is not open is BAD_HANDLE. (DEDUCED, log 63) -/
def streamSide (b : Block) (kind port h : Nat) (egress : Bool) (vi : Nat) : Except Status Nat :=
  if kind = 1 then
    match streamFor b port h egress vi with
    | some n => .ok n
    | none => .error .badHandle
  else .ok 0

/-- Check 2: handles, links and streams. (DEDUCED, log 63) -/
def setting (b : Block) (vi : Nat) (i : Bytes) (its : List Nat) : Except Status Setting :=
  match checkNamed b vi (iSrc i) with
  | .error e => .error e
  | .ok ns =>
    match checkNamed b vi (iDst i) with
    | .error e => .error e
    | .ok nd =>
      match (if hasOpd (iOp i) then checkNamed b vi (iOpd i) else .ok ns) with
      | .error e => .error e
      | .ok no =>
        let sc := (b.slot ns).canvas
        let dc := (b.slot nd).canvas
        let oc := (b.slot no).canvas
        match linkedScale b vi sc, linkedScale b vi dc, streamSide b (iSkind i) (iSport i) (iSrc i) false vi,
            streamSide b (iDkind i) (iDport i) (iDst i) true vi with
        | .ok scale, .ok _, .ok sn, .ok dn =>
          let bc := if iBoxsrc i then sc else dc
          let box := boxOf bc
          .ok { i := i, its := its, opd := oc, dstSlot := nd, dstUses := (b.slot nd).uses, box := box, scale := scale, snum := sn
                dnum := dn
                s := { c := sc, o := originOf (iWalkS i) its box, slice := iBoxsrc i, kind := iSkind i }
                d := { c := dc, o := originOf (iWalkD i) its box, slice := !iBoxsrc i, kind := iDkind i } }
        | .error e, _, _, _ => .error e
        | _, .error e, _, _ => .error e
        | _, _, .error e, _ => .error e
        | _, _, _, .error e => .error e

/-! ### Roles (order 3) -/

/-- R162. -/
def swapOk (swap : Nat) (c : Canvas) : Bool :=
  let n := nibsOf c.type / 2
  match swap with
  | 0 => true
  | 1 => !isNibble c.type && decide (2 ≤ n)
  | 2 => decide (4 ≤ n)
  | 3 => n == 8
  | 4 => decide (4 ≤ n)
  | _ => n == 8

/-- Whether an instruction is a polynomial move (R202). -/
def isPolyMove (i : Bytes) (s d : Canvas) : Bool :=
  iOp i == opAutomorph || ((iOp i == opMove || iOp i == opExpand) && (s.layout == 6 || d.layout == 6))

def noPads (c : Canvas) : Bool := c.padLo.all (· == 0) && c.padHi.all (· == 0)

/-- The stored limb a box limb stands for on a side, none in the halo (R130, R156). -/
def Side.limb (s : Side) (l : Nat) : Option Nat :=
  let k := if s.slice then l else s.o.getD 1 0 + l
  if s.c.lo 1 ≤ k && k < s.c.lo 1 + s.c.ext 1 then some (k - s.c.lo 1 + (if s.slice then s.o.getD 1 0 else 0)) else none

/-- Modulus entries agree on the limbs of the box that both sides hold (R148). -/
def modsAgree (t : Setting) (sm dm : List Nat) : Bool :=
  (List.range (t.box.getD 1 1)).all fun l =>
    match (t.s.limb l).bind (sm[·]?), (t.d.limb l).bind (dm[·]?) with
    | some p, some q => p == q
    | _, _ => true

/-- Type rules of a polynomial move (R202). -/
def polyRoles (t : Setting) (eqMods : Bool) : Bool :=
  let s := t.s.c
  let d := t.d.c
  if isPolyMove t.i s d then
    let sl := layoutOf (iOp t.i) s
    isPoly sl && isPoly d.layout && (iOp t.i == opExpand || bitsOf s.lparam 4 0 == bitsOf d.lparam 4 0) &&
      (!(sl == 6 && d.layout == 6) || bitsOf s.lparam 12 8 == bitsOf d.lparam 12 8) &&
      noPads s && noPads d && s.bmask == 0 && d.bmask == 0 &&
      (iOp t.i != opAutomorph || (isRes s.type && s.type == d.type && decide (s.cls ≤ 1) && decide (d.cls ≤ 1) && eqMods))
  else s.layout != 6 && d.layout != 6

/-- EXPAND's canvases (R212). -/
def expandRoles (t : Setting) : Bool :=
  let s := t.s.c
  let d := t.d.c
  let o := t.opd
  (d.cls == clsKey || d.cls == clsCiphertext) && isRes d.type && isPoly d.layout &&
    s.cls == clsKey && s.type == 0 && s.layout == 0 && s.ext 0 == 48 && s.ext 1 == 1 && s.stride 0 == 1 && noPads s &&
    s.bmask == 0 && o.cls == clsKey && o.type == 0 && o.layout == 0 && o.ext 0 == 32 && o.ext 1 == 1 && o.stride 0 == 1

/-- RNSCAST's canvases (R217). -/
def rnsRoles (t : Setting) : Bool :=
  let s := t.s.c
  let d := t.d.c
  s.cls == clsPlaintext && s.layout == 0 && [13, 1, 3, 5, 14, 0, 2, 4].contains s.type && s.link == 0 && s.ext 1 == 1 &&
    d.cls == clsPlaintext && isRes d.type

/-- REDUCE's types (R219). -/
def reduceRoles (t : Setting) (eqMods : Bool) : Bool :=
  let s := t.s.c
  let d := t.d.c
  match iMode t.i with
  | 0 => isRes d.type && isRes s.type && eqMods
  | 1 => d.type == 10
  | 2 => d.type == 10 && s.type == 9
  | _ => decide (d.type ≤ 10)

/-- The indexed side of GATHER and SCATTER (R244). -/
def indexedLayout (c : Canvas) : Bool := c.layout == 0 || c.layout == 4 || c.layout == 5

/-- A packed side (R251). -/
def packedOk (s : Side) : Bool :=
  s.kind == 0 && s.c.layout == 0 && s.c.rank == 1 &&
    (if isNibble s.c.type then s.c.stride 0 == 1 else s.c.stride 0 == ((nibsOf s.c.type / 2 : Nat) : Int)) &&
    noPads s.c && s.c.bmask == 0

/-- The role checks that need no record (order 3). -/
def rolesOk (t : Setting) : Bool :=
  let op := iOp t.i
  t.d.c.writable && swapOk (iSwap t.i) t.s.c && !(t.s.c.compressed && t.s.kind != 0) &&
    !(t.d.c.compressed) &&
    (op != opGather || (indexOk t.opd && indexedLayout t.s.c)) &&
    (op != opScatter || (indexOk t.opd && indexedLayout t.d.c)) &&
    (op != opMaskmove || bitmapOk t.opd) && (op != opExpand || expandRoles t) &&
    (op != opAutomorph || klistOk t.opd) && (op != opRnscast || rnsRoles t)

/-! ### Bounds (order 4) -/

/-- Walk bytes of loops that do not enclose the instruction are 0xFF (R156). -/
def walksOk (i : Bytes) (n : Nat) : Bool :=
  (List.range 4).all fun w => decide (w < n) || fieldAt i (4 + w) 1 == 0xFF

/-- The bytes a box side covers after its origin (R157). -/
def movedOk (s : Side) : Bool :=
  let f := s.c.footprint
  let off : Int := s.c.offNib s.o
  let lo := f.1 + off / 2
  let hi := f.2 + (off + 1) / 2
  decide ((s.c.allocBase : Int) ≤ lo) && decide (hi < ((s.c.allocBase + s.c.allocLen : Nat) : Int))

/-- The dimensions whose bound on the other side does not apply (R212, R243, R251). -/
def boundFree (t : Setting) (mode : Nat) (source : Bool) (dim : Nat) : Bool :=
  let op := iOp t.i
  let g := indexDim t.box
  (op == opGather && source && dim == g) || (op == opScatter && !source && dim == g) ||
    (op == opExpand && source && decide (dim < 2)) || (op == opMaskmove && mode == 1 && !source) ||
    (op == opMaskmove && mode == 2 && source)

/-- Origin and box lie within a side that is not the box side (R157). (DEDUCED, log 65) -/
def withinOk (t : Setting) (mode : Nat) (source : Bool) (s : Side) : Bool :=
  (List.range 5).all fun dim =>
    boundFree t mode source dim ||
      (let n := if iOp t.i == opRnscast && source && dim == 1 then 1 else t.box.getD dim 1
       decide (s.o.getD dim 0 + n ≤ s.c.logical dim))

/-- Bounds of a box side with a nonzero origin (R148, R157). (DEDUCED, log 65) -/
def sliceBounds (s : Side) : Bool :=
  s.o.all (· == 0) ||
    (movedOk s && !(s.c.layout != 0 && (s.o.getD 0 0 != 0 || s.o.getD 1 0 != 0)) &&
      !(isRes s.c.type && s.o.getD 1 0 != 0))

/-- Pads and broadcast of a moved box side (R157). -/
def sliceRoles (walk : Nat → Nat) (its : List Nat) (s : Side) : Bool :=
  s.o.all (· == 0) || (List.range 5).all fun d =>
    !walks walk its d || (s.c.lo d == 0 && s.c.hi d == 0 && !hasBit s.c.bmask d)

/-- A port or ring side is not walked (R157). -/
def unwalked (walk : Nat → Nat) (its : List Nat) (s : Side) : Bool :=
  s.kind == 0 || (List.range 5).all fun d => !walks walk its d

/-- CORNER's operand (R152). -/
def cornerOk (t : Setting) : Bool :=
  let bc := if iBoxsrc t.i then t.s.c else t.d.c
  let a := iCornerA t.i
  let bb := iCornerB t.i
  a != bb && decide (a < bc.rank) && decide (bb < bc.rank) && decide (iTa t.i + iTb t.i ≤ 17) &&
    decide (2 ^ (iTa t.i + iTb t.i) * nibsOf t.d.c.type ≤ 2 * 65536)

/-- EXPAND's bounds (R212). -/
def expandBounds (t : Setting) : Bool :=
  !iBoxsrc t.i && t.s.kind == 0 && t.box.getD 0 1 == 2 ^ bitsOf t.d.c.lparam 4 0 && t.d.o.getD 0 0 == 0 &&
    !walks (iWalkS t.i) t.its 0 && !walks (iWalkS t.i) t.its 1 &&
    [2, 3, 4].all fun d => decide (t.s.o.getD d 0 + t.box.getD d 1 ≤ t.s.c.logical d) &&
      decide (t.s.o.getD d 0 < t.opd.logical d)

/-- Bounds of the sides of an instruction that does not depend on its records. (DEDUCED, log 64, 65, 92) -/
def boundsChecks (t : Setting) (mode images : Nat) (bm : Option Bitmap) : Bool :=
  let op := iOp t.i
  let src := iBoxsrc t.i
  let n := 2 ^ bitsOf t.d.c.lparam 4 0
  let boxSide := if src then t.s else t.d
  let g := indexDim t.box
  unwalked (iWalkS t.i) t.its t.s && unwalked (iWalkD t.i) t.its t.d &&
    (if src then withinOk t mode false t.d else withinOk t mode true t.s) && sliceBounds boxSide &&
    (op != opCorner || cornerOk t) && (op != opExpand || expandBounds t) &&
    (op != opRnscast || (!src && !walks (iWalkS t.i) t.its 1)) &&
    (op != opReduce || t.d.kind == 0) &&
    (op != opAutomorph || decide (images ≤ 1) ||
      (t.box.getD 4 1 == 1 && t.d.kind == 0 && (if src then decide (t.d.o.getD 4 0 + images ≤ t.d.c.logical 4)
        else decide (images ≤ t.d.c.logical 4)))) &&
    (!isPolyMove t.i t.s.c t.d.c || (t.box.getD 0 1 == n && t.s.o.getD 0 0 == 0 && t.d.o.getD 0 0 == 0)) &&
    (op != opGather || (!src && t.s.kind == 0 && decide (t.d.o.getD g 0 + t.box.getD g 1 ≤ t.opd.ext 0 * t.opd.ext 1) &&
      decide (t.opd.ext 0 * t.opd.ext 1 ≤ 2 ^ 32) && !walks (iWalkS t.i) t.its g)) &&
    (op != opScatter || (src && t.d.kind == 0 && decide (t.s.o.getD g 0 + t.box.getD g 1 ≤ t.opd.ext 0 * t.opd.ext 1) &&
      decide (t.opd.ext 0 * t.opd.ext 1 ≤ 2 ^ 32) && !walks (iWalkD t.i) t.its g)) &&
    (match bm with
      | none => true
      | some m =>
        decide (4 + ceilDiv m.nbits 64 ≤ t.opd.ext 0) && m.nbits == (blocksOf m t.box).foldl (· * ·) 1 && (m.mode != 1 || src) && (m.mode != 2 || !src) &&
          (m.mode == 0 || (List.range 4).all fun w => fieldAt t.i (4 + w) 1 == 0xFF))

/-! ### The seed records of EXPAND (R213, R215) -/

/-- The seed records of a box in ascending (x4, x3, x2) order. -/
def readSeeds (b : Block) (c : Nat) (t : Setting) : List (List Nat) → Block × Except VaErr (List Bytes)
  | [] => (b, .ok [])
  | x :: xs =>
    let j := (t.s.idx [0, 0, x.getD 0 0, x.getD 1 0, x.getD 2 0]).getD [0, 0, 0, 0, 0]
    match readCtx b c clsKey t.s.c.cached (nibAt t.s.c j / 2) 48 with
    | (b, .error e) => (b, .error e)
    | (b, .ok d) =>
      match readSeeds b c t xs with
      | (b, .error e) => (b, .error e)
      | (b, .ok l) => (b, .ok (d :: l))

/-- The first `n` bytes of a row of a byte canvas of unit step, at its logical indices above dimension 0; bytes in the halo
are zero and are not read (R130). -/
def readRow (b : Block) (c : Nat) (cv : Canvas) (n : Nat) (x : List Nat) : Block × Except VaErr Bytes :=
  let lo := min n (cv.lo 0)
  let m := min (n - lo) (cv.ext 0)
  match cv.stored (lo :: x) with
  | none => (b, .ok (List.replicate n 0))
  | some j =>
    match readCtx b c cv.cls cv.cached (nibAt cv j / 2) m with
    | (b, .error e) => (b, .error e)
    | (b, .ok d) => (b, .ok (sliceAt (List.replicate lo 0 ++ d) 0 n))

/-- Reads the seeds and checks their digest (R215). -/
def checkSeeds (b : Block) (c : Nat) (t : Setting) : Block × Except VaErr (List Bytes) :=
  match readSeeds b c t (boxIdx (t.box.drop 2)) with
  | (b, .error e) => (b, .error e)
  | (b, .ok l) =>
    let o := t.s.o
    match readRow b c t.opd 32 [0, o.getD 2 0, o.getD 3 0, o.getD 4 0] with
    | (b, .error e) => (b, .error e)
    | (b, .ok dg) =>
      if Crypto.sha3_256 l.flatten = dg then (b, .ok l) else (b, .error (.seedDigest, 0))

/-! ### The plan -/

/-- The records an instruction reads at its start, beside its modulus entries. -/
structure Records where
  ks : List Nat := []
  dom : Nat := 0
  bm : Option Bitmap := none
  sw : SwatchHdr := {}
  index : List Entry := []
  seeds : List Bytes := []

/-- Reads the k-list and the bitmap's or Swatch header (R206, R252, R262). -/
def readRecords (b : Block) (c : Nat) (t : Setting) : Block × Except VaErr Records :=
  let op := iOp t.i
  if op = opAutomorph then
    match readElems b c t.opd 4 (t.opd.ext 0) 0 with
    | (b, .error e) => (b, .error e)
    | (b, .ok l) =>
      match klistOf (2 ^ bitsOf t.d.c.lparam 4 0) l with
      | .error s => (b, .error (s, 0))
      | .ok (ks, dom) => (b, .ok { ks := ks, dom := dom })
  else
    match (if op = opMaskmove then
            (match readHeader b c t.opd with
              | (b, .error e) => (b, .error e)
              | (b, .ok m) => (b, .ok (some m))) else (b, .ok none) : Block × Except VaErr (Option Bitmap)) with
    | (b, .error e) => (b, .error e)
    | (b, .ok bm) =>
      if t.s.c.compressed then
        match readSwHeader b c t.s.c with
        | (b, .error e) => (b, .error e)
        | (b, .ok h) => (b, .ok { bm := bm, sw := h })
      else (b, .ok { bm := bm })

/-- Reads what the units need beside their data, once the checks have passed: index entries (R247), bit words (R252), the
index table of a compressed source (R263). (DEDUCED, log 92) -/
def readTables (b : Block) (c : Nat) (t : Setting) (r : Records) : Block × Except VaErr Records :=
  let op := iOp t.i
  let g := indexDim t.box
  let (b, idx) :=
    if op = opGather then readIndex b c t.opd (t.box.getD g 1) (t.d.o.getD g 0)
    else if op = opScatter then readIndex b c t.opd (t.box.getD g 1) (t.s.o.getD g 0)
    else (b, [])
  if idx.any fun e => match e with | .bad (.held, _) => true | _ => false then (b, .error (.held, 0))
  else
    let words : Block × Except VaErr (Option Bitmap) := match r.bm with
      | none => (b, .ok none)
      | some m => match readBitmap b c t.opd m with
        | (b, .error e) => (b, .error e)
        | (b, .ok m) => (b, .ok (some m))
    match words with
    | (b, .error e) => (b, .error e)
    | (b, .ok bm) =>
      if t.s.c.compressed then
        match readSwatch b c t.s.c r.sw with
        | (b, .error e) => (b, .error e)
        | (b, .ok h) => (b, .ok { r with bm := bm, sw := h, index := idx })
      else (b, .ok { r with bm := bm, index := idx })

/-- The elements of an execution. -/
def elemsOf (t : Setting) (r : Records) (sc : Option Canvas) : List PElem :=
  let op := iOp t.i
  let g := indexDim t.box
  if op = opGather then elemsGather t.s t.d sc t.box g r.index
  else if op = opScatter then elemsScatter t.s t.d sc t.box g r.index
  else if op = opExpand then elemsExpand t.d t.box
  else if op = opAutomorph then elemsAuto t.s t.d t.box r.ks r.dom
  else if op = opRnscast then elemsRns t.s t.d t.box
  else match op, r.bm with
    | 4, some m =>
      if m.mode = 0 then elemsMask t.s t.d sc t.box m
      else if m.mode = 1 then elemsPack t.s t.d sc t.box m
      else elemsUnpack t.s t.d sc t.box m
    | _, _ => elemsMove t.s t.d sc t.box

/-- The execution footprint of each side (R161). -/
def footOf (s : Side) (l : List (List Nat)) : Option (Nat × Nat) :=
  if s.kind ≠ 0 then none else hull (l.map (spanOf s.c))

/-- All places of the source stream: those of the elements that are read and, of an interleaved canvas, the whole tile groups' (R128). -/
def srcKeys (s : Canvas) (l : List PElem) : List Nat :=
  let ks := (l.filter (·.sel)).filterMap fun p => p.e.src
  let fill := if isIlv s.layout then
      (groupBy id (l.filterMap fun p => p.sj.map (tileOf s))).flatMap fun g => tileFill s (g.headD [])
    else []
  distinct (ks ++ fill)

/-- The ends of the tiles of a destination stream, in bytes: of its tile groups, else of the execution (R47).
(DEDUCED, log 56) -/
def tileEndsOf (d : Canvas) (len : Nat) : List Nat :=
  if isIlv d.layout then
    let t := d.th * d.tw * d.ff * nibsOf d.type / 2
    (List.range (len / max t 1)).map fun k => (k + 1) * t
  else [len]

/-- Lays an execution out from its checked setting. -/
def layOut (t : Setting) (r : Records) (cast : Cast) (sm dm : List Nat) (seq pcA : Nat) : Exec :=
  let op := iOp t.i
  let sn := nibsOf t.s.c.type
  let dn := nibsOf t.d.c.type
  let sc := if cast = .expand then t.scale else none
  let els := elemsOf t r sc
  let sf := footOf t.s (els.filterMap (·.sj))
  let df := footOf t.d ((els.filter fun p => p.bad.isNone).map (·.dj))
  let els := if isIlv t.d.c.layout && op != opReduce then els ++ fillElems t.d.c els else els
  let sk := srcKeys t.s.c els
  let dk := distinct ((els.filter (·.sel)).map (·.e.dst))
  let race := op == opScatter && decide (dk.length < els.length)
  let els := els.map fun p => { p with e := { p.e with
    src := if t.s.kind = 0 || op = opExpand then p.e.src else p.e.src.map (rankPos sn sk)
    dst := if t.d.kind = 0 then p.e.dst else rankPos dn dk p.e.dst } }
  let els := if op = opReduce || t.d.kind != 0 then els else els.flatMap (splitElem dn)
  let shape := shapeOf t.i t.s t.d t.box
  let plan : UnitPlan := { smem := t.s.kind == 0 && op != opExpand, sport := t.s.kind != 0, dmem := t.d.kind == 0
                           joint := shape == .scatter
                           s := t.s.c, d := t.d.c, sc := sc, sw := r.sw }
  let groups := unitGroups op shape t.s.c t.d.c t.box els
  let outLen := if t.d.kind = 0 then 0 else ceilDiv (dk.length * dn) 2
  { seq := seq, pcA := pcA, ins := t.i, its := t.its, src := t.s.c, dst := t.d.c, dstSlot := t.dstSlot
    dstUses := t.dstUses, cast := cast
    scale := sc, smods := sm, dmods := dm, seeds := r.seeds, swatch := r.sw, closed := shape != .scatter
    race := race
    units := mkUnits plan 0 0 (if t.d.kind = 0 then groups else stackUnits dn 0 groups)
    sfoot := if op = opExpand then footOf t.s ((boxIdx (t.box.drop 2)).flatMap fun x =>
        (match t.s.idx [0, 0, x.getD 0 0, x.getD 1 0, x.getD 2 0] with
          | some j => [j, setAt j 0 47] | none => [])) else sf
    dfoot := df, snum := t.snum, dnum := t.dnum
    slen := if t.s.kind = 0 then 0 else ceilDiv (sk.length * sn) 2
    out := if t.d.kind != 0 && dk.length * dn % 2 == 1 then [(dk.length * dn, 0)] else []
    outLen := outLen, tileEnds := if t.d.kind = 0 then [] else tileEndsOf t.d.c outLen }

/-- The modulus entries of both sides. -/
def sampleBoth (b : Block) (c : Nat) (t : Setting) : Block × Except VaErr (List Nat × List Nat) :=
  match sampleModuli b c t.s.c with
  | (b, .error e) => (b, .error e)
  | (b, .ok sm) =>
    match sampleModuli b c t.d.c with
    | (b, .error e) => (b, .error e)
    | (b, .ok dm) => (b, .ok (sm, dm))

/-- What the checks of an instruction settle. -/
structure Checked where
  t : Setting
  sm : List Nat
  dm : List Nat
  cast : Cast
  r : Records

/-- Orders 2 to 4 of R148 and the records they need, in the order of the checks. -/
def checkExec (b : Block) (c : Nat) (i : Bytes) (its : List Nat) : Block × Except VaErr Checked :=
  let x := b.ctx c
  let op := iOp i
  match setting b x.vi i its with
  | .error s => (b, .error (s, 0))
  | .ok t =>
    if !rolesOk t then (b, .error (.badType, 0))
    else match sampleBoth b c t with
      | (b, .error e) => (b, .error e)
      | (b, .ok (sm, dm)) =>
        let eq := modsAgree t sm dm
        match castOf i t.s.c t.d.c eq with
        | .error s => (b, .error (s, 0))
        | .ok cast =>
          if !polyRoles t eq || (op == opReduce && !reduceRoles t eq) ||
              !(if iBoxsrc i then sliceRoles (iWalkS i) its t.s else sliceRoles (iWalkD i) its t.d) then
            (b, .error (.badType, 0))
          else match readRecords b c t with
            | (b, .error e) => (b, .error e)
            | (b, .ok r) =>
              let mode := match r.bm with | some m => m.mode | none => 0
              let packed := match mode with | 1 => packedOk t.d | 2 => packedOk t.s | _ => true
              let rings := (t.s.kind != 2 || (upRing b x).isSome) && (t.d.kind != 2 || (downRing b x).isSome)
              if !packed then (b, .error (.badType, 0))
              else if !walksOk i its.length || !rings || !boundsChecks t mode r.ks.length r.bm then
                (b, .error (.bounds, 0))
              else (b, .ok { t := t, sm := sm, dm := dm, cast := cast, r := r })

/-- An instruction's checks, the tables it reads at its start, and its execution (R148, R215). -/
def planExec (b : Block) (c : Nat) (i : Bytes) (its : List Nat) (seq pcA : Nat) : Block × Except VaErr Exec :=
  match checkExec b c i its with
  | (b, .error e) => (b, .error e)
  | (b, .ok k) =>
    match readTables b c k.t k.r with
    | (b, .error e) => (b, .error e)
    | (b, .ok r) =>
      let e := layOut k.t r k.cast k.sm k.dm seq pcA
      if isPolyMove i k.t.s.c k.t.d.c && overlap e.sfoot e.dfoot then (b, .error (.bounds, 0))
      else match (if iOp i = opExpand then checkSeeds b c k.t else (b, .ok [])) with
        | (b, .error e) => (b, .error e)
        | (b, .ok seeds) => (b, .ok { e with seeds := seeds })

/-! ### The rows (R148-R150) -/

/-- The footprint waits of R161: an earlier execution's destination under either side, or its source under the
destination. -/
def footBlocked (x : Ctx) (e : Exec) : Bool :=
  x.execs.any fun f =>
    f.seq != e.seq && (overlap e.sfoot f.dfoot || overlap e.dfoot f.dfoot || overlap e.dfoot f.sfoot)

/-- A STEP execution ends a step of its destination canvas when its last unit has committed (R238). -/
def stepEnd (b : Block) (e : Exec) : Block :=
  let x := b.slot e.dstSlot
  if iStep e.ins && x.used && x.uses == e.dstUses then
    b.setSlot e.dstSlot { x with stats := endStep x.canvas x.stats }
  else b

/-- Executions a context may have open. -/
def execLimit : Nat := 16

/-- A data instruction begins: checked, laid out, its units wait for lanes. The request line a WAIT took paces it
(R164). One that moves nothing ends at once. -/
def insData (b : Block) (c : Nat) (x : Ctx) (i : Bytes) : Res :=
  if !dataLegal i then .halt b .badOpcode 0
  else if skipped x i then .go (advance b c)
  else if x.execs.length ≥ execLimit then .stay
  else match planExec b c i (x.loops.map (·.it)) x.nextSeq x.pc with
    | (b, .error (s, va)) => .halt b s va
    | (b', .ok e) =>
      if footBlocked x e then .stay
      else
        let x' := b'.ctx c
        let b' := b'.setCtx c { x' with pc := x.pc + 32, nextSeq := x.nextSeq + 1, paced := none
                                        execs := if e.units.isEmpty then x'.execs
                                                 else x'.execs ++ [{ e with line := x.paced, lefts := x.loops.map (·.left) }] }
        .go (if e.units.isEmpty then stepEnd (dropPacing b' c) e else b')

def runData (op : Nat) (c : Nat) : AO → Block → Block := fun _ b => runInstr (opIs op) (fun b x i => insData b c x i) c b

def execMove (ctx : Nat) (s : State) : Host.Outcome State Fault Refusal := lift (runData 1 ctx) s
def execGather (ctx : Nat) (s : State) : Host.Outcome State Fault Refusal := lift (runData 2 ctx) s
def execScatter (ctx : Nat) (s : State) : Host.Outcome State Fault Refusal := lift (runData 3 ctx) s
def execMaskmove (ctx : Nat) (s : State) : Host.Outcome State Fault Refusal := lift (runData 4 ctx) s
def execExpand (ctx : Nat) (s : State) : Host.Outcome State Fault Refusal := lift (runData 5 ctx) s
def execAutomorph (ctx : Nat) (s : State) : Host.Outcome State Fault Refusal := lift (runData 6 ctx) s
def execRnscast (ctx : Nat) (s : State) : Host.Outcome State Fault Refusal := lift (runData 7 ctx) s
def execReduce (ctx : Nat) (s : State) : Host.Outcome State Fault Refusal := lift (runData 8 ctx) s
def execCorner (ctx : Nat) (s : State) : Host.Outcome State Fault Refusal := lift (runData 9 ctx) s

/-! ### CONTEXT_RESUME (R177) -/

/-- A unit met a bad index entry (R245): resumed, it reads its entry again. -/
def badEntry (e : Exec) : Bool :=
  (iOp e.ins == opGather || iOp e.ins == opScatter) && e.units.any fun u => u.phase != .committed && u.fail.isSome

/-- The units of a resumed execution: those that have committed stay as they are. -/
def keepDone (old new : List WorkUnit) : List WorkUnit :=
  new.map fun u => (old.find? fun v => v.n == u.n && v.phase == .committed).getD u

/-- A unit of a compressed source that is to be read again reads the blocks of the index table as it now stands (R263,
R268). -/
def rerun (e : Exec) (u : WorkUnit) : WorkUnit :=
  if u.phase == .committed then u
  else
    let rs := dataRuns e.src e.swatch [] u.elems ++ scaleRuns e.scale u.elems
    { u with reads := rs, runs := rs }

/-- Checks a stopped execution again (R148, R177) and lets it go on with what it sampled at its start (R187): an EXPAND
reads its seeds and checks their digest again (R215), a bad index entry is read again (R245), a compressed source's header,
index table and codebook are loaded again (R268), a bitmap's words are not read again (R252). Units that have committed
stay, the others are to be read in full. (DEDUCED, log 61) -/
def recheck (b : Block) (c : Nat) (e : Exec) : Block × Except VaErr Exec :=
  match checkExec b c e.ins e.its with
  | (b, .error f) => (b, .error f)
  | (b, .ok k) =>
    let e := { e with stopped := false, badBursts := [], snum := k.t.snum, dnum := k.t.dnum }
    if iOp e.ins = opExpand then
      match checkSeeds b c k.t with
      | (b, .error f) => (b, .error f)
      | (b, .ok seeds) => (b, .ok { e with seeds := seeds, streams := [] })
    else if badEntry e then
      match readTables b c k.t k.r with
      | (b, .error f) => (b, .error f)
      | (b, .ok r) =>
        (b, .ok { e with units := keepDone e.units (layOut k.t r e.cast e.smods e.dmods e.seq e.pcA).units
                         swatch := { r.sw with codebook := [] } })
    else if e.src.compressed then
      match readSwatch b c k.t.s.c k.r.sw with
      | (b, .error f) => (b, .error f)
      | (b, .ok h) =>
        let e := { e with swatch := { h with codebook := [] } }
        (b, .ok { e with units := e.units.map (rerun e) })
    else (b, .ok e)

/-- The first stopped execution of a running context goes on, once those before it have ended; a failing check halts the
context again (R177). -/
def resumeNext (b : Block) (c : Nat) : Block :=
  match (b.ctx c).execs with
  | [] => b
  | e :: t =>
    if !e.stopped || !canIssue b c then b
    else match recheck b c e with
      | (b, .error (.held, va)) => pursue b c (b.ctx c).vi va
      | (b, .error (s, va)) => haltBegin (recForget b c) c s va 0 (some e.seq)
      | (b, .ok e) => (recForget b c).modCtx c fun x => { x with execs := e :: t }

/-- Executions with a unit left to commit. -/
def unfinished (l : List Exec) : List Exec := l.filter fun e => e.units.any fun u => u.phase != .committed

def cmdContextResume : Cmd := fun _ b c r =>
  let t := cmdTarget c
  guarded b (check b c r .any (ctxTarget b r.vi t) (b.ctx t).epoch [] ((b.ctx t).st == .halted))
    (let x := b.ctx t
     let b := wakeP2 (b.setCtx t
       { x with st := .running, owed := some r, owedResult := false, ibuf := [], execs := unfinished x.execs
                haltSeq := none, haltStatus := 0, haltRetries := 0, faultVa := 0, resume := 0, mask := 0 })
     (startFetch (resumeNext b t) t, .later))

def execContextResume (src : CmdSrc) (s : State) : Host.Outcome State Fault Refusal :=
  lift (serveRow 0x32 cmdContextResume src) s

end Sys2Proof.Machine
end

