-- ==== Sys2Proof/Machine/Arb.lean ====
section
/-! DEFINITION. The weighted-credit rule of every arbitration point (R356-R361, R463), and the channel arbiters with
their budgets (R363, R364). -/

namespace Sys2Proof.Machine

/-! ### Points -/

/-- A requester's entry at a point: set to its weight when it first requests there (R357). -/
def Arb.entry (a : Arb) (w : Nat → Nat) (r : Nat) : ArbReq :=
  let e := a.reqs.get {} r
  if e.bound then e else { bound := true, ctr := w r }

/-- R358 without locks: marked ones first, then the fullest counter, then the first after the one last granted. -/
def Arb.choose (a : Arb) (w : Nat → Nat) (waiting : List Nat) : Option Nat :=
  let marked := waiting.filter fun r => (a.entry w r).marked
  let pool := if marked.isEmpty then waiting else marked
  match pool with
  | [] => none
  | r :: _ =>
    let top := pool.foldl (fun m r => max m (a.entry w r).ctr) (a.entry w r).ctr
    let tied := sortBy id (pool.filter fun r => (a.entry w r).ctr == top)
    match tied.find? fun r => decide (a.next ≤ r) with
    | some r => some r
    | none => tied.head?

/-- A requester that has stopped waiting loses its mark (R361). -/
def Arb.unmark (a : Arb) (waiting : List Nat) : Arb :=
  { a with reqs := a.reqs.keys.foldl (fun t r => t.upd {} r fun e => { e with marked := e.marked && waiting.contains r }) a.reqs }

/-- Who takes a slot of a path `p` of a context arbiter: a locked sequence goes on while its owner waits, otherwise R358
decides. The second slot of a cycle goes to another requester than the first, where one waits (R194, R359). -/
def Arb.pick (a p : Arb) (w : Nat → Nat) (waiting : List Nat) : Option Nat :=
  let others := waiting.filter fun r => p.prev != some r
  if p.prev.isSome && !others.isEmpty then a.choose w others
  else match p.lock with
    | some (o, _) => if waiting.contains o then some o else a.choose w waiting
    | none => a.choose w waiting

/-- The slots of a path after a grant to `r`: it was the second of its cycle, or is the first of one. -/
def Arb.slot (p : Arb) (waiting : List Nat) (r : Nat) : Arb :=
  { p with prev := if p.prev.isSome && waiting.any (fun x => p.prev != some x) then none else some r }

/-- A grant costs 1 and clears the mark (R357, R361). -/
def Arb.charge (a : Arb) (w : Nat → Nat) (r : Nat) : Arb :=
  let e := a.entry w r
  { a with reqs := a.reqs.put {} r { e with ctr := max (e.ctr - 1) (-32768), marked := false, granted := true }
           next := r + 1 }

/-- The lock after a grant to `r` (R359): a sequence of up to 16 of an instruction with LOCK that has more to issue. -/
def Arb.relock (a : Arb) (r : Nat) (locked more : Bool) : Arb :=
  let n := match a.lock with
    | some (o, n) => if o = r then n + 1 else 1
    | none => 1
  let mine := match a.lock with
    | some (o, _) => o == r
    | none => true
  if locked && more && n < 16 && mine then { a with lock := some (r, n) }
  else match a.lock with
    | some (o, m) => if o = r then { a with lock := none } else { a with lock := some (o, m) }
    | none => { a with lock := none }

/-- A window boundary at a point (R357, R361): counters refill; a requester waiting and not granted since the last
boundary is marked. -/
def Arb.boundary (a : Arb) (w : Nat → Nat) (waiting : List Nat) : Arb :=
  let keys := sortBy id (a.reqs.keys ++ waiting.filter fun r => !(a.reqs.keys.contains r))
  { a with
    beats := 0
    reqs := keys.foldl (fun t r =>
      let e := a.entry w r
      t.put {} r { e with ctr := min (e.ctr + w r) (2 * w r), granted := false
                          marked := waiting.contains r && (e.marked || !e.granted) }) [] }

/-! ### Memory channels -/

/-- B of R364 by thermal state. -/
def budgetOf (t : BitVec 2) : Nat := match t.toNat with | 0 => 2048 | 1 => 1536 | 2 => 1024 | _ => 0

/-- The classes of R363: 0 READ, 1 WRITE, 2 REMOTE. -/
def classOf (a : Acc) (write : Bool) : Nat := if a.remoteClass then 2 else b2n write

def Chan.tok (c : Chan) (k : Nat) : Nat := match k with | 0 => c.tokR | 1 => c.tokW | _ => c.tokX

def Chan.spend (c : Chan) (k : Nat) : Chan :=
  match k with
  | 0 => { c with tokR := c.tokR - 1 }
  | 1 => { c with tokW := c.tokW - 1 }
  | _ => { c with tokX := c.tokX - 1 }

/-- Tokens of a new window (R363). -/
def Chan.refill (c : Chan) (pct : List Nat) : Chan :=
  let n := budgetOf c.therm
  { c with budget := n, used := 0, tokR := pct.getD 0 0 * n / 100, tokW := pct.getD 1 0 * n / 100
           tokX := pct.getD 2 0 * n / 100 }

/-- The lowest tag of the negotiated range neither outstanding nor quarantined (R39). A tag that a RETRY or ERROR has released
is withheld while its request waits to be reissued under it (R41). (DESIGN CHOICE, log 99) -/
def Chan.freeTag (c : Chan) (write : Bool) : Option Nat :=
  let used := if write then c.wtags.map (·.1) ++ c.wquar ++ c.wwait.filterMap (·.tag)
    else c.rtags.map (·.1) ++ c.rquar ++ c.rwait.filterMap (·.tag)
  let max_ := match c.mode with | some m => m.tagMax | none => 63
  (List.range (max_ + 1)).find? fun t => !used.contains t

/-- The tag an access would take: the one a RETRY freed, else the lowest free (R39, R41). -/
def Chan.tagFor (c : Chan) (write : Bool) (a : Acc) : Option Nat :=
  let max_ := match c.mode with | some m => m.tagMax | none => 63
  match a.tag with
  | some t => if t ≤ max_ then some t else c.freeTag write
  | none => c.freeTag write

/-- The read-modify-writes open on a granule of a channel. -/
def openRmws (c : Chan) (gran : Nat) : List Acc :=
  (c.rtags.map (·.2) ++ c.wtags.map (·.2) ++ c.wwait.filter (·.combined)).filter fun x => x.gran == gran && x.rmw.isSome

/-- An access must wait for another on its granule: a read-modify-write for one that is open (R220); a plain write for an
open merge, and a merge for a write under way, so that no other write of the block comes between (R142, R389). -/
def rmwOpen (c : Chan) (a : Acc) : Bool :=
  let open_ := openRmws c a.gran
  !a.combined &&
    ((a.rmw.isSome && !open_.isEmpty) || (a.write && !a.fill && open_.any fun x => x.rmw == some .merge) ||
      (a.rmw == some .merge && c.wtags.any fun e => e.2.gran == a.gran))

/-- Whether work in a domain runs under the FAIL policy (R373); a walker's read under that of the context that missed. -/
def failsIn (b : Block) (d : Nat) (a : Acc) : Bool :=
  match a.owner.onBehalf with
  | some c => (b.ctx c).failPolicy
  | none => domFails b d

/-- The domains of an access at its channel. -/
def accDomains (b : Block) (a : Acc) : List Nat := domainsOf b (some a.ch) (some (a.gran * 256))

/-- What the domains do to an access at its channel. What drains the domain itself, write-backs and requests received
over links, goes on until the acknowledgement (R371). (DEDUCED, log 74) -/
def accDomEffect (b : Block) (a : Acc) : DomEffect :=
  let own := match a.owner with
    | .writeback _ => true
    | .remote _ _ _ _ _ => true
    | _ => false
  let ds := accDomains b a
  if own && !(ds.any fun d => (b.pdom d).ack) then .pass else domEffect b ds (fun d => failsIn b d a)

/-- Whether a channel may present an access now (R38, R78, R358, R364, R371). -/
def accReady (b : Block) (c : Chan) (write : Bool) (a : Acc) : Bool :=
  c.service == .inService && decide (0 < (if write then c.wcred else c.rcred)) && (c.tagFor write a).isSome &&
    !rmwOpen c a && c.therm != 3 && accDomEffect b a != .hold

/-- A line's fill waits for the writes of this block to its granule that are under way: the line holds them too (R308). -/
def fillWaits (b : Block) (c : Chan) (a : Acc) : Bool :=
  a.fill && ((c.wtags.map (·.2) ++ c.wwait ++ ringAccs b).any fun x => x.write && x.ch == a.ch && x.gran == a.gran)

/-- The accesses a path may present, one per source: its oldest that is ready. -/
def pathWaiting (b : Block) (n : Nat) (write : Bool) : List (Nat × Acc) :=
  let c := b.chan n
  (if write then c.wwait else c.rwait).foldl (fun (t : List (Nat × Acc)) a =>
    if (t.any fun e => e.1 == a.owner.source) || !accReady b c write a || fillWaits b c a then t
    else t ++ [(a.owner.source, a)]) []

/-- Whether SYM8 is negotiated. -/
def sym8 (b : Block) (n : Nat) : Bool := match (b.chan n).mode with | some m => m.sym8 | none => false

/-- A write request as it stands at the port of a channel (R23, R37, R40): the whole granule enciphered behind an
untrusted channel, with byte parity, and check bits when an ECC symbol mode was negotiated. -/
def writeOut (b : Block) (n : Nat) (a : Acc) (t : Nat) : WriteReq :=
  let d := granCipher b n a.gran a.ksel a.data
  { gran := a.gran, tag := t, data := d, par := parityOf d, chk := if sym8 b n then Config.symEncode d else []
    be := if untrusted b n then List.replicate 256 true else a.mask.map (· != 0) }

/-- One grant of a channel path (R358, R363): a credit and a tag are spent and the request is presented. -/
def grantChan (b : Block) (n : Nat) (write : Bool) : Block :=
  let c := b.chan n
  let w := pathWaiting b n write
  if c.budget ≤ c.used then b
  else
    let rich := w.filter fun e => decide (0 < c.tok (classOf e.2 write))
    let pool := if rich.isEmpty then w else rich
    let arb := (b.arbAt (arbChan n write)).unmark (w.map (·.1))
    match arb.choose (weightOf b) (pool.map (·.1)) with
    | none => b.setArb (arbChan n write) arb
    | some r =>
      match (pool.find? fun e => e.1 == r) with
      | none => b
      | some (_, a) =>
        let drop := fun (l : List Acc) => l.erase a
        if accDomEffect b a = .fail then
          failAcc (b.setChan n (if write then { c with wwait := drop c.wwait } else { c with rwait := drop c.rwait })) a
            .domainOff
        else match c.tagFor write a with
          | none => b
          | some t =>
            let b := b.setArb (arbChan n write) (arb.charge (weightOf b) r)
            let c := ({ c with used := c.used + 1 } : Chan).spend (classOf a write)
            let a' := { a with tag := none }
            b.setChan n
              (if write then { c with wcred := c.wcred - 1, wwait := drop c.wwait, wtags := c.wtags ++ [(t, a')]
                                      wqOut := some (writeOut b n a t) }
               else { c with rcred := c.rcred - 1, rwait := drop c.rwait, rtags := c.rtags ++ [(t, a')]
                             rqOut := some (a.gran, t) })

end Sys2Proof.Machine
end

