-- ==== Sys2Proof/Machine/Transform.lean ====
section
/-! DEFINITION. What a lane makes of a unit: source codes (R162, R264), Gesso's residues (R214), the cast paths
(R218, R225-R233), Mirror's sign (R209), the two digest taps (R196-R199), statistics (R236) and the destination
bursts (R142, R176, R220). -/

namespace Sys2Proof.Machine

/-! ### Source codes -/

/-- The code of `nibs` nibbles at nibble place `k`. -/
def codeAt (look : Nat → Byte) (nibs k : Nat) : Nat :=
  let r := byteRange nibs k
  leNat ((List.range r.2).map fun i => look (r.1 + i)) / 16 ^ (k % 2) % 16 ^ nibs

/-- The swap modes of R162 on the bytes of one element. -/
def swapBytes (mode : Nat) (d : Bytes) : Bytes :=
  if mode = 0 then d
  else if mode ≤ 3 then ((chunks (2 ^ mode) d.length d).map List.reverse).flatten
  else ((chunks (if mode = 4 then 4 else 8) d.length d).map fun c => (chunks 2 c.length c).reverse.flatten).flatten

def swapCode (mode nibs v : Nat) : Nat := if mode = 0 then v else leNat (swapBytes mode (natLe (nibs / 2) v))

/-- A raw block of a compressed source from the bytes read, none when it fails R264. -/
def decodeBlock (s : Canvas) (h : SwatchHdr) (got : Tab Byte) (j : Nat) : Option Bytes :=
  match blockStored h j with
  | none => none
  | some (off, raw, len) =>
    decodeStored h.cbits h.codebook raw (min 4096 (h.lr - 4096 * j))
      ((List.range len).map fun i => Tab.get 0 got (s.base + 64 * off + i))

/-- The byte at a VA of decoded blocks. -/
def blockByte (base : Nat) (l : List (Nat × Bytes)) (a : Nat) : Byte :=
  match l.find? fun e => e.1 == (a - base) / 4096 with
  | some e => e.2.getD ((a - base) % 4096) 0
  | none => 0

/-! ### Gesso (R214) -/

/-- The 48-byte message of a stream. -/
def gessoMessage (rec_ : Bytes) (l q logN : Nat) : Bytes :=
  let mbase := fieldAt rec_ 32 2
  let comp := fieldAt rec_ 34 2
  sliceAt rec_ 0 32 ++ [0x47, 0x01] ++ natLe 2 comp ++ natLe 2 l ++ natLe 2 ((mbase + l) % 65536) ++ natLe 1 logN ++
    natLe 1 (q.log2 + 1) ++ List.replicate 6 0

/-- The draws of `w` bits that the bits hold. -/
def drawsOf (w q bits : Nat) (n : Nat) : List Nat :=
  ((List.range n).map fun i => bits / 2 ^ (i * w) % 2 ^ w).filter (· < q)

/-- Rejection sampling, block by block of the XOF output: `bits` holds `have_` bits left over. (DEDUCED, log 66) -/
def gessoDraw (q w n : Nat) : Nat → List (BitVec 64) → Nat → Nat → List Nat → List Nat
  | 0, _, _, _, acc => acc
  | fuel + 1, st, bits, have_, acc =>
    if n ≤ acc.length then acc
    else
      let bits := bits + leNat ((Crypto.stateBytes st).take 168) * 2 ^ have_
      let have_ := have_ + 1344
      let k := have_ / w
      gessoDraw q w n fuel (Crypto.keccakF st) (bits / 2 ^ (k * w)) (have_ - k * w) (acc ++ drawsOf w q bits k)

/-- The residues of one (record, limb) stream. A stream that has not ended after 4 N + 64 output blocks, which R214's
acceptance rate all but excludes, has free residues from there on. (DEDUCED, log 66) -/
def gessoResidues (rec_ : Bytes) (l q logN : Nat) : List Nat :=
  let n := 2 ^ logN
  let m := gessoMessage rec_ l q logN
  let pad : Bytes := m ++ 0x1F :: List.replicate (168 - 50) 0 ++ [0x80]
  let st := Crypto.absorbBlock (List.replicate 25 0) pad
  let got := (gessoDraw q (q.log2 + 1) n (4 * n + 64) st 0 0 []).take n
  got ++ (List.range (n - got.length)).map fun i => Config.freeChoice (leNat m + i) % q

/-! ### Casts -/

/-- The value of an integer code. -/
def intOf (ty c : Nat) : Int := if isSigned ty then signedOf (widthOf ty) c else ((c % 2 ^ widthOf ty : Nat) : Int)

/-- x mod q for an integer of either sign. -/
def modOf (v : Int) (q : Nat) : Nat := (v % (q : Int)).toNat

/-- A value encoded with its contribution to the statistics (R230-R232, R236). -/
def castTo (ty : Nat) (v : Num) : Nat × Stats :=
  let (c, sat) := encode ty v
  (c, statOf ty v sat)

/-- The code Tint gives an element, with its statistics (R218, R225-R233). -/
def castCode (e : Exec) (x : UElem) (c sc : Nat) : Nat × Stats :=
  let st := e.src.type
  let dt := e.dst.type
  let qs := e.smods.getD x.slimb 1
  let qd := e.dmods.getD x.dlimb 1
  match e.cast with
  | .bypass => (c, {})
  | .container => (c % qd, {})
  | .lift =>
    let r := c % qs
    castTo dt (if 2 * r < qs then .fin false r 0 else .fin true (qs - r) 0)
  | .modred => (modOf (intOf st c) qd, {})
  | .rns => (modOf (intOf st c) qd, {})
  | .scale => ((encode dt (if st ≤ 1 then decScale st c e.src.scale2 else dec st c)).1, {})
  | .plain => castTo dt (scaleBy (dec st c) (sideShift e.src - sideShift e.dst))
  | .expand =>
    let k := e.scale.getD {}
    castTo dt (scaleBy (expandVal st c (sideShift e.src) (decScale k.type sc k.scale2)) (-(sideShift e.dst)))

/-! ### Digest (R197, R198) -/

/-- p = 2^61 - 1. -/
def digestP : Nat := 2 ^ 61 - 1

def digestTerm (v : Nat) : Nat := v % digestP

def digestAdd (a b : Nat) : Nat := (a + b) % digestP

/-! ### A unit's output -/

/-- An element as the lane leaves it: its place, its code, and what it adds to the digests and statistics. -/
structure OutElem where
  x : UElem
  code : Nat
  dsrc : Nat
  ddst : Nat
  stats : Stats

/-- What the lane makes of one element. The swap acts on each source element (R162), of a compressed source as it is
decoded. (DEDUCED, log 97) -/
def outElem (e : Exec) (look : Nat → Byte) (gesso : Nat → Nat → Nat) (scaleLook : Nat → Byte) (x : UElem) : OutElem :=
  let n := nibsOf e.src.type
  match x.src with
  | none => { x := x, code := 0, dsrc := 0, ddst := 0, stats := {} }
  | some k =>
    let raw := if iOp e.ins = opExpand then gesso k x.dlimb else swapCode (iSwap e.ins) n (codeAt look n k)
    let sc := match x.scale, e.scale with
      | some p, some cv => codeAt scaleLook (nibsOf cv.type) p
      | _, _ => 0
    let (v, st) := castCode e x raw sc
    let q := e.dmods.getD x.dlimb 1
    let y := if x.neg then (q - v % q) % q else v
    { x := x, code := y, stats := st, dsrc := digestTerm v
      ddst := digestTerm (if x.neg then (q - y) % q else y) }

/-- The statistics of a unit: each element converted once, a GATHER's at every occurrence of its index (R246), and the first
part of a split one (R193, R236). -/
def unitStats (e : Exec) (l : List OutElem) : Stats :=
  let l := l.filter fun o => !o.x.tail && o.x.src.isSome
  let l := if e.src.bmask = 0 then l
           else (l.foldl (fun (a : List OutElem) o => if a.any (fun p => p.x.src == o.x.src && p.x.occ == o.x.occ) then a else a ++ [o]) [])
  l.foldl (fun s o => mergeStats s o.stats) {}

/-- The nibbles an element writes, lowest first. -/
def outNibs (nibs : Nat) (o : OutElem) : List Nat :=
  let w := o.x.wspan nibs
  (List.range w.2).map fun i => o.code / 16 ^ (w.1 - o.x.dst + i) % 16

/-- Pairs of nibbles as a data byte and the bits it changes. -/
def packNibs : List (Option Nat) → List (Byte × Byte)
  | [] => []
  | lo :: t =>
    let hi := (t.headD none)
    (BitVec.ofNat 8 (lo.getD 0 + 16 * hi.getD 0), BitVec.ofNat 8 (b2n lo.isSome * 15 + b2n hi.isSome * 240)) ::
      (match t with
        | [] => []
        | _ :: r => packNibs r)

/-- One destination burst from its elements, in ascending places. (DEDUCED, log 70) -/
def mkBurst (e : Exec) (num : Nat) (l : List OutElem) : Burst :=
  let nibs := nibsOf e.dst.type
  let first := match l with
    | o :: _ => (o.x.wspan nibs).1
    | [] => 0
  let ns := (l.flatMap (outNibs nibs)).map some
  let ps := packNibs (if first % 2 = 1 then none :: ns else ns)
  { num := num, va := first / 2, data := ps.map (·.1), mask := ps.map (·.2)
    red := if iOp e.ins = opReduce then
        l.map fun o => { off := o.x.dst / 2, val := o.code, q := e.dmods.getD o.x.dlimb 1 }
      else [] }

/-- A REDUCE element that straddles a granule (R220). -/
def straddles (e : Exec) (l : List UElem) : Option Nat :=
  let n := nibsOf e.dst.type / 2
  if iOp e.ins = opReduce then (l.find? fun x => decide (256 < x.dst / 2 % 256 + n)).map (·.dst / 2) else none

/-- What a unit leaves: digests, statistics, bursts for memory or nibbles for a stream or ring. -/
structure UnitOut where
  dsrc : Nat
  ddst : Nat
  stats : Stats
  writes : List Burst
  nibs : List (Nat × Nat)

/-- The numbers of bursts from their first places: by ascending address from `first` on (R176). -/
def burstNums (first : Nat) (l : List Nat) : List Nat :=
  (l.zip (List.range l.length)).map fun p =>
    first + (l.zip (List.range l.length)).countP fun q => decide (q.1 < p.1) || (q.1 == p.1 && decide (q.2 < p.2))

/-- The bursts of a unit's elements, as the layout counted them, in the order they drain (R205). -/
def outBursts (e : Exec) (first : Nat) (l : List OutElem) : List Burst :=
  let nibs := nibsOf e.dst.type
  let rs := burstsBy (!e.closed) nibs (·.x) l
  (rs.zip (burstNums first (rs.map fun r => (r.head?.map fun o => (o.x.wspan nibs).1).getD 0))).map fun p =>
    mkBurst e p.2 p.1

/-- The (record, limb) streams of Gesso whose residues a unit takes (R213). -/
def unitStreams (e : Exec) (u : WorkUnit) : List (Nat × Nat) :=
  if iOp e.ins = opExpand then
    (u.elems.filterMap fun x => x.src.map fun k => (k / 2 ^ bitsOf e.dst.lparam 4 0, x.dlimb)).eraseDups
  else []

/-- The lane's work on a unit whose source is at hand. -/
def transform (e : Exec) (u : WorkUnit) : Except (Status × Nat) UnitOut :=
  match straddles e u.elems with
  | some va => .error (.bounds, va)
  | none =>
    let scaleLook := fun a => Tab.get (0 : Byte) u.got a
    let look := if iSkind e.ins ≠ 0 then fun a => e.sgot.getD a 0
                else if e.src.compressed then blockByte e.src.base u.raw else scaleLook
    let logN := bitsOf e.dst.lparam 4 0
    let streams := (unitStreams e u).map fun p => (p, gessoResidues (e.seeds.getD p.1 []) p.2 (e.dmods.getD p.2 1) logN)
    let gesso := fun k l =>
      match streams.find? fun s => s.1 == (k / 2 ^ logN, l) with
      | some s => s.2.getD (k % 2 ^ logN) 0
      | none => 0
    let out := u.elems.map (outElem e look gesso scaleLook)
    let heads := out.filter fun o => !o.x.tail
    let dig := iDigest e.ins
    .ok { dsrc := if dig then heads.foldl (fun a o => digestAdd a o.dsrc) 0 else 0
          ddst := if dig then heads.foldl (fun a o => digestAdd a o.ddst) 0 else 0
          stats := unitStats e out
          writes := if iDkind e.ins = 0 then
              (outBursts e u.firstBurst out).filter fun w => !e.doneBursts.contains w.num
            else []
          nibs := if iDkind e.ins = 0 then []
            else out.flatMap fun o =>
              let w := o.x.wspan (nibsOf e.dst.type)
              ((outNibs (nibsOf e.dst.type) o).zip (List.range w.2)).map fun p => (w.1 + p.2, p.1) }

end Sys2Proof.Machine
end

