-- ==== Sys2Proof/Machine/Units.lean ====
section
/-! DEFINITION. Work units on their way: what a unit has read, the lane's work, the Swatch decoders and Gesso cores it
takes (R181, R216, R267, R268), and streams and rings on the far side (R19, R29, R47, R173). -/

namespace Sys2Proof.Machine

/-! ### Access to executions and units -/

def Block.exec? (b : Block) (c seq : Nat) : Option Exec := (b.ctx c).execs.find? fun e => e.seq == seq

def modExec (b : Block) (c seq : Nat) (f : Exec → Exec) : Block :=
  b.modCtx c fun x => { x with execs := x.execs.map fun e => if e.seq == seq then f e else e }

def Exec.unit? (e : Exec) (n : Nat) : Option WorkUnit := e.units.find? fun u => u.n == n

def modUnit (b : Block) (c seq n : Nat) (f : WorkUnit → WorkUnit) : Block :=
  modExec b c seq fun e => { e with units := e.units.map fun u => if u.n == n then f u else u }

/-- Accesses of a unit under way, by direction. -/
def unitAccs (b : Block) (c seq n : Nat) (write : Bool) : List Acc :=
  (ctxAccs b c).filter fun a => match a.owner with
    | .unitRead _ s m _ => !write && s == seq && m == n
    | .unitWrite _ s m _ => write && s == seq && m == n
    | _ => false

def Exec.kindS (e : Exec) : Nat := if iOp e.ins = opExpand then 0 else iSkind e.ins
def Exec.kindD (e : Exec) : Nat := iDkind e.ins

/-- Lane beats a quadrant may issue in a window (R29, R450). -/
def beatLimit (b : Block) : Nat := if b.power.state = 1 then 2000 else 11500

/-- Lane beats a quadrant may still issue in the present window (R29). -/
def beatsLeft (b : Block) (q : Nat) : Nat := beatLimit b - (b.arbAt (arbCtx q)).beats

/-- Counts lane beats of a quadrant. A beat that carries less than 256 bytes, or a granule touched in part, counts as one.
(DESIGN CHOICE, log 98) -/
def countBeats (b : Block) (q n : Nat) : Block :=
  let arb := b.arbAt (arbCtx q)
  b.setArb (arbCtx q) { arb with beats := arb.beats + n }

/-! ### Far sides that are not memory -/

/-- The nibbles that stand in a row from place `pos`. -/
def takeRun : List (Nat × Nat) → Nat → List Nat
  | [], _ => []
  | (p, v) :: t, pos => if p < pos then takeRun t pos else if p = pos then v :: takeRun t (pos + 1) else []

/-- Pairs of nibbles as bytes. -/
def nibBytes : List Nat → Bytes
  | lo :: hi :: t => BitVec.ofNat 8 (lo + 16 * hi) :: nibBytes t
  | _ => []

/-- Free bytes of a ring: its open slot and its free slots (R173). -/
def Ring.free (r : Ring) : Nat :=
  let sz := 2 ^ r.slotLog
  if r.cur.isEmpty then (r.count - r.full.length) * sz
  else (r.count - r.full.length - 1) * sz + (sz - r.cur.length)

/-- Writes bytes to a ring, publishing every slot they fill. -/
def Ring.put (r : Ring) : Nat → Bytes → Ring
  | 0, _ => r
  | _, [] => r
  | n + 1, d =>
    let room := 2 ^ r.slotLog - r.cur.length
    let cur := r.cur ++ d.take room
    let r := if cur.length = 2 ^ r.slotLog then { r with full := r.full ++ [cur], cur := [] } else { r with cur := cur }
    r.put n (d.drop room)

/-- Takes up to `n` published bytes; an emptied slot is free (R173). -/
def takeSlots : Nat → List Bytes → Bytes × List Bytes
  | _, [] => ([], [])
  | n, s :: t =>
    if n = 0 then ([], s :: t)
    else if n < s.length then (s.take n, s.drop n :: t)
    else
      let (d, r) := takeSlots (n - s.length) t
      (s ++ d, r)

/-- One egress beat (R44, R47). (DEDUCED, log 56) -/
def mkBeat (e : Exec) (d : Bytes) (eot : Bool) : Beat :=
  { data := pad256 d, par := parityOf (pad256 d), bytes := d.length % 256, cid := e.dnum, layout := e.dst.layout
    eot := eot, eoc := false }

/-- The beat that can leave next: 256 bytes, or up to the end of a tile. -/
def nextBeat (e : Exec) (d : Bytes) : Option (Bytes × Bool) :=
  let fin := ((e.tileEnds.find? fun t => decide (e.outNext < t)).getD e.outLen) - e.outNext
  let n := min 256 fin
  if n = 0 || d.length < n then none else some (d.take n, decide (n = fin))

/-- What the domain of a stream port does to a context's work on it (R365, R371, R373). -/
def sideDomain (b : Block) (c port : Nat) : DomEffect :=
  domEffect b (domainOfPort b port).toList (fun _ => (b.ctx c).failPolicy)

/-- A beat on its way to a stream port: over the ring when the port lies in another quadrant (R19, R183). -/
def sendBeat (b : Block) (c port : Nat) (o : OutBeat) : Block :=
  match ringPath (quadOfCtx c) (quadOfPort port) with
  | [] => let p := b.sport port; b.setSport port { p with out := p.out ++ [o] }
  | path => ringSend b c 1 (.egress port o) path

/-- Presents the beats that can leave, while the quadrant may issue lane beats (R29). -/
def pushBeats (c port : Nat) : Nat → Exec → Bytes → Block → Block × Exec
  | 0, e, _, b => (b, e)
  | n + 1, e, d, b =>
    if beatsLeft b (quadOfCtx c) = 0 || sideDomain b c port != .pass then (b, e)
    else match nextBeat e d with
      | none => (b, e)
      | some (x, eot) =>
        let next := e.outNext + x.length
        let o : OutBeat := { beat := mkBeat e x eot, ctx := c, seq := e.seq, last := decide (e.outLen ≤ next) }
        pushBeats c port n { e with outNext := next } (d.drop x.length) (countBeats (sendBeat b c port o) (quadOfCtx c) 1)

/-- Writes what may leave to a downstream ring, beat by beat (R29, R173, R193). -/
def pushRing (b : Block) (c : Nat) (e : Exec) (d : Bytes) (n k : Nat) (r : Ring) : Block × Exec :=
  let d := d.take (256 * beatsLeft b (quadOfCtx c))
  (countBeats (setRing b n k (r.put (d.length + 1) d)) (quadOfCtx c) (ceilDiv d.length 256),
    { e with outNext := e.outNext + d.length })

/-- Passes on what an execution has for its stream or ring, in order; an earlier execution on the same far side goes
first. -/
def flushExec (b : Block) (c : Nat) (e : Exec) : Block :=
  let x := b.ctx c
  let before := x.execs.any fun f => decide (f.seq < e.seq) && f.kindD == e.kindD && iDport f.ins == iDport e.ins &&
    decide (f.outNext < f.outLen)
  if e.kindD = 0 || before then b
  else
    let d := nibBytes (takeRun e.out (2 * e.outNext))
    let done := fun (p : Block × Exec) =>
      modExec p.1 c e.seq fun f =>
        { f with outNext := p.2.outNext, out := f.out.filter fun n => decide (2 * p.2.outNext ≤ n.1) }
    if e.kindD = 1 && sideDomain b c (iDport e.ins) == .fail && e.outNext < e.outLen then
      haltBegin b c .domainOff 0 0 (some e.seq)
    else if e.kindD = 1 then done (pushBeats c (iDport e.ins) (d.length + 1) e d b)
    else match downRing b x with
      | none => b
      | some (n, k, r) => done (pushRing b c e d n k r)

def flushOuts (b : Block) (c : Nat) : Block :=
  (b.ctx c).execs.foldl (fun b e => match b.exec? c e.seq with | some e => flushExec b c e | none => b) b

/-! ### Lanes -/

/-- The last byte of a unit's stream or ring output, plus 1. -/
def unitEnd (e : Exec) (u : WorkUnit) : Nat :=
  (u.elems.map fun x => ceilDiv (let w := x.wspan (nibsOf e.dst.type); w.1 + w.2) 2).foldl max 0

/-- A unit leaves its lane once nothing is left to issue. -/
def releaseLanes (b : Block) (c : Nat) : Block :=
  b.modCtx c fun x => { x with execs := x.execs.map fun e => { e with units := e.units.map fun u =>
    if u.onLane && (u.phase == .committed || u.phase == .failed ||
        (u.phase == .writing && u.writes.isEmpty && (e.kindD == 0 || decide (unitEnd e u ≤ e.outNext)))) then
      { u with onLane := false } else u } }

/-! ### Swatch decoders and codebook stores (R266-R268) -/

/-- Whether a unit decodes blocks. -/
def Exec.decodes (e : Exec) : Bool := e.src.compressed && e.kindS == 0

/-- Decoders of a quadrant that hold a unit's block. -/
def decsHeld (b : Block) (q : Nat) : List Nat :=
  b.ctxs.flatMap fun x => if quadOfCtx x.1 = q then
      x.2.execs.flatMap fun e => e.units.flatMap fun u => u.decs.map (·.dec)
    else []

/-- The free decoders of a quadrant, rising (R267). -/
def freeDecs (b : Block) (q : Nat) : List Nat :=
  let held := decsHeld b q
  ((List.range 32).map (32 * q + ·)).filter fun d => !held.contains d && (b.health .decoder d).state == .inService

/-- Vectors a decoder may emit in a window, and those it has left in this one (R266). -/
def vectorLimit : Nat := 2000
def vectorsLeft (b : Block) (d : Nat) : Nat := vectorLimit - (b.arbAt (arbDec d)).beats

def countVectors (b : Block) (d n : Nat) : Block :=
  let a := b.arbAt (arbDec d)
  b.setArb (arbDec d) { a with beats := a.beats + n }

/-- The blocks of a unit that no decoder has taken yet, rising. -/
def blocksLeft (e : Exec) (u : WorkUnit) : List Nat :=
  (unitBlocks e.src u.elems).filter fun j => !(u.raw.any fun r => r.1 == j) && !(u.decs.any fun d => d.block == j)

/-- A unit on a lane takes the lowest free decoders for its blocks in block order, as decoders become free (R267). -/
def takeDecs (b : Block) (c : Nat) (e : Exec) (u : WorkUnit) : Block :=
  if !e.decodes then b
  else
    let new := ((blocksLeft e u).zip (freeDecs b (quadOfCtx c))).map fun p => ({ block := p.1, dec := p.2 } : Decoding)
    modUnit b c e.seq u.n fun u => { u with decs := u.decs ++ new }

/-- Where the codebook of a compressed canvas lies (R260), and the bytes the block reads of it (R262). -/
def bookVa (cv : Canvas) : Nat := cv.base - swatchX (rawLen cv) - 32768
def bookLen (h : SwatchHdr) : Nat := 8 * 2 ^ h.cbits

/-- The first decode unit of an execution takes a codebook store; header and codebook are further source runs of it
(R268). -/
def takeStore (b : Block) (c : Nat) (e : Exec) (u : WorkUnit) : Block :=
  if !e.decodes || e.store then b
  else
    let more := readRuns e.src.cls [(bookVa e.src - 64, 64 + bookLen e.swatch)]
    let b := modExec b c e.seq fun e => { e with store := true, loader := some u.n }
    modUnit b c e.seq u.n fun u => { u with runs := more ++ u.runs }

/-- The unit that loads the store has read the codebook: the other units of the execution may decode. -/
def loadBook (b : Block) (c : Nat) (e : Exec) (u : WorkUnit) : Block :=
  if e.loader != some u.n then b
  else
    let book := (List.range (bookLen e.swatch)).map fun i => Tab.get (0 : Byte) u.got (bookVa e.src + i)
    modExec b c e.seq fun e => { e with loader := none, swatch := { e.swatch with codebook := book } }

/-- A decoder decodes its block: the output stands in its buffer, its vectors are to be emitted; none when the block fails
R264. -/
def Decoding.start (e : Exec) (u : WorkUnit) (d : Decoding) : Option Decoding :=
  if d.out.isSome then some d
  else (decodeBlock e.src e.swatch u.got d.block).map fun o => { d with out := some o, left := ceilDiv o.length 8 }

/-- A decoder emits what its window still allows (R266). -/
def emitVecs (s : Block × List Decoding) (d : Decoding) : Block × List Decoding :=
  let n := min d.left (vectorsLeft s.1 d.dec)
  (countVectors s.1 d.dec n, s.2 ++ [{ d with left := d.left - n }])

/-- The lane drains the buffers in raw order; a drained decoder is free (R267). -/
def drainDecs : List Decoding → List (Nat × Bytes) × List Decoding
  | [] => ([], [])
  | d :: t =>
    match d.out with
    | some o => if d.left = 0 then let (r, l) := drainDecs t; ((d.block, o) :: r, l) else ([], d :: t)
    | none => ([], d :: t)

/-- One round of a unit's decoders; none when a block fails its checks (R264). -/
def decodeRound (b : Block) (c seq n : Nat) : Option Block :=
  match b.exec? c seq with
  | none => some b
  | some e =>
    match e.unit? n with
    | none => some b
    | some u =>
      let b := takeDecs b c e u
      match (b.exec? c seq).bind (·.unit? n) with
      | none => some b
      | some u =>
        match (sortBy (·.block) u.decs).mapM (Decoding.start e u) with
        | none => none
        | some ds =>
          let (b, ds) := ds.foldl emitVecs (b, [])
          let (r, l) := drainDecs ds
          some (modUnit b c seq n fun u => { u with raw := u.raw ++ r, decs := l })

/-- Rounds until nothing changes. -/
def decodeAll (c seq n : Nat) : Nat → Block → Option Block
  | 0, b => some b
  | k + 1, b => (decodeRound b c seq n).bind (decodeAll c seq n k)

/-- The codebook a unit's blocks need is there. -/
def bookReady (e : Exec) (u : WorkUnit) : Bool :=
  e.decodes && !(unitBlocks e.src u.elems).isEmpty && e.loader.isNone && !e.swatch.codebook.isEmpty

/-- The unit's blocks have all been decoded and drained. -/
def decoded (e : Exec) (u : WorkUnit) : Bool :=
  !e.decodes || (unitBlocks e.src u.elems).all fun j => u.raw.any fun r => r.1 == j

/-! ### Gesso cores (R181, R216) -/

/-- Whether a core takes streams: it is in service, and in P1 among the first twelve of its quadrant (R419, R450). -/
def coreOpen (b : Block) (k : Nat) : Bool :=
  (b.health .core k).state == .inService && (b.power.state != 1 || decide (k % 48 < 12))

/-- Whether a quadrant has a core that can take a stream: Gesso's island runs and a core of the quadrant is open. -/
def coreReady (b : Block) (q : Nat) : Bool := islandUp b 4 && (List.range 48).any fun i => coreOpen b (48 * q + i)

/-- The next open core of a quadrant after the one last handed a stream. (DESIGN CHOICE, log 68) -/
def nextCore (b : Block) (q : Nat) : Option Nat :=
  let last := b.flt.lastCore.getD q (48 * q + 47) - 48 * q
  ((List.range 48).map fun i => 48 * q + (last + 1 + i) % 48).find? (coreOpen b)

/-- Hands a stream to a core (R216). -/
def handStream (c seq : Nat) (b : Block) (p : Nat × Nat) : Block :=
  let q := quadOfCtx c
  match nextCore b q with
  | none => b
  | some k =>
    modExec { b with flt := { b.flt with lastCore := setAt b.flt.lastCore q k } } c seq fun e =>
      { e with streams := e.streams ++ [(p.1, p.2, k)] }

/-- The streams of an execution in ascending record and limb, up to the last that a unit takes. -/
def streamsTo (e : Exec) (u : WorkUnit) : List (Nat × Nat) :=
  let mine := unitStreams e u
  let all := sortBy (·.1) (sortBy (·.2) (e.units.flatMap (unitStreams e)).eraseDups)
  all.filter fun p => mine.any fun m => decide (p.1 < m.1) || (p.1 == m.1 && decide (p.2 ≤ m.2))

/-- The streams of an execution go to the quadrant's cores in ascending record and limb, as far as its units have asked
(R216). -/
def handStreams (b : Block) (c : Nat) (e : Exec) (u : WorkUnit) : Block :=
  let new := (streamsTo e u).filter fun p => !e.streams.any fun s => s.1 == p.1 && s.2.1 == p.2
  if islandUp b 4 then new.foldl (handStream c e.seq) b else b

/-- Gesso delivers what a unit takes: its island runs and cores hold all the unit's streams. (DEDUCED, log 25) -/
def gessoReady (b : Block) (e : Exec) (u : WorkUnit) : Bool :=
  iOp e.ins != opExpand ||
    (islandUp b 4 && (unitStreams e u).all fun p => e.streams.any fun s => s.1 == p.1 && s.2.1 == p.2)

/-- Gesso's reset: its cores hold no stream any more. (DEDUCED, log 25) -/
def resetGesso (b : Block) : Block :=
  { b with ctxs := b.ctxs.mapVals {} fun _ x => { x with execs := x.execs.map fun e => { e with streams := [] } } }

/-! ### Transforming -/

/-- A unit fails (R200, R245, R264): the context halts, the others already issued go on. -/
def failUnit (b : Block) (c seq n : Nat) (f : Status × Nat) : Block :=
  haltBegin (modUnit b c seq n fun u => { u with phase := .failed, onLane := false, decs := [], raw := [] }) c f.1 f.2 0 (some seq)

/-- Adds a unit's nibbles to its execution's output; what has left already is not sent again. -/
def addOut (e : Exec) (l : List (Nat × Nat)) : Exec :=
  { e with out := l.foldl (fun t p => if 2 * e.outNext ≤ p.1 then Tab.insert t p.1 p.2 else t) e.out }

/-- Everything a reading unit needs is at hand. -/
def unitWhole (b : Block) (c : Nat) (e : Exec) (u : WorkUnit) : Bool :=
  u.phase == .reading && u.runs.isEmpty && decide (u.need ≤ e.sgot.length) && (unitAccs b c e.seq u.n false).isEmpty

/-- The lane's work on a unit that has everything: its output goes to its bursts, its stream or its ring. -/
def runLane (b : Block) (c : Nat) (e : Exec) (u : WorkUnit) : Block :=
  match transform e u with
  | .error f => failUnit b c e.seq u.n f
  | .ok o =>
    let b := modUnit b c e.seq u.n fun u =>
      { u with phase := .writing, got := [], raw := [], dsrc := o.dsrc, ddst := o.ddst, stats := o.stats
               writes := o.writes }
    releaseLanes (flushOuts (modExec b c e.seq fun e => addOut e o.nibs) c) c

/-- Does something with a unit, if it stands. -/
def withUnit (b : Block) (c seq n : Nat) (k : Exec → WorkUnit → Block) : Block :=
  match b.exec? c seq with
  | none => b
  | some e => match e.unit? n with
    | none => b
    | some u => k e u

/-- Runs the lane once everything the unit reads is at hand and its blocks are decoded; a block that fails fails the unit
(R264). -/
def tryTransform (b : Block) (c seq n : Nat) : Block :=
  withUnit b c seq n fun e u =>
    if !unitWhole b c e u then takeDecs b c e u
    else
      let b := handStreams (loadBook b c e u) c e u
      withUnit b c seq n fun e u =>
        match (if bookReady e u then decodeAll c seq n (unitBlocks e.src u.elems).length b else some b) with
        | none => failUnit b c seq n (.bounds, 0)
        | some b => withUnit b c seq n fun e u => if decoded e u && gessoReady b e u then runLane b c e u else b

/-- Tries every unit of a context that is reading. -/
def tryUnits (b : Block) (c : Nat) : Block :=
  (b.ctx c).execs.foldl (fun b e => e.units.foldl (fun b u =>
    if u.phase == .reading then tryTransform b c e.seq u.n else b) b) b

/-- Bytes for a unit have come: its lane may run, and with a codebook loaded so may those of its execution's other
units. -/
def unitArrived (b : Block) (c seq n : Nat) : Block :=
  let loads := match b.exec? c seq with | some e => e.loader == some n | none => false
  let b := tryTransform b c seq n
  if loads then tryUnits b c else b

/-- Bytes read for a unit: those of the burst, by VA. -/
def addGot (b : Block) (c seq n : Nat) (a : Acc) (d : Bytes) : Block :=
  modUnit b c seq n fun u =>
    { u with got := (List.range a.len).foldl (fun t i => Tab.insert t (a.va + i) (d.getD (a.off + i) 0)) u.got }

/-! ### Source streams and rings -/

/-- Ingress bytes of an execution on their way over the ring. -/
def onWay (b : Block) (c seq : Nat) : Nat :=
  (ringItems b).foldl (fun n i => match i.load with
    | .ingress k s d => if k = c && s = seq then n + d.length else n
    | _ => n) 0

/-- Whether an execution may take bytes: the earlier ones on the same source have all theirs. -/
def mayTake (b : Block) (c : Nat) (e : Exec) : Bool :=
  !((b.ctx c).execs.any fun f => decide (f.seq < e.seq) && f.kindS == e.kindS && iSport f.ins == iSport e.ins &&
    decide (f.sgot.length + onWay b c f.seq < f.slen))

/-- Bytes an execution has still to take from its stream. -/
def wants (b : Block) (c : Nat) (e : Exec) : Nat := e.slen - e.sgot.length - onWay b c e.seq

/-- Bytes of a stream reach the execution that takes them, over the ring from a port of another quadrant (R19, R183). -/
def giveStream (b : Block) (c port seq : Nat) (d : Bytes) : Block :=
  if d.isEmpty then b
  else match ringBack (quadOfCtx c) (quadOfPort port) with
    | [] => modExec b c seq fun e => { e with sgot := e.sgot ++ d }
    | path => ringSend b c (ceilDiv d.length 256) (.ingress c seq d) path

/-- Takes ring bytes up to `n` in all for an execution. (DEDUCED, log 63) -/
def pullRing (b : Block) (c : Nat) (e : Exec) (n : Nat) : Block :=
  match upRing b (b.ctx c) with
  | none => b
  | some (k, i, r) =>
    let (d, rest) := takeSlots (n - e.sgot.length) r.full
    modExec (setRing b k i { r with full := rest }) c e.seq fun e => { e with sgot := e.sgot ++ d }

/-- Takes the bytes left over from a stream's last beat. -/
def pullStream (b : Block) (c : Nat) (e : Exec) : Block :=
  let p := b.sport (iSport e.ins)
  match p.openNos.find? fun o => o.1 == e.snum with
  | none => b
  | some (_, o) =>
    if !mayTake b c e then b
    else
      let n := wants b c e
      let b := b.setSport (iSport e.ins)
        { p with openNos := Tab.insert p.openNos e.snum { o with inbuf := o.inbuf.drop n } }
      giveStream b c (iSport e.ins) e.seq (o.inbuf.take n)

end Sys2Proof.Machine
end

