-- ==== Sys2Proof/Machine/LinkEncode.lean ====
section
/-! DEFINITION. Swatch on link egress: which writes are encoded, the link blocks and their records (R271-R273, R339). -/

namespace Sys2Proof.Machine

/-- Whether an execution's remote writes are encoded (R271). -/
def encodes (e : Exec) : Bool :=
  iOp e.ins != opReduce && e.src.compressed && iSkind e.ins == 0 && [clsPlaintext, clsScale, clsIndex].contains e.dst.cls

/-- The records of R273. (DEDUCED, log 85) -/
def codebookRecord (k : Encoder) : Bytes := natLe 8 (1 + k.cbits * 2 ^ 8) ++ sliceAt k.codebook 0 (8 * 2 ^ k.cbits)

/-- (DEDUCED, log 85) -/
def blockRecord (k : Encoder) : Bytes :=
  let (raw, stored) := encodeStored k.cbits k.codebook k.data
  natLe 8 (2 + b2n raw * 2 ^ 4 + (k.data.length - 1) * 2 ^ 8 + stored.length / 64 * 2 ^ 20) ++ stored

/-- (DEDUCED, log 85) -/
def endRecord : Bytes := natLe 8 3

/-- Sends a codebook or end record on a port: no address and no answer. -/
def sendRecord (b : Block) (p chip : Nat) (coll : Bool) (rec_ : Bytes) : Block :=
  let dl := match routeTo b chip with | .send _ d => b2n d | _ => 0
  let m := natLe 8 0 ++ rec_
  let n := ceilDiv m.length 256
  let ps := payloads n m
  enqueue b p ((List.range n).map fun i =>
    { vc := if coll then vcColl else vcReq, dl := dl, eom := decide (i + 1 = n), op := opSwatch, dst := chip, src := b.setup.chipId, rix := 0
      vi := 0, ksel := 0, addr := 0, aux := 0, hops := 0, payload := ps.getD i [] })

/-- Closes the open link block of a port: its record goes as one request. -/
def closeBlock (b : Block) (p : Nat) : Block :=
  match (b.link p).encoder with
  | none => b
  | some k =>
    match k.accs with
    | [] => b
    | a :: rest =>
      let b := b.modLink p fun l => { l with encoder := some { k with data := [], accs := [] } }
      sendRemote b { acc := a, chip := k.chip, op := opSwatch, group := remGroup b a, also := rest
                     record := blockRecord k }

/-! ### The end of a record stream (R272, R273) -/

/-- A block record of an encoder to a chip has not left: its end record comes after it. -/
def blockHeld (b : Block) (k : Encoder) (chip : Nat) : Bool :=
  b.held.any fun r => r.op == opSwatch && r.chip == chip && r.acc.owner.ctx == some k.ctx && r.acc.owner.seq == some k.seq

/-- Sends the end records that are due behind their last blocks; an encoder with no record stream open is free. -/
def sendEnds (b : Block) (p : Nat) : Block :=
  match (b.link p).encoder with
  | none => b
  | some k =>
    let now := k.chips.filter fun e => k.ends.contains e.1 && !blockHeld b k e.1
    let k := { k with chips := k.chips.filter fun e => !now.contains e }
    let b := b.modLink p fun l => { l with encoder := if k.chips.isEmpty && k.accs.isEmpty then none else some k }
    now.foldl (fun b e => sendRecord b p e.1 e.2 endRecord) b

/-- The record streams of an encoder to some chips end: an open block towards one of them closes first. -/
def endChips (b : Block) (p : Nat) (which : Nat → Bool) : Block :=
  match (b.link p).encoder with
  | none => b
  | some k =>
    let b := if which k.chip then closeBlock b p else b
    sendEnds (b.modLink p fun l => { l with encoder := l.encoder.map fun k =>
      { k with ends := (k.chips.map (·.1)).filter fun c => which c || k.ends.contains c } }) p

/-- The chip a VA of an instance lies on. -/
def chipOf (b : Block) (vi va : Nat) : Option Nat :=
  (pageOf b none vi va).map fun p => bitsOf p.1 63 48

/-- Whether an execution has a write to a chip still to reach its link (R272): of a unit not transformed yet, a burst not
issued, a merge whose read is under way, or data on the ring. -/
def moreTo (b : Block) (c : Nat) (e : Exec) (chip : Nat) : Bool :=
  let on := fun (va : Nat) => chipOf b (b.ctx c).vi va == some chip
  let mine := fun (a : Acc) => a.owner.ctx == some c && a.owner.seq == some e.seq
  e.units.any (fun u => match u.phase with
    | .waiting => u.elems.any fun x => on (x.dst / 2)
    | .reading => u.elems.any fun x => on (x.dst / 2)
    | .writing => u.writes.any fun w => on w.va
    | _ => false) ||
    (openReqs b).any (fun r => r.chip == chip && mine r.acc && r.acc.write && (r.op == opRead || r.enc)) ||
    (ringItems b).any fun i => match i.load with
      | .encode _ k a => k == chip && mine a
      | _ => false

/-- Ends the record streams of an execution that has no further write to their chips, or is gone. -/
def endDone (b : Block) (p : Nat) : Block :=
  match (b.link p).encoder with
  | none => b
  | some k =>
    match b.exec? k.ctx k.seq with
    | none => endChips b p fun _ => true
    | some e => endChips b p fun chip => !moreTo b k.ctx e chip

/-! ### Writes into the encoder (R272) -/

/-- One write of the holder has reached the link: it joins the open block, or closes it and opens another. -/
def intoBlock (b : Block) (p chip : Nat) (e : Exec) (c : Nat) (a : Acc) : Block :=
  let fresh : Encoder := { ctx := c, seq := e.seq, chip := chip, chips := [], ends := [], cbits := e.swatch.cbits
                           codebook := e.swatch.codebook, addr := 0, data := [], accs := [] }
  let k := (b.link p).encoder.getD fresh
  let pa := a.gran * 256 + a.off
  let gap := !k.accs.isEmpty && (k.chip != chip || k.addr + k.data.length != pa)
  let b := if gap then closeBlock b p else b
  let k := ((b.link p).encoder.getD fresh)
  let coll := (remGroup b a).isSome
  let b := if k.chips.any fun e => e.1 == chip then b else sendRecord b p chip coll (codebookRecord k)
  let k := { k with
    chips := if k.chips.any fun e => e.1 == chip then k.chips else k.chips ++ [(chip, coll)]
    ends := k.ends.filter (· != chip), chip := chip
    addr := if k.accs.isEmpty then pa else k.addr
    data := k.data ++ sliceAt a.data a.off a.len, accs := k.accs ++ [a] }
  let b := b.modLink p fun l => { l with encoder := some k }
  endDone (if (pa + a.len) % 4096 = 0 then closeBlock b p else b) p

/-- A write of an encoding execution has reached its link: encoded while the encoder is free or its own, else sent as it is
(R272). -/
def encodeArrive (b : Block) (p chip : Nat) (a : Acc) : Block :=
  let plain := fun (b : Block) => sendRemoteFrom (some (quadOfPort p)) b
    { acc := a, chip := chip, op := opOfAcc a, group := remGroup b a }
  match a.owner.ctx, a.owner.seq with
  | some c, some s =>
    let own := (b.link p).encoder.any fun k => k.ctx == c && k.seq == s
    let b := if own then b else endDone b p
    match b.exec? c s, (b.link p).encoder with
    | none, _ => plain b
    | some e, none => intoBlock b p chip e c a
    | some e, some k => if k.ctx = c && k.seq = s then intoBlock b p chip e c a else plain b
  | _, _ => plain b

/-- Takes one write towards the encoder of its link, over the ring from another quadrant; with no ready port, or earlier writes
held, it is held for the encoder; none when it goes unencoded (R271). -/
def encodeWrite (b : Block) (c : Nat) (e : Exec) (a : Acc) (chip : Nat) : Option Block :=
  let r : RemReq := { acc := a, chip := chip, op := opWrite, group := remGroup b a, enc := true }
  if !encodes e || !(a.rmw.isNone || (a.merges && a.combined)) then none
  else match routeTo b chip with
    | .send p _ =>
      if waitsTurn b r then some (holdReq b r)
      else match ringPath (quadOfCtx c) (quadOfPort p) with
        | [] => some (encodeArrive b p chip a)
        | path => some (ringSend b c 1 (.encode p chip a) path)
    | .notReady => some (holdReq b r)
    | _ => none

/-- A write of an execution goes: encoded where its execution's writes are, else as it is (R142, R271). -/
def sendWrite (b : Block) (a : Acc) (chip : Nat) : Block :=
  match a.owner.ctx, a.owner.seq with
  | some c, some s =>
    match b.exec? c s with
    | some e => (encodeWrite b c e a chip).getD (remoteAcc b a chip)
    | none => remoteAcc b a chip
  | _, _ => remoteAcc b a chip

/-! ### What was held -/

/-- Tries a held request again. -/
def sendHeld (b : Block) (r : RemReq) : Block := if r.enc then sendWrite b r.acc r.chip else sendRemote b r

/-- Tries the held requests and messages again. -/
def releaseHeld (b : Block) : Block :=
  let l := b.held
  releaseHeldFlits (l.foldl sendHeld { b with held := [] })

/-- What was held goes out, and end records whose last blocks have left follow them (R89, R272). -/
def releaseAll (b : Block) : Block := (List.range 8).foldl sendEnds (releaseHeld b)

/-- An execution has issued a write burst, or ends: its encoders without a further write close and send the end record, and what
waited behind them goes (R272, R306). -/
def endEncoder (b : Block) (c seq : Nat) : Block :=
  let mine := fun (p : Nat) => (b.link p).encoder.any fun k => k.ctx == c && k.seq == seq
  let ports := (List.range 8).filter mine
  if ports.isEmpty then b else releaseAll (ports.foldl endDone b)

/-- LINK_BLOCK_IDLE_CLOSE (R272): 64 cycles without input close the block. -/
def execLinkBlockIdleClose (port : Nat) (s : State) : Host.Outcome State Fault Refusal :=
  lift (fun _ b => releaseAll (endDone (closeBlock b port) port)) s

end Sys2Proof.Machine
end

