-- ==== Sys2Proof/Machine/Lanes.lean ====
section
/-! DEFINITION. Lanes: which unit takes which lane (R181, R185, R191, R266-R268), commit (R200, R201, R237, R238), and the
end of a halt (R176). -/

namespace Sys2Proof.Machine

/-! ### Admission (R181, R185, R191, R268) -/

/-- What a lane holds of a unit: whether the unit is draining, its tile's bytes, whether it decodes. -/
structure Held where
  draining : Bool
  bytes : Nat
  decodes : Bool
  deriving DecidableEq, Repr

/-- The bytes of a unit's tile: its elements, each once whatever its parts and images, without zero positions. -/
def tileBytes (e : Exec) (u : WorkUnit) : Nat :=
  ceilDiv ((u.elems.countP fun x => !x.tail && !x.fill && x.img == 0) * nibsOf e.dst.type) 2

def heldOf (e : Exec) (u : WorkUnit) : Held :=
  { draining := u.phase == .writing, bytes := tileBytes e u, decodes := e.decodes }

/-- What the lanes of a quadrant hold. -/
def lanesHeld (b : Block) (q : Nat) : List (Nat × Held) :=
  b.ctxs.flatMap fun x => if quadOfCtx x.1 = q then
      x.2.execs.flatMap fun e => e.units.filterMap fun u =>
        if u.onLane then u.lane.map fun l => (l, heldOf e u) else none
    else []

/-- Whether a lane has room for a unit: it is empty, or it drains one tile of at most 32 KiB and the unit takes the other
half of its buffer (R191); it holds at most one decode unit (R269). -/
def roomFor (u : Held) : List Held → Bool
  | [] => true
  | [h] => h.draining && decide (h.bytes ≤ 32768) && decide (u.bytes ≤ 32768) && !(h.decodes && u.decodes)
  | _ => false

/-- The first lane after the one that last received a unit that has room and is not fenced (R181). (DEDUCED, log 68) -/
def freeLane (b : Block) (q : Nat) (u : Held) : Option Nat :=
  let held := lanesHeld b q
  let last := b.flt.lastLane.getD q (16 * q + 15) - 16 * q
  ((List.range 16).map fun i => 16 * q + (last + 1 + i) % 16).find? fun l =>
    !b.isFenced .lane l && roomFor u ((held.filter fun h => h.1 == l).map (·.2))

/-- The stream-port sides that units on lanes of a quadrant wait on: lane, port and direction (R185). -/
def portSides (b : Block) (q : Nat) : List (Nat × Nat × Bool) :=
  b.ctxs.flatMap fun x => if quadOfCtx x.1 = q then
      x.2.execs.flatMap fun e => e.units.flatMap fun u =>
        if !u.onLane then []
        else (if e.kindS == 1 && decide (e.sgot.length < u.need) then [(u.lane.getD 0, iSport e.ins, false)] else []) ++
          (if e.kindD == 1 then [(u.lane.getD 0, iDport e.ins, true)] else [])
    else []

/-- Executions of a quadrant that hold a codebook store (R268). -/
def stores (b : Block) (q : Nat) : Nat :=
  ((b.ctxs.filter fun x => quadOfCtx x.1 == q).flatMap fun x => x.2.execs.filter (·.store)).length

/-- The stream, ring, decoder and core conditions for a unit (R181, R185, R268). -/
def sideReady (b : Block) (c : Nat) (e : Exec) (u : WorkUnit) : Bool :=
  let q := quadOfCtx c
  let pl := (portSides b q).filter fun s => some s.1 != freeLane b q (heldOf e u)
  let lanes := fun (l : List (Nat × Nat × Bool)) => (distinct (l.map (·.1))).length
  let on := fun (s : Nat × Bool) => decide (lanes (pl.filter fun l => l.2 == s) < 2) && decide (lanes pl < 8)
  let sp := e.kindS != 1 || decide (u.need ≤ e.sgot.length) || on (iSport e.ins, false)
  let dp := e.kindD != 1 || on (iDport e.ins, true)
  let sr := e.kindS != 2 || (match upRing b (b.ctx c) with
    | some (_, _, r) => mayTake b c e && (r.eoc || decide (u.need ≤ e.sgot.length + r.full.flatten.length))
    | none => false)
  let dr := e.kindD != 2 || (match downRing b (b.ctx c) with
    | some (_, _, r) => decide (unitEnd e u - e.outNext ≤ r.free) &&
        !((b.ctx c).execs.any fun f => decide (f.seq < e.seq) && f.kindD == 2 && decide (f.outNext < f.outLen))
    | none => false)
  let held := (e.kindS == 1 && sideDomain b c (iSport e.ins) == .hold) ||
    (e.kindD == 1 && sideDomain b c (iDport e.ins) == .hold)
  !held && sp && dp && sr && dr && (!e.decodes || e.store || decide (stores b q < 4)) &&
    (iOp e.ins != opExpand || coreReady b q)

/-- The number one past the bursts an execution may issue: 64 from its lowest burst not complete, so that the resume mask
holds every one that completes (R176, R177). (DEDUCED, log 62) -/
def windowEnd (e : Exec) : Nat := (resumePoint e.doneBursts).1 + 64

/-- The next waiting unit of an execution; colliding SCATTER slices go in no stated order, within the window (R246). -/
def nextUnit (b : Block) (e : Exec) : Option WorkUnit :=
  let l := e.units.filter fun u => u.phase == .waiting
  let r := l.filter fun u => decide (u.firstBurst < windowEnd e)
  if e.race && 1 < r.length then r[Config.freeChoice b.free % r.length]? else l.head?

/-- The unit that takes the next lane of a quadrant, and the lane: the lowest context's, in program order.
(DEDUCED, log 68) -/
def nextAdmitted (b : Block) (q : Nat) : Option (Nat × Exec × WorkUnit × Nat) :=
  ((List.range 64).map (64 * q + ·)).findSome? fun c =>
    if !canIssue b c then none
    else (b.ctx c).execs.findSome? fun e =>
      if e.stopped then none
      else match nextUnit b e with
        | some u => if sideReady b c e u then (freeLane b q (heldOf e u)).map fun l => (c, e, u, l) else none
        | none => none

/-- Contexts of a quadrant with a unit left to issue. -/
def withUnits (b : Block) (q : Nat) : List Nat :=
  ((List.range 64).map (64 * q + ·)).filter fun c => (b.ctx c).execs.any fun e =>
    !e.stopped && e.units.any fun u => u.phase == .waiting

/-- A unit enters its lane, with the store, decoders and cores it needs. (DEDUCED, log 68) -/
def enterLane (b : Block) (q l c : Nat) (e : Exec) (u : WorkUnit) : Block :=
  let b : Block := { b with flt := { b.flt with lastLane := setAt b.flt.lastLane q l }
                            free := if e.race then b.free + 1 else b.free }
  let off := (e.kindS == 1 && sideDomain b c (iSport e.ins) == .fail) ||
    (e.kindD == 1 && sideDomain b c (iDport e.ins) == .fail)
  let short := e.decodes && (unitBlocks e.src u.elems).any fun j => (blockStored e.swatch j).isNone
  match (if off then some (.domainOff, 0) else if short then some (.bounds, 0) else u.fail) with
  | some f => failUnit b c e.seq u.n f
  | none =>
    let b := modUnit b c e.seq u.n fun u => { u with phase := .reading, lane := some l, onLane := true }
    let b := handStreams (takeStore b c e u) c e u
    let b := if e.kindS = 2 then pullRing b c e u.need else if e.kindS = 1 then pullStream b c e else b
    match b.exec? c e.seq with
    | none => b
    | some e' =>
      if e.kindS = 2 && e'.sgot.length < u.need then failUnit b c e.seq u.n (.bounds, 0)
      else tryTransform b c e.seq u.n

/-- A context none of whose units holds a lane waits for its ring (R173). -/
def waitRings (b : Block) (q : Nat) : Block :=
  (withUnits b q).foldl (fun b c =>
    let x := b.ctx c
    let held := x.execs.any fun e => e.units.any fun u => u.onLane || u.phase == .writing
    let ring := x.execs.any fun e => (e.kindS == 2 || e.kindD == 2) && (match nextUnit b e with
      | some u => !sideReady b c e u
      | none => false)
    if canIssue b c && x.st == .running && x.wait.isNone && !held && ring then
      b.setCtx c { x with st := .waiting, wait := some .ring }
    else b) b

/-- Resumed executions go on (R177), and units that wait for a decoder try again (R267). -/
def refresh (b : Block) (q : Nat) : Block :=
  (b.ctxs.filter fun x => quadOfCtx x.1 == q).foldl (fun b x => tryUnits (resumeNext b x.1) x.1) b

/-- UNIT_ADMISSION: the next waiting unit of the quadrant takes a lane. -/
def unitAdmission (q : Nat) (b : Block) : Block :=
  if !quadUp b q then b
  else if quadFenced b q then (withUnits b q).foldl (fun b c => haltBegin b c .taskAborted 0) b
  else
    let b := refresh b q
    match nextAdmitted b q with
    | some (c, e, u, l) => enterLane b q l c e u
    | none => waitRings b q

def execUnitAdmission (quadrant : Nat) (s : State) : Host.Outcome State Fault Refusal :=
  lift (fun _ b => unitAdmission quadrant b) s

/-- RING_SLOT_HANDOVER (R173): a slot published or freed lets a waiting stage go on. -/
def ringHandover (c : Nat) (b : Block) : Block :=
  let x := b.ctx c
  let ready := x.execs.any fun e => match nextUnit b e with
    | some u => (e.kindS == 2 || e.kindD == 2) && sideReady b c e u
    | none => false
  if canIssue b c && x.st == .waiting && x.wait == some .ring && ready then
    b.setCtx c { x with st := .running, wait := none }
  else b

def execRingSlotHandover (ctx : Nat) (s : State) : Host.Outcome State Fault Refusal :=
  lift (fun _ b => ringHandover ctx b) s

/-! ### Commit (R200, R201, R237, R238) -/

/-- Every output of the unit has been delivered. -/
def delivered (b : Block) (c : Nat) (e : Exec) (u : WorkUnit) : Bool :=
  u.phase == .writing && u.writes.isEmpty && (unitAccs b c e.seq u.n true).isEmpty &&
    (match e.kindD with
      | 0 => u.elems.isEmpty || (List.range u.nBursts).all fun k => e.doneBursts.contains (u.firstBurst + k)
      | 1 => decide (unitEnd e u ≤ e.sent)
      | _ => decide (unitEnd e u ≤ e.outNext))

/-- Some unit of a context waits only for its commit. (DESIGN CHOICE, log 67) -/
def commits (b : Block) (c : Nat) : Bool := (b.ctx c).execs.any fun e => !e.stopped && e.units.any (delivered b c e)

/-- Merges a unit's statistics into the record of its destination canvas, while that canvas stands (R237). -/
def mergeInto (b : Block) (e : Exec) (st : Stats) : Block :=
  let x := b.slot e.dstSlot
  if x.used && x.uses == e.dstUses then
    b.setSlot e.dstSlot { x with stats := mergeStats x.stats st }
  else b

/-- The lanes a mismatch charges: of the closed units whose pairs differ, else of all (R201). -/
def chargedLanes (e : Exec) : List Nat :=
  let bad := if e.closed then e.units.filter fun u => u.dsrc != u.ddst else []
  ((if bad.isEmpty then e.units else bad).filterMap (·.lane)).eraseDups

/-- A request line is free once the execution it paces is done with it, unless its context has taken it again (R164). -/
def freeLine (b : Block) (c seq l : Nat) : Block :=
  let kept := (b.ctx c).paced == some l || (b.ctx c).execs.any fun f => f.seq != seq && f.line == some l
  if (b.line l).pacing = some c && !kept then b.setLine l { b.line l with pacing := none } else b

/-- The last unit of an execution has committed: the sums are compared, a step may end, the request line and the codebook
store are free. -/
def endExec (b : Block) (c : Nat) (e : Exec) : Block :=
  let b := stepEnd b e
  let b := endEncoder b c e.seq
  let b := match e.line with
    | some l => freeLine b c e.seq l
    | none => b
  if e.dsrc = e.ddst then b.modCtx c fun x => { x with execs := x.execs.filter fun f => f.seq != e.seq }
  else
    let b := (chargedLanes e).foldl (fun b l =>
      raise b (14 + quadOfLane l) l (status := .digestMismatch) (vi := (b.ctx c).vi) (ctx := c)) b
    haltBegin (modExec b c e.seq fun f => { f with mismatch := true, store := false }) c .digestMismatch 0 0 (some e.seq)

def unitCommit (c seq n : Nat) (b : Block) : Block :=
  match b.exec? c seq with
  | none => b
  | some e =>
    match e.unit? n with
    | none => b
    | some u =>
      if e.stopped || !delivered b c e u then b
      else
        let b := mergeInto b e u.stats
        let nums := (List.range u.nBursts).map (u.firstBurst + ·)
        let b := modExec b c seq fun e =>
          { e with dsrc := digestAdd e.dsrc u.dsrc, ddst := digestAdd e.ddst u.ddst
                   doneBursts := e.doneBursts ++ nums.filter fun k => !e.doneBursts.contains k }
        let b := releaseLanes (modUnit b c seq n fun u => { u with phase := .committed }) c
        match b.exec? c seq with
        | none => b
        | some e => if e.units.all fun u => u.phase == .committed then endExec b c e else b

def execUnitCommit (ctx seq unit : Nat) (s : State) : Host.Outcome State Fault Refusal :=
  lift (fun _ b => unitCommit ctx seq unit b) s

/-! ### HALT (R176) -/

/-- Whether a halt's accesses have all answered and the units they delivered have committed. (DEDUCED, log 72) -/
def halted (b : Block) (c : Nat) : Bool := (b.ctx c).halting.isSome && (ctxAccs b c).isEmpty && !commits b c

/-- HALT: once its accesses have answered, a halting context stops (R176). -/
def execHalt (ctx : Nat) (s : State) : Host.Outcome State Fault Refusal :=
  lift (fun _ b => if halted b ctx then
      finishHalt ((b.ctx ctx).execs.foldl (fun b e => endEncoder b ctx e.seq) b) ctx else b) s

end Sys2Proof.Machine
end

