-- ==== Sys2Proof/Machine/Grants.lean ====
section
/-! DEFINITION. The context arbiters: which burst a context asks for, what holds it up, and what its grant does (R56,
R159-R161, R164, R176, R194, R282, R288, R300, R358, R368, R371, R373). -/

namespace Sys2Proof.Machine

/-! ### Bursts asked for -/

/-- A burst a context may issue next on a path: a source run, or a destination burst. -/
structure Cand where
  exec : Exec
  unit : Nat
  va : Nat
  len : Nat
  cls : Nat
  cached : Bool
  burst : Option Burst

/-- Whether a run is of the scale canvas (R234). -/
def isScaleRun (e : Exec) (r : Run) : Bool := e.cast == .expand && r.cls == clsScale

/-- The next read burst of a context. (DESIGN CHOICE, log 67) -/
def readCand (x : Ctx) : Option Cand :=
  x.execs.findSome? fun e => if e.stopped then none else
    e.units.findSome? fun u => if u.phase != .reading then none else
      u.runs.head?.map fun r =>
        { exec := e, unit := u.n, va := r.va, len := r.len, cls := r.cls, burst := none
          cached := if isScaleRun e r then (e.scale.map (·.cached)).getD false else e.src.cached }

/-- The destination bursts an execution may issue. -/
def writeBursts (e : Exec) : List Cand :=
  e.units.flatMap fun u => if u.phase != .writing then [] else u.writes.map fun w =>
    { exec := e, unit := u.n, va := w.va, len := w.data.length, cls := e.dst.cls, cached := e.dst.cached
      burst := some w }

/-- The next write burst of a context within its execution's window (R176), of an AUTOMORPH's column unit in the order its
images drain, whatever its number (R205); colliding SCATTER slices go in no stated order
(R246). (DESIGN CHOICE, log 67) -/
def writeCand (b : Block) (x : Ctx) : Option Cand :=
  x.execs.findSome? fun e => if e.stopped then none else
    let l := (writeBursts e).filter fun k => k.burst.any fun w =>
      decide (w.num < windowEnd e) || (iOp e.ins == opAutomorph && e.closed)
    if e.race && 1 < l.length then l[Config.freeChoice b.free % l.length]? else l.head?

/-- What the access needs of its leaf (R282, R283). (DEDUCED, log 70) -/
def Cand.need (k : Cand) : Need :=
  { rd := k.burst.isNone || iOp k.exec.ins == opReduce, wr := k.burst.isSome, cls := k.cls, len := k.len }

/-- Whether a paced instruction paces this burst (R164). -/
def Cand.paced (k : Cand) : Bool :=
  k.exec.line.isSome &&
    (if k.burst.isNone then !k.exec.src.compressed && k.cls == k.exec.src.cls
     else k.exec.kindS != 0 || iOp k.exec.ins == opExpand)

/-- Granules of a run of bytes. -/
def granCount (va len : Nat) : Nat := (va + len + 255) / 256 - va / 256

/-- The pieces of a burst, granule by granule. -/
def Cand.pieces (k : Cand) : List (Nat × Nat) := Machine.pieces (k.len / 256 + 2) k.va k.len

/-- What the power domains do to a burst at a physical address (R371, R373). -/
def burstDomain (b : Block) (c : Nat) (k : Cand) (pa : Nat) : DomEffect :=
  let es := k.pieces.map fun p =>
    let a := pa + (p.1 - k.va)
    let l := a % 2 ^ 48
    if !isLocalChip b (bitsOf a 63 48) then .pass
    else domEffect b (domainsOf b (if inWindow l then none else channelOf b l) (some l)) (fun _ => (b.ctx c).failPolicy)
  if es.contains .hold then .hold else if es.contains .fail then .fail else .pass

/-- Whether a context is a prefetch context (R367, R368). -/
def isPrefetch (b : Block) (x : Ctx) : Bool :=
  let t := (b.vinst x.vi).tpl
  x.vi != 0 && t.pfWmax != 0 && decide (x.weight ≤ t.pfWmax)

/-- The port of a burst to another chip has no free remote index (R330, R366). -/
def noIndex (b : Block) (pa : Nat) : Bool :=
  !isLocalChip b (bitsOf pa 63 48) && (match routeTo b (bitsOf pa 63 48) with
    | .send p _ => (freeRix (b.link p)).isNone
    | _ => false)

/-- The burst with which a context waits at its arbiter (R160, R290, R300, R358, R366, R368). -/
def waitingBurst (b : Block) (c : Nat) (write : Bool) : Option Cand :=
  let x := b.ctx c
  if !canIssue b c || x.st != .running || x.walk.isSome || decide (64 ≤ burstsOut b c) then none
  else match (if write then writeCand b x else readCand x) with
    | none => none
    | some k =>
      let fenced := match x.fence with
        | some f => (write || f.sc) && decide (f.seq ≤ k.exec.seq)
        | none => false
      let line := !k.paced || (match k.exec.line with | some l => (b.line l).held | none => true)
      let tokens := write || !isPrefetch b x || decide (granCount k.va k.len ≤ (b.vinst x.vi).bucket)
      let beats := !write || decide (granCount k.va k.len ≤ beatsLeft b (quadOfCtx c))
      let held := match (xlBurst b (quadOfCtx c) x.vi k.va k.need).1 with
        | .ok pa _ => burstDomain b c k pa == .hold || noIndex b pa
        | _ => false
      if fenced || !line || !tokens || !beats || held then none else some k

def waitingCtxs (b : Block) (q : Nat) (write : Bool) : List Nat :=
  ((List.range 64).map (64 * q + ·)).filter fun c => (waitingBurst b c write).isSome

/-! ### Issuing -/

/-- One granule of source run `run`. -/
def issueRead (c : Nat) (k : Cand) (run pa ksel : Nat) (b : Block) (p : Nat × Nat) : Block :=
  let a := mkAcc (.unitRead c k.exec.seq k.unit run) false (granOf (pa + (p.1 - k.va))) (p.1 % 256) p.2 p.1 (b.ctx c).vi ksel
    [] []
  issueGran b c k.cached (pa + (p.1 - k.va)) a

/-- The read-modify-write a granule of a destination burst needs (R142, R220). -/
def rmwOf (e : Exec) (w : Burst) (va : Nat) (mask : Bytes) : Option Rmw :=
  if iOp e.ins = opReduce then
    some (.reduce (iMode e.ins) e.dst.type
      ((w.red.filter fun r => decide (r.off / 256 = va / 256)).map fun r => { r with off := r.off % 256 }))
  else if mask.all fun m => m == 0 || m == 0xFF then none else some .merge

/-- One granule of a destination burst. -/
def issueBurst (c : Nat) (k : Cand) (w : Burst) (pa ksel : Nat) (b : Block) (p : Nat × Nat) : Block :=
  let d := sliceAt w.data (p.1 - w.va) p.2
  let m := sliceAt w.mask (p.1 - w.va) p.2
  let at_ := pa + (p.1 - k.va)
  let o := Owner.unitWrite c k.exec.seq k.unit w.num
  let a := { mkAcc o true (granOf at_) (p.1 % 256) p.2 p.1 (b.ctx c).vi ksel (placeIn (p.1 % 256) d)
      (placeIn (p.1 % 256) m) with rmw := rmwOf k.exec w p.1 m }
  let chip := bitsOf at_ 63 48
  let coded := if isLocalChip b chip then none
    else encodeWrite (noteWrite (participate b c at_) c (1000 + chip) a) c k.exec a chip
  match coded with
  | some b => b
  | none => issueGran b c k.cached at_ a

/-- A burst whose writes have all been acknowledged is complete (R176). (DESIGN CHOICE, log 67) -/
def burstDone (b : Block) (c seq n num : Nat) : Block :=
  match b.exec? c seq with
  | none => b
  | some e =>
    let open_ := (unitAccs b c seq n true).any fun a => a.owner == .unitWrite c seq n num
    let queued := (e.unit? n).any fun u => u.writes.any fun w => w.num == num
    if open_ || queued || e.badBursts.contains num || e.doneBursts.contains num then b
    else modExec b c seq fun e => { e with doneBursts := e.doneBursts ++ [num] }

/-- The pulse on the request line of a paced burst; after the last one the line is free (R56, R164). -/
def payLine (b : Block) (c : Nat) (k : Cand) : Block :=
  match k.paced, k.exec.line with
  | true, some l =>
    let b := b.setLine l { b.line l with held := false, ack := true }
    (match b.exec? c k.exec.seq with
      | none => b
      | some e =>
        let more := if k.burst.isNone then e.units.any fun u => u.runs.any fun r => r.cls == e.src.cls else !allIssued e
        if more then b
        else freeLine (modExec b c e.seq fun e => { e with line := none }) c e.seq l)
  | _, _ => b

/-- A burst is granted: its arbiter is charged, its granules are issued. -/
def issueCand (b : Block) (c : Nat) (k : Cand) (pa ksel : Nat) : Block :=
  let write := k.burst.isSome
  let path := arbPath (quadOfCtx c) write
  let b := b.setArb (arbCtx (quadOfCtx c)) ((b.arbAt (arbCtx (quadOfCtx c))).charge (weightOf b) c)
  let b := if write then countBeats b (quadOfCtx c) (granCount k.va k.len) else b
  let vi := (b.ctx c).vi
  let b := if !write && isPrefetch b (b.ctx c) then
      b.setVinst vi { b.vinst vi with bucket := (b.vinst vi).bucket - granCount k.va k.len }
    else b
  let b := if k.exec.race && write then { b with free := b.free + 1 } else b
  let b := match k.burst with
    | none =>
      let run := match k.exec.unit? k.unit with | some u => u.runs.length | none => 0
      let b := modUnit b c k.exec.seq k.unit fun u => { u with runs := u.runs.tail }
      unitArrived (k.pieces.foldl (issueRead c k run pa ksel) b) c k.exec.seq k.unit
    | some w =>
      let b := k.pieces.foldl (issueBurst c k w pa ksel) b
      let b := modUnit b c k.exec.seq k.unit fun u => { u with writes := u.writes.filter fun v => v.num != w.num }
      endEncoder (releaseLanes (burstDone b c k.exec.seq k.unit w.num) c) c k.exec.seq
  let more := match b.exec? c k.exec.seq with
    | some e => if write then !allIssued e else e.units.any fun u => !u.runs.isEmpty
    | none => false
  let b := b.setArb path ((b.arbAt path).relock c (iLock k.exec.ins) more)
  payLine b c k

/-- The grant of a context's burst: translated, checked, and issued, or a walk, a wait or a halt. -/
def grantBurst (b : Block) (c : Nat) (k : Cand) : Block :=
  match xlBurst b (quadOfCtx c) (b.ctx c).vi k.va k.need with
  | (.miss, b) => startWalk b (.burst c k.exec.seq k.va) (b.ctx c).vi k.va
  | (.fail s, b) => haltBegin b c s k.va 0 (some k.exec.seq)
  | (.ok pa ksel, b) =>
    if burstDomain b c k pa = .fail then haltBegin b c .domainOff k.va 0 (some k.exec.seq)
    else
      match prepareAll k.cached (k.pieces.map fun p => (pa + (p.1 - k.va), ksel)) b with
      | (b, true) => b
      | (b, false) => issueCand b c k pa ksel

/-- The contexts with a burst waiting on either path: those that wait at the quadrant's arbiter. -/
def waitingAt (b : Block) (q : Nat) : List Nat := (waitingCtxs b q false ++ waitingCtxs b q true).eraseDups

/-- A path after a slot begins: a locked sequence ends at the first slot in which its owner has no burst waiting (R359). -/
def Arb.unlock (p : Arb) (waiting : List Nat) : Arb :=
  match p.lock with
  | some (o, _) => if waiting.contains o then p else { p with lock := none }
  | none => p

/-- One grant slot of a path of a quadrant's context arbiter. -/
def grantCtx (b : Block) (q : Nat) (write : Bool) : Block :=
  if !quadUp b q then b
  else
    let w := waitingCtxs b q write
    let arb := (b.arbAt (arbCtx q)).unmark (waitingAt b q)
    let path := (b.arbAt (arbPath q write)).unlock w
    let b := b.setArb (arbCtx q) arb
    match arb.pick path (weightOf b) w with
    | none => b.setArb (arbPath q write) path
    | some c =>
      let b := b.setArb (arbPath q write) (path.slot w c)
      match waitingBurst b c write with
      | none => b
      | some k => grantBurst b c k

end Sys2Proof.Machine
end

