-- ==== Sys2Proof/Machine/Instances.lean ====
section
/-! DEFINITION. Instances: creation, reset and destruction (R109-R111, R115, R116, R286, R287, R312), what ends when
accesses end (R115, R178, R387), the 4 µs bound on open writes, and the fencing of a channel (R295, R296, R312, R419). -/

namespace Sys2Proof.Machine

/-! ### Requests from other chips (R313, R337, R338) -/

/-- A request received over a link has been served: it is answered. -/
def answerRemote (b : Block) (a : Acc) (st : Status) (d : Option Bytes) : Block :=
  match a.owner with
  | .remote port rix chip _ true => sendAnswer b { port := port, rix := rix, chip := chip, status := st, data := d }
  | _ => b

/-- Presents a checked request: a window access waits for its Palette bank, another goes to its channel. -/
def presentRemote (b : Block) (a : Acc) : Block :=
  let o := a.gran * 256 - windowBase
  if inWindow (a.gran * 256) then palSend b (regionOf (o / 4096)) a (some o) else formAcc b a

/-- An ordered stream goes on once its first request has ended (R338). -/
def pumpStream (k : Nat) : Nat → Block → Block
  | 0, b => b
  | n + 1, b =>
    match b.streams.get [] k with
    | [] => b
    | a :: rest =>
      if (allAccs b).any fun x => x.owner == a.owner then b
      else
        let b : Block := { b with streams := b.streams.put [] k rest }
        pumpStream k n (match rest with | [] => b | x :: _ => presentRemote b x)

def pumpStreams (b : Block) : Block :=
  b.streams.foldl (fun b e => pumpStream e.1 (e.2.length + 1) b) b

/-! ### Key slots (R387) -/

/-- Accesses under way with a key selector, other than those made for other chips. -/
def keyInUse (b : Block) (k : Nat) : Bool :=
  (allAccs b ++ remoteAccs b).any fun a => a.ksel == k && a.vi != 0

/-- Dirty lines that record a key selector. -/
def dirtyUnder (b : Block) (k : Nat) : List (Nat × Line) :=
  b.pal.lines.filter fun e => e.2.ksel == k && e.2.dirty && (b.keySlot k).vi == e.2.vi

/-- Writes back and invalidates the dirty lines of a slot; zeroes it once nothing uses it. -/
def settleKey (b : Block) (k : Nat) : Block :=
  let s := b.keySlot k
  match s.revoked, s.owed with
  | true, some r =>
    let b := (dirtyUnder b k).foldl (fun b e => startWriteback b e.1 (.writeback none) true) b
    if (dirtyUnder b k).isEmpty && !keyInUse b k then complete (b.setKeySlot k {}) r .ok 0 0 else b
  | _, _ => b

def settleKeys (b : Block) : Block :=
  (b.sec.keys.filter fun e => e.2.revoked).foldl (fun b e => settleKey b e.1) b

/-! ### Steps of R115 -/

/-- Writes of an instance still open on this block. -/
def openWrites (b : Block) (v : Nat) : List Acc :=
  (allAccs b ++ remoteAccs b).filter fun a => a.write && a.vi == v && !a.remoteClass && a.owner != .discard

/-- Contexts bound for an instance. -/
def ctxsOf (b : Block) (v : Nat) : List Nat := (b.ctxs.filter fun e => e.2.st != .free && e.2.vi == v).map (·.1)

/-- Steps 1 to 3: the generation moves on, the contexts stop, their reads are discarded, walks serve nobody (R287). -/
def beginReset (b : Block) (v : Nat) (destroy : Bool) (r : Reply) : Block :=
  let i := b.vinst v
  let b := b.setVinst v { i with gen := (i.gen + 1) % 65536, stage := 4, destroying := destroy, owed := [r] }
  let b := (ctxsOf b v).foldl stopCtx b
  { b with xl := { b.xl with walks := b.xl.walks.map fun w =>
      if w.2.vi == v then (w.1, { w.2 with discard := true }) else w } }

/-- Step 5: INSTANCE_RESET in every tracker word, each freed with its write; one whose power domain holds the write stays (R373).
(DEDUCED, log 51) -/
def endTrackers (b : Block) (v : Nat) : Block :=
  let free := fun (b : Block) (t : Nat) =>
    ({ b with rin := { b.rin with trackers := b.rin.trackers.filter fun e => e.1 != t } } : Block)
  (b.rin.trackers.filter fun e => e.2.vi == v).foldl (fun b e => match writeTracker b e.2 .instanceReset with
    | .ok b => free b e.1
    | .error (.held, _) => b
    | .error _ => free b e.1) b

/-- Zeroes a range of the Palette. -/
def zeroPal (b : Block) (o n : Nat) : Block :=
  { b with pal := { b.pal with
      mem := b.pal.mem.filter fun e => decide (e.1 < o) || decide (o + n ≤ e.1)
      badWords := b.pal.badWords.filter fun w => decide (64 * w < o) || decide (o + n ≤ 64 * w) } }

/-- Zeroes and frees the buffers of an instance; their lines go without write-back (R312). -/
def endBuffers (b : Block) (v : Nat) : Block :=
  (b.pal.slots.filter fun e => e.2.alloc && e.2.vi == v).foldl (fun b (u, p) =>
    let b : Block := { b with pal := { b.pal with lines := b.pal.lines.filter fun l => l.2.buf != u } }
    (zeroPal b (u * 4096) (p.units * 4096)).setPslot u
      { p with alloc := false, freeing := false, vi := 0, gen := 0, units := 0, use := 0, owed := none
               epoch := if p.use = 2 then (p.epoch + 1) % 256 else p.epoch
               wbFail := none, wbLost := 0 }) b

/-- Step 6; the buffers go first, so that an unbinding frees none of them in its own way. A command of the instance's mailbox
that is still at work is dropped with the rest. (DEDUCED, log 37) -/
def endResources (b : Block) (v : Nat) : Block :=
  let b := (ctxsOf (endBuffers b v) v).foldl unbind (endBuffers b v)
  let b : Block := { b with
    chains := b.chains.filter fun e => e.2.vi != v
    sports := b.sports.mapVals {} fun _ p => { p with openNos := p.openNos.filter fun e => e.2.vi != v } }
  let b := (b.canv.slots.filter fun e => e.2.used && e.2.vi == v).foldl (fun b e => freeSlot b e.1) b
  let b : Block := { b with rin := { b.rin with
    sqs := b.rin.sqs.filter fun e => e.2.vi != v
    cqs := b.rin.cqs.filter fun e => e.2.vi != v } }
  let b := b.setMbox v { b.mbox v with busy := false, taken := false }
  { b with sec := { b.sec with keys := b.sec.keys.filter fun e => e.2.vi != v } }

/-- Steps 6 and 7, and what R116 lets follow. -/
def endReset (b : Block) (v : Nat) : Block :=
  let i := b.vinst v
  let b := endResources b v
  let j : Vinst := if i.destroying then { gen := i.gen }
    else { i with stage := 0, owed := [], later := [], bucket := i.tpl.depth }
  let b := (if i.destroying then tlbDrop b v else b).setVinst v j
  let b := match i.owed with
    | [] => b
    | r :: rest =>
      rest.foldl (fun b r => complete b r (if i.destroying then .badHandle else .instanceReset) 0 0)
        (complete b r .ok i.gen 0)
  if i.destroying then i.later.foldl (fun b r => complete b r .badHandle 0 0) b
  else match i.later with
    | [] => b
    | r :: rest =>
      let b := beginReset b v true r
      b.setVinst v { b.vinst v with owed := r :: rest }

/-- Step 5 of a reset whose writes have all ended; the steps after it once every tracker word is written and acknowledged. -/
def settleReset (b : Block) (v : Nat) : Block :=
  if (b.vinst v).stage = 0 || !(openWrites b v).isEmpty then b
  else
    let b := nextJob (endTrackers (b.setVinst v { b.vinst v with stage := 5 }) v)
    if (b.rin.trackers.any fun e => e.2.vi == v) || !(openWrites b v).isEmpty then b else endReset b v

/-- Goes on with every reset as far as it can; a destroy that waited for one begins and may end with it (R116). -/
def settleResets (b : Block) : Block :=
  (b.rin.vis.keys ++ b.rin.vis.keys).foldl settleReset b

/-- What the end of an access may end: aborts, resets, key destructions, frees. -/
def settleWrites (b : Block) : Block :=
  let b := pumpStreams b
  tryFrees (settleKeys (settleResets (settleAborts b)))

/-! ### The commands -/

/-- Tenants exist in PROVISIONED and DEPLOYED (R400). (DEDUCED, log 52) -/
def cmdInstanceCreate : Cmd := fun ao b c r =>
  let v := cmdTarget c
  let t := fieldAt c 16 1
  let root := fieldAt c 24 8
  guarded b (if inService ao then none else some .permission)
    (guarded b
      (check b c r .vi0 (if v = 0 || (b.vinst v).live then some .badHandle else none) 0 [(16, 16), (24, 31)]
        (decide (v < 256) && decide (t < b.setup.templates.length) && root % 2048 == 0 && bitsOf root 63 48 == 0xFFFF))
      (let g := ((b.vinst v).gen + 1) % 65536
       let tpl := b.setup.templates.getD t {}
       (b.setVinst v { live := true, gen := g, tpl := tpl, root := root, bucket := tpl.depth }, .now .ok g 0)))

def execInstanceCreate (src : CmdSrc) (s : State) : Host.Outcome State Fault Refusal :=
  lift (serveRow 0x50 cmdInstanceCreate src) s

/-- Existence of an instance target; VI 0 is refused with PERMISSION (R115). -/
def viTarget (b : Block) (v : Nat) : Option Status :=
  if v = 0 then some .permission else if 255 < v || !(b.vinst v).live then some .badHandle else none

def cmdInstanceReset : Cmd := fun _ b c r =>
  let v := cmdTarget c
  guarded b (check b c r .vi0 (viTarget b v) 0 [] true)
    (let i := b.vinst v
     if i.stage ≠ 0 then (b.setVinst v { i with owed := i.owed ++ [r] }, .later)
     else (settleWrites (beginReset (wakeP2 b) v false r), .later))

def execInstanceReset (src : CmdSrc) (s : State) : Host.Outcome State Fault Refusal :=
  lift (serveRow 0x51 cmdInstanceReset src) s

def cmdInstanceDestroy : Cmd := fun _ b c r =>
  let v := cmdTarget c
  guarded b (check b c r .vi0 (viTarget b v) 0 [] true)
    (let i := b.vinst v
     if i.stage = 0 then (settleWrites (beginReset (wakeP2 b) v true r), .later)
     else if i.destroying then (b.setVinst v { i with owed := i.owed ++ [r] }, .later)
     else (b.setVinst v { i with later := i.later ++ [r] }, .later))

def execInstanceDestroy (src : CmdSrc) (s : State) : Host.Outcome State Fault Refusal :=
  lift (serveRow 0x52 cmdInstanceDestroy src) s

/-! ### The 4 µs bound (R115, R178) -/

/-- Whether the bound of a reset or an abort covers an access. -/
def boundCovers (w : WriteBound) (a : Acc) : Bool :=
  a.write && a.owner != .discard && !a.remoteClass &&
    match w with
    | .vi v => a.vi == v
    | .context c => a.owner.ctx == some c

/-- Retires the local writes a bound covers as failed; their tags are quarantined (R42). -/
def retireOpen (b : Block) (cover : Acc → Bool) : Block :=
  let gone := (allAccs b).filter cover
  let chans := b.chans.mapVals {} fun _ c =>
    { c with wwait := c.wwait.filter fun a => !cover a
             rwait := c.rwait.filter fun a => !cover a
             wquar := c.wquar ++ (c.wtags.filter fun e => cover e.2).map (·.1)
             rquar := c.rquar ++ (c.rtags.filter fun e => cover e.2).map (·.1)
             wtags := c.wtags.filter fun e => !cover e.2
             rtags := c.rtags.filter fun e => !cover e.2 }
  let ring := b.ring.mapVals [] fun _ l => l.filter fun i => match i.load with
    | .write a => !cover a
    | _ => true
  gone.foldl (fun b a => failAcc b a .busRetryExhausted) { b with chans := chans, ring := ring }

/-- Whether the bound runs: a reset in step 4, or an abort. -/
def boundRuns (b : Block) : WriteBound → Bool
  | .vi v => (b.vinst v).stage != 0
  | .context c => (b.ctx c).aborting

def execOpenWriteBoundExpiry (w : WriteBound) (s : State) : Host.Outcome State Fault Refusal :=
  lift (fun _ b => if boundRuns b w && !b.boot.startPending then settleWrites (retireOpen b (boundCovers w)) else b) s

/-! ### Fencing a channel (R295, R296, R312, R419) -/

/-- Forms the waiting requests of a channel afresh. -/
def resteer (b : Block) (n : Nat) : Block :=
  let c := b.chan n
  (c.rwait ++ c.wwait).foldl (fun b a => formAcc b { a with tag := none }) (b.setChan n { c with rwait := [], wwait := [] })

/-- A channel is fenced: its island in safe state, its lines dropped, its entries rewritten, its waiting requests
steered afresh. -/
def fenceChan (b : Block) (n : Nat) : Block :=
  if (b.chan n).service == .fenced then b
  else
    let b := b.setHealth .channel n { b.health .channel n with state := .fenced }
    let b := b.modChan n fun c => { c with service := .fenced, capO := 0, capOVld := false, rqOut := none, wqOut := none }
    let b : Block := { b with islands := { b.islands with
      safe := b.islands.safe ||| BitVec.ofNat 38 (2 ^ (5 + n)), alive := b.islands.alive.put false n false } }
    let b := dropLinesOf b n
    resteer (if readyLocal b then rewriteSteering b n else b) n

end Sys2Proof.Machine
end

