-- ==== Sys2Proof/Machine/Channels.lean ====
section
/-! DEFINITION. The memory channels: credits (R38), responses and retries (R41, R175), timeouts and quarantine (R42),
capability words and the mode (R75-R78), and what an answered access does for its owner. -/

namespace Sys2Proof.Machine

/-! ### Answers -/

/-- A FLUSH whose last write-back has ended lets its context go on. -/
def flushEnded (b : Block) (c : Nat) : Block :=
  let x := b.ctx c
  if flushing b c || x.halting.isSome || x.aborting || x.st != .running then b else advance b c

/-- A write of an owner has been acknowledged. -/
def writeDone (b : Block) (a : Acc) : Block :=
  match a.owner with
  | .unitWrite c s n num => releaseLanes (burstDone b c s n num) c
  | .writeback (some c) => flushEnded (writebackDone b a) c
  | .writeback none => writebackDone b a
  | .remote _ _ _ _ _ => answerRemote b a .ok none
  | .record cq n => recordDone b cq n a.va .ok
  | _ => b

/-- Bytes read for an owner. -/
def readDone (b : Block) (a : Acc) (d : Bytes) : Block :=
  match a.owner with
  | .unitRead c s n _ => unitArrived (addGot b c s n a d) c s n
  | .fetch c => startFetch (fetchGot b c a d) c
  | .flag c => flagArrived b c a d
  | .walk i _ => walkData b i a d
  | .recRead r => recAnswer b r a.vi a.va .ok d
  | .remote _ _ _ _ _ => answerRemote b a .ok (some d)
  | _ => b

/-- Read data on its way from a quadrant to its reader: over the ring from another quadrant, by the reverse of the request's
path (R19, R183). -/
def readBack (b : Block) (q : Nat) (a : Acc) (d : Bytes) : Block :=
  match (a.owner.quad.map fun o => ringBack o q).getD [] with
  | [] => readDone b a d
  | path => ringSend b a.owner.ringSource 1 (.read a d) path

/-- Read data on its way from a channel. -/
def readOut (b : Block) (a : Acc) (d : Bytes) : Block := readBack b (quadOfChan a.ch) a d

/-- What serving an access came to. -/
def served (b : Block) (a : Acc) : Served → Block
  | .data d => readOut b a d
  | .written => writeDone b a
  | .queued => b
  | .failed s => failAcc b a s

/-- What an access to the Palette came to: its bank stands beside its reader. -/
def palServed (b : Block) (a : Acc) : Served → Block
  | .data d => readDone b a d
  | s => served b a s

/-- An accepted granule (R41): it fills its line, is combined, or goes to its reader. The write a granule is combined for
counts its own retries (R175). -/
def granRead (b : Block) (a : Acc) (raw : Bytes) : Block :=
  let d := granPlain b a.ch a.gran a.ksel raw
  if a.owner == .discard then b
  else if (match a.owner with | .walk _ _ => untrusted b a.ch | _ => false) then failAcc b a .xlateFault
  else if a.fill then
    match finishFill b a d with
    | (b, s) => served b a s
  else if a.write then pushAcc b { a.combine d with retries := 0 }
  else readOut b a d

/-- An access that met RETRY, ERROR or a timeout: reissued, or failed at its limit (R41, R42, R175); one that then finds its
channel out of service counts that too (R78). -/
def tryAgain (b : Block) (a : Acc) (tag : Option Nat) : Block :=
  match retryAcc b a with
  | some a =>
    let a := { a with tag := tag }
    let c := b.chan a.ch
    if c.service == .fenced then formAcc b { a with tag := none }
    else if c.service == .lost then pushAcc b a
    else if a.reads then b.setChan a.ch { c with rwait := a :: c.rwait }
    else b.setChan a.ch { c with wwait := a :: c.wwait }
  | none =>
    let a := { a with retries := a.retries + 1 }
    if a.owner == .discard then b
    else failAcc (if a.retries ≥ accLimit b a then raiseFail b a .busRetryExhausted else b) a .busRetryExhausted

/-! ### Credits (R38) -/

/-- A channel whose island runs and takes credits. (DESIGN CHOICE, log 5) -/
def chanUp (b : Block) (n : Nat) : Bool :=
  islandUp b (5 + n) &&
    ((b.chan n).service == .offered || (b.chan n).service == .inService || (b.chan n).service == .lost)

def readCredit (n : Nat) (b : Block) : Block :=
  let c := b.chan n
  if !chanUp b n then b
  else if c.rcred = 255 then raise b 37 n
  else b.setChan n { c with rcred := c.rcred + 1 }

def writeCredit (n : Nat) (b : Block) : Block :=
  let c := b.chan n
  if !chanUp b n then b
  else if c.wcred = 255 then raise b 37 n
  else b.setChan n { c with wcred := c.wcred + 1 }

def execMcReadCredit (ch : Nat) (s : State) : Host.Outcome State Fault Refusal := lift (fun _ b => readCredit ch b) s
def execMcWriteCredit (ch : Nat) (s : State) : Host.Outcome State Fault Refusal := lift (fun _ b => writeCredit ch b) s

/-! ### Responses (R41, R42) -/

/-- A read beat for an outstanding access, by the rows of R41. -/
def readBeat (b : Block) (n tag resp : Nat) (data : Bytes) (par : List Bool) (chk : Bytes) (a : Acc) : Block :=
  let b := b.modChan n fun c => { c with rtags := Tab.erase c.rtags tag }
  let bad := fun (b : Block) (st : Status) =>
    if a.owner == .discard then b else failAcc (raiseFail b a st) a st
  if resp = 3 then bad b .uncorrectable
  else
    match (if sym8 b n then Config.symCorrect data chk else some data) with
    | none => bad b .uncorrectable
    | some d =>
      if resp ≠ 0 then tryAgain b a (some tag)
      else if parityOf d ≠ par then bad b .parity
      else granRead (if d = data && (!sym8 b n || Config.symEncode d == chk) then b else raise b 32 n (vi := a.vi) (ctx := (a.owner.ctx).getD 256)
        (detail := a.gran * 256)) a d

/-- Whether a channel still takes responses: its interface has left reset and no start is ordered (R389).
(DESIGN CHOICE, log 5) -/
def takesResponses (b : Block) (n : Nat) : Bool :=
  !b.boot.startPending && (b.chan n).service != .reset && ((b.chan n).service != .offered || islandUp b (5 + n))

def readResponse (n tag resp : Nat) (data : Bytes) (par : List Bool) (chk : Bytes) (b : Block) : Block :=
  let c := b.chan n
  if !takesResponses b n then b
  else if c.rquar.contains tag then b.setChan n { c with rquar := c.rquar.filter (· != tag) }
  else match c.rtags.find? fun e => e.1 == tag with
    | none => raise b 37 n (detail := tag)
    | some (_, a) => settleWrites (readBeat b n tag resp data par chk a)

def execMcReadResponse (ch tag resp : Nat) (data : Bytes) (par : List Bool) (chk : Bytes) (s : State) :
    Host.Outcome State Fault Refusal :=
  lift (fun _ b => readResponse ch tag resp data par chk b) s

def writeResponse (n tag resp : Nat) (b : Block) : Block :=
  let c := b.chan n
  if !takesResponses b n then b
  else if c.wquar.contains tag then b.setChan n { c with wquar := c.wquar.filter (· != tag) }
  else match c.wtags.find? fun e => e.1 == tag with
    | none => raise b 37 n (detail := tag)
    | some (_, a) =>
      let b := b.setChan n { c with wtags := Tab.erase c.wtags tag }
      settleWrites
        (if resp = 0 then writeDone (commitWrite b a) a
         else tryAgain (if resp = 3 then raise b 37 n (detail := tag) else b) a (some tag))

def execMcWriteResponse (ch tag resp : Nat) (s : State) : Host.Outcome State Fault Refusal :=
  lift (fun _ b => writeResponse ch tag resp b) s

/-- TAG_TIMEOUT (R42): the tag is quarantined, the access goes on as after ERROR, on a new tag. -/
def tagTimeout (n : Nat) (write : Bool) (tag : Nat) (b : Block) : Block :=
  let c := b.chan n
  match (if write then c.wtags else c.rtags).find? fun e => e.1 == tag with
  | none => b
  | some (_, a) =>
    let b := b.setChan n (if write then { c with wtags := Tab.erase c.wtags tag, wquar := c.wquar ++ [tag] }
      else { c with rtags := Tab.erase c.rtags tag, rquar := c.rquar ++ [tag] })
    let b := raise b 36 n (vi := a.vi) (ctx := (a.owner.ctx).getD 256) (detail := a.gran * 256)
    settleWrites (tryAgain b a none)

def execTagTimeout (ch : Nat) (write : Bool) (tag : Nat) (s : State) : Host.Outcome State Fault Refusal :=
  lift (fun _ b => tagTimeout ch write tag b) s

/-! ### Negotiation (R75-R78) -/

/-- The block's capability word for a channel (R75). -/
def capWord (b : Block) (n : Nat) : Nat :=
  0x1 + 3 * 2 ^ 4 + 7 * 2 ^ 8 + 3 * 2 ^ 16 + 2 ^ 18 + 2 ^ 20 + b2n (hasBit b.setup.trusted n) * 2 ^ 24 + 2 ^ 25 +
    0x1FF * 2 ^ 32

/-- The common mode, none when some field has no common value (R76). -/
def chooseMode (own peer : Nat) : Option ChanMode :=
  if bitsOf peer 3 0 ≠ 1 || bitOf peer 25 then none
  else if bitsOf peer 5 4 = 0 || bitsOf peer 10 8 = 0 || bitsOf peer 17 16 = 0 then none
  else some
    { full := bitOf peer 4, run := if bitOf peer 10 then 16 else if bitOf peer 9 then 4 else 1, sym8 := bitOf peer 17
      therm := bitOf peer 18, drainable := bitOf peer 20, trusted := bitOf own 24 && bitOf peer 24
      tagMax := min 511 (bitsOf peer 40 32) }

/-- CAP_I_VLD: the partner's word stands at the port. -/
def capIVld (n : Nat) (cap : Word64) (b : Block) : Block :=
  let c := b.chan n
  if c.service == .offered || c.service == .lost then b.setChan n { c with capI := some cap } else b

def execCapIVld (ch : Nat) (cap : Word64) (s : State) : Host.Outcome State Fault Refusal :=
  lift (fun _ b => capIVld ch cap b) s

/-- CHANNEL_MODE_FIX (R77, R78): the mode is fixed, quarantined tags are released and the channel is in service; with no
common mode it is fenced. (DEDUCED, log 76) -/
def modeFix (n : Nat) (b : Block) : Block :=
  let c := b.chan n
  match c.capI with
  | none => b
  | some w =>
    if c.service != .offered && c.service != .lost then b
    else match chooseMode c.capO.toNat w.toNat with
      | none => raiseOwn (fenceChan b n) n
      | some m =>
        b.setChan n { c with mode := some m, service := .inService, rquar := [], wquar := []
                             therm := if m.therm then c.therm else 0, found := [] }

def execChannelModeFix (ch : Nat) (s : State) : Host.Outcome State Fault Refusal := lift (fun _ b => modeFix ch b) s

/-- CHANNEL_NEGOTIATION_TIMEOUT (R77). -/
def negotiationTimeout (n : Nat) (b : Block) : Block :=
  let c := b.chan n
  if c.service == .offered && c.capI.isNone then raiseOwn (fenceChan b n) n else b

def execChannelNegotiationTimeout (ch : Nat) (s : State) : Host.Outcome State Fault Refusal :=
  lift (fun _ b => negotiationTimeout ch b) s

/-- Every waiting access counts one RETRY (R78). -/
def countWaiting (n : Nat) (b : Block) : Block :=
  let c := b.chan n
  let l := c.rwait ++ c.wwait
  l.foldl (fun b a =>
    match retryAcc b a with
    | some a => if a.reads then b.modChan n fun c => { c with rwait := c.rwait ++ [a] }
                else b.modChan n fun c => { c with wwait := c.wwait ++ [a] }
    | none => tryAgain b a none) (b.setChan n { c with rwait := [], wwait := [] })

/-- CAP_I_VLD_LOSS (R78). (DEDUCED, log 34) -/
def capLoss (n : Nat) (b : Block) : Block :=
  let c := b.chan n
  match c.service with
  | .offered => b.setChan n { c with capI := none }
  | .lost => b.setChan n { c with capI := none }
  | .inService => settleWrites (countWaiting n (raise (b.setChan n { c with capI := none, service := .lost }) 38 n))
  | _ => b

def execCapIVldLoss (ch : Nat) (s : State) : Host.Outcome State Fault Refusal := lift (fun _ b => capLoss ch b) s

/-- CHANNEL_WAIT_RETRY_TICK (R78): one further RETRY for each access that waits. -/
def execChannelWaitRetryTick (ch : Nat) (s : State) : Host.Outcome State Fault Refusal :=
  lift (fun _ b => if (b.chan ch).service == .lost then
      settleWrites (countWaiting ch (b.modChan ch fun c => { c with found := c.found.map fun e => (e.1, e.2.1, e.2.2 + 1) }))
    else b) s

end Sys2Proof.Machine
end

