-- ==== Sys2Proof/Machine/LinkFrame.lean ====
section
/-! DEFINITION. Flit groups: headers (R319), trailers (R322), checks and encryption (R323, R326, R391, R393), and the parts
of the session messages (R79, R332, R392). -/

namespace Sys2Proof.Machine

/-! ### Flits -/

/-- The 16 header bytes of a flit (R319). -/
def headerBytes (f : Flit) : Bytes :=
  natLe 16 (f.vc + f.dl * 2 ^ 2 + b2n f.eom * 2 ^ 3 + f.op * 2 ^ 4 + f.dst * 2 ^ 8 + f.src * 2 ^ 24 + f.rix * 2 ^ 40 +
    f.vi * 2 ^ 56 + f.ksel * 2 ^ 64 + f.addr * 2 ^ 72 + f.aux * 2 ^ 112)

def flitBytes (f : Flit) : Bytes := headerBytes f ++ pad256 f.payload

/-- A flit from its 272 bytes and its hop count. -/
def parseFlit (d : Bytes) (hops : Nat) : Flit :=
  let h := fieldAt d 0 16
  { vc := bitsOf h 1 0, dl := bitsOf h 2 2, eom := bitOf h 3, op := bitsOf h 7 4, dst := bitsOf h 23 8
    src := bitsOf h 39 24, rix := bitsOf h 55 40, vi := bitsOf h 63 56, ksel := bitsOf h 71 64, addr := bitsOf h 111 72
    aux := bitsOf h 127 112, hops := hops, payload := sliceAt d 16 256 }

/-- The IDLE flit. -/
def idleFlit : Flit :=
  { vc := 0, dl := 0, eom := false, op := 0, dst := 0, src := 0, rix := 0, vi := 0, ksel := 0, addr := 0, aux := 0
    hops := 0, payload := [] }

/-- Whether an op may travel on a VC (R320). -/
def vcAdmits (op vc : Nat) : Bool :=
  if op = 0 then true
  else if op = opRead then vc == vcReq
  else if op = opRdata || op = opAck then vc == vcRsp
  else if op = opMgmt then vc == vcMgmt
  else decide (op < 14) && (vc == vcReq || vc == vcColl)

/-! ### Groups (R317, R322) -/

def groupSize : Nat := 1152

/-- Flit `i` of a group, as bytes, and its trailer. -/
def groupFlit (g : Bytes) (i : Nat) : Bytes := sliceAt g (272 * i) 272
def trailerOf (g : Bytes) : Bytes := sliceAt g 1088 64

/-- The CRCs of a group's four flits; that of flit 3 also covers bytes 32-63 of the trailer. (DEDUCED, log 79) -/
def groupCrcs (body tail : Bytes) : List Nat :=
  (List.range 4).map fun i =>
    Crypto.crc32 (sliceAt body (272 * i) 272 ++ (if i = 3 then tail else []))

/-- Whether every CRC of a received group matches. (DEDUCED, log 79) -/
def crcsOk (g : Bytes) : Bool :=
  let t := trailerOf g
  groupCrcs (g.take 1088) (sliceAt t 32 32) == (List.range 4).map fun i => fieldAt t (16 + 4 * i) 4

/-! ### Session keys (R393) -/

/-- The 72 key bytes of generation `r`. -/
def sessionKeys (secret transcript : Bytes) (r : Nat) : Bytes :=
  Crypto.shake256 (secret ++ transcript ++ [0x4B, 0x4C, 0x4E, 0x4B] ++ natLe 4 r) 72

/-- Whether this side is the initiator: the side with the lower chip ID. -/
def isInitiator (b : Block) (l : Link) : Bool :=
  match l.peerCap with
  | some w => decide (b.setup.chipId < bitsOf w 31 16)
  | none => false

/-- The key and IV of a group in one direction. -/
def groupKey (l : Link) (send : Bool) (r seq : Nat) : Bytes × Bytes :=
  let k := sessionKeys l.sess.secret l.sess.transcript r
  let fwd := send == l.sess.initiator
  (sliceAt k (if fwd then 0 else 32) 32, sliceAt k (if fwd then 64 else 68) 4 ++ natLe 4 seq ++ natLe 4 0)

/-- The bytes of a group from its four flits and trailer fields; sealed under the session when one is given.
(DEDUCED, log 80) -/
def sealGroup (key : Option (Bytes × Bytes)) (flits : List Flit) (credit : Bytes) (seq ack : Nat) (nak : Bool) : Bytes :=
  let hops := (List.range 4).flatMap fun i => natLe 2 ((flits.getD i idleFlit).hops)
  let tail := sliceAt credit 0 16 ++ natLe 4 seq ++ natLe 4 (ack + b2n nak * 2 ^ 31) ++ hops
  let plain := (List.range 4).flatMap fun i => flitBytes (flits.getD i idleFlit)
  let body := match key with
    | some (k, iv) => Crypto.gcmCrypt k iv plain
    | none => plain
  let tag := match key with
    | some (k, iv) => Crypto.gcmTag k iv tail body
    | none => List.replicate 16 0
  body ++ tag ++ (groupCrcs body tail).flatMap (natLe 4) ++ tail

/-! ### Session messages -/

/-- The capability word a port sends (R79). -/
def linkCapWord (b : Block) (p : Nat) : Nat :=
  let nofec := bitOf (b.setup.linkCfg.getD p 0x18) 6
  0x1 + 0xF * 2 ^ 4 + 3 * 2 ^ 8 + 2 ^ 10 + b2n nofec * 2 ^ 11 + 2 ^ 12 + b.setup.chipId * 2 ^ 16 + p * 2 ^ 32

/-- An identity certificate for a key and a chip, under the setup-signing key (R392). -/
def certSigned (b : Block) (cert pub : Bytes) : Bool :=
  fieldAt cert 0 4 == 0x4C494431 && fieldAt cert 6 2 == 0 && allZero (sliceAt cert 40 8) &&
    sliceAt cert 8 32 == Crypto.sha3_256 pub &&
    Config.mldsaVerify b.boot.setupKey (cert.take 48) (sliceAt cert 48 4627)

/-- What a side checks of its peer's certificate (R391). -/
def certOk (b : Block) (l : Link) (cert pub : Bytes) : Bool :=
  certSigned b cert pub && (match l.peerCap with | some w => fieldAt cert 4 2 == bitsOf w 31 16 | none => false)

/-- The transcript T (R391, R332). -/
def transcriptOf (b : Block) (p : Nat) (l : Link) (initMsg respMsg : Bytes) : Bytes :=
  let own := natLe 8 (linkCapWord b p)
  let peer := natLe 8 (l.peerCap.getD 0)
  let (ci, cr) := if isInitiator b l then (own, peer) else (peer, own)
  Crypto.sha3_256 (ci ++ cr ++ initMsg ++ respMsg.take 8875)

/-! ### A group on its lanes (R317) -/

/-- The lane that carries byte `k` of a group over `c` enabled lanes, and the cycle (LK) of the group in which it does. -/
def laneOf (c k : Nat) : Nat := k / 16 % c
def laneCycle (c k : Nat) : Nat := k / (16 * c)

/-- What each enabled lane of a port carries of the group it sends. -/
def Link.laneBytes (l : Link) (lane : Nat) : Bytes :=
  ((List.range l.txOut.length).filter fun k => decide (lane < l.lanes) && laneOf l.lanes k == lane).map fun k => l.txOut.getD k 0

end Sys2Proof.Machine
end

