-- ==== Sys2Proof/Machine/Streams.lean ====
section
/-! DEFINITION. Stream ports (R44-R47, R108, R125, R185), request lines (R56, R57) and the power-domain handshake (R58,
R59, R70, R371-R376). -/

namespace Sys2Proof.Machine

/-! ### Ingress (R45, R46) -/

/-- Valid bytes of a beat (R44). -/
def Beat.count (x : Beat) : Nat := if x.bytes = 0 then 256 else x.bytes

/-- The execution of a context that takes a stream's next beats. -/
def consumerIn (b : Block) (c port n : Nat) : Option Exec :=
  if (b.ctx c).halting.isSome then none
  else (b.ctx c).execs.find? fun e => !e.stopped && e.kindS == 1 && iSport e.ins == port && e.snum == n &&
    decide (0 < wants b c e) && mayTake b c e

/-- The consuming transfer of a stream number: context and execution. (DEDUCED, log 73) -/
def consumer (b : Block) (port n : Nat) : Option (Nat × Exec) :=
  b.ctxs.findSome? fun e => (consumerIn b e.1 port n).map fun x => (e.1, x)

/-- A lane waits for the beats of an execution (R185). -/
def laneWaits (b : Block) (c : Nat) (e : Exec) : Bool :=
  e.units.any fun u => u.onLane && decide (e.sgot.length + onWay b c e.seq < u.need)

/-- A unit has received some of its beats and waits for more: the needs of the units before it are met and passed. -/
def partWay (e : Exec) : Bool :=
  e.units.any fun u => u.onLane && decide (e.sgot.length < u.need) &&
    !(e.sgot.isEmpty || e.units.any fun v => v.need == e.sgot.length)

/-- Whether a domain lets a port take a beat for an execution: not once it drains, but to end a unit (R371).
(DEDUCED, log 73) -/
def ingressOpen (b : Block) (port : Nat) (e : Exec) : Bool :=
  match domainOfPort b port with
  | none => true
  | some d => !(b.pdom d).ack && (!(b.pdom d).drain || partWay e)

/-- What R46 finds wrong with a beat of an open stream, in its order. -/
def beatFault (o : StreamNo) (x : Beat) : Option Status :=
  if parityOf x.data != x.par then some .parity
  else if x.layout != o.layout then some .badType
  else if x.bytes != 0 && !x.eot then some .bounds
  else none

/-- A good beat: its bytes go to the execution, what it does not take is kept, eoc closes the number (R108).
(DEDUCED, log 73) -/
def takeBeat (b : Block) (port c : Nat) (e : Exec) (o : StreamNo) (x : Beat) : Block :=
  let d := x.data.take (Beat.count x)
  let n := wants b c e
  let p := b.sport port
  let nos := if x.eoc then p.openNos.filter fun q => q.1 != x.cid
    else Tab.insert p.openNos x.cid { o with inbuf := d.drop n, bad := false }
  let b := b.setSport port { p with openNos := nos, ready := true }
  tryUnits (giveStream b c port e.seq (d.take n)) c

/-- The port lowers or raises sp_i_ready. -/
def setReady (b : Block) (port : Nat) (r : Bool) : Block := b.setSport port { b.sport port with ready := r }

/-- A bad beat is accepted and fails the consuming transfer (R46); further beats of its stream that nothing takes are
accepted and dropped. -/
def badBeat (b : Block) (port : Nat) (o : StreamNo) (x : Beat) (s : Status) : Block :=
  let p := b.sport port
  let nos := if x.eoc then p.openNos.filter fun q => q.1 != x.cid else Tab.insert p.openNos x.cid { o with bad := true }
  let b := b.setSport port { p with openNos := nos, ready := true }
  match consumer b port x.cid with
  | none => raise b 51 port (status := s) (vi := o.vi) (detail := x.cid)
  | some (c, e) =>
    haltBegin (raise b 51 port (status := s) (vi := o.vi) (ctx := c) (detail := x.cid)) c s 0 0 (some e.seq)

/-- A beat presented at a port's ingress (R45, R46). A good beat that no lane waits for is not taken yet: ready is 0 until
one does. (DEDUCED, log 73) -/
def ingressBeat (port : Nat) (x : Beat) (b : Block) : Block :=
  if !quadUp b (quadOfPort port) || !readyLocal b then b
  else match (b.sport port).openNos.find? fun o => o.1 == x.cid && !o.2.egress with
    | none => raise (setReady b port true) 51 port (detail := x.cid)
    | some (_, o) =>
      match beatFault o x with
      | some s => badBeat b port o x s
      | none =>
        match consumer b port x.cid with
        | none =>
          if o.bad then
            (if x.eoc then b.setSport port { b.sport port with
                openNos := (b.sport port).openNos.filter fun q => q.1 != x.cid, ready := true }
             else setReady b port true)
          else setReady b port false
        | some (c, e) =>
          if ingressOpen b port e && laneWaits b c e then takeBeat b port c e o x else setReady b port false

def execStreamIngressBeat (port : Nat) (beat : Beat) (s : State) : Host.Outcome State Fault Refusal :=
  lift (fun _ b => ingressBeat port beat b) s

/-! ### Egress (R45, R47) -/

/-- What ends a context's output, as far as its instruction buffer shows from `pc` on: a CHAIN with EOC, or more output or
the program's end; `ls` are the loops open there, each run through once more before it is left. (DEDUCED, log 63) -/
def eocLook (x : Ctx) : Nat → Nat → List LoopLevel → Option Bool
  | 0, _, _ => none
  | n + 1, pc, ls =>
    match x.ibuf.find? fun e => e.1 == pc with
    | none => none
    | some (_, i) =>
      let op := iOp i
      if op = 0x17 && bitOf (fieldAt i 1 1) 0 then some true
      else if op = 0x1F || (1 ≤ op && op ≤ 9 && iDkind i == 1 && !skipped x i) then some false
      else if op = 0x11 then
        match ls.reverse with
        | [] => some false
        | l :: t =>
          if 1 < l.left then eocLook x n (l.start + 32) ((({ l with left := 1 } : LoopLevel) :: t).reverse)
          else eocLook x n (pc + 32) t.reverse
      else if op = 0x10 then
        if fieldAt i 4 4 = 0 then eocLook x n (pc + 32 * fieldAt i 8 4 + 32) ls
        else eocLook x n (pc + 32) (ls ++ [{ start := pc, stop := pc + 32 * fieldAt i 8 4, left := 1, it := 0 }])
      else eocLook x n (pc + 32) ls

/-- What ends the output of a context that stands at its next instruction. -/
def eocNext (b : Block) (c : Nat) : Option Bool :=
  let x := b.ctx c
  if x.drain.isSome || x.execs.any (·.stopped) || !(x.st == .running || x.st == .waiting) then some false
  else eocLook x 64 x.pc x.loops

/-- Whether a context may come to the CHAIN with EOC that ends its output without waiting for anything of it.
(DEDUCED, log 63) -/
def eocOpen (b : Block) (c : Nat) : Bool :=
  let x := b.ctx c
  canIssue b c && x.st == .running && x.stuckAt != some x.pc &&
    match eocNext b c with
    | some k => k
    | none => x.fetchBad.isNone

/-- A beat ends an execution's output and no other beat of its context follows it. -/
def lastOut (b : Block) (o : OutBeat) (rest : List OutBeat) : Bool :=
  o.last && !o.beat.eoc && !(rest.any fun p => p.ctx == o.ctx) && !((beatsOf b o.ctx).any fun p => decide (o.seq < p.seq)) &&
    !((b.ctx o.ctx).execs.any fun e => e.kindD == 1 && decide (e.outNext < e.outLen))

/-- The last beat of a context's output waits at its port until eoc is settled (R47): another beat follows it, CHAIN has
marked it, or its context has to wait first. (DEDUCED, log 63) -/
def eocWaits (b : Block) (o : OutBeat) (rest : List OutBeat) : Bool := lastOut b o rest && eocOpen b o.ctx

/-- eoc on a last beat that leaves while its context waits on its way to a CHAIN with EOC (R47). (DEDUCED, log 63) -/
def eocOn (b : Block) (o : OutBeat) (rest : List OutBeat) : OutBeat :=
  if lastOut b o rest && eocNext b o.ctx == some true then o.end else o

/-- The partner raises ready: the oldest beat presented transfers; eoc closes its number (R108). -/
def egressBeat (port : Nat) (b : Block) : Block :=
  let p := b.sport port
  let off := match domainOfPort b port with | some d => (b.pdom d).ack | none => false
  match p.out with
  | [] => b
  | o :: rest =>
    if off || !quadUp b (quadOfPort port) || eocWaits b o rest then b
    else
      let o := eocOn b o rest
      let nos := if o.beat.eoc then p.openNos.filter fun q => q.1 != o.beat.cid else p.openNos
      let b := b.setSport port { p with out := rest, openNos := nos }
      releaseLanes (modExec b o.ctx o.seq fun e => { e with sent := e.sent + Beat.count o.beat }) o.ctx

def execStreamEgressBeat (port : Nat) (s : State) : Host.Outcome State Fault Refusal :=
  lift (fun _ b => egressBeat port b) s

/-! ### Request lines (R56, R57) -/

/-- A request on a line is held until a burst consumes it. -/
def drqSeen (i : Nat) (b : Block) : Block :=
  if i < 64 && b.islands.out.get false (i / 16) then
    wakeP2 (b.setLine i { b.line i with held := true, ack := false }) else b

def execDrq (line : Nat) (s : State) : Host.Outcome State Fault Refusal := lift (fun _ b => drqSeen line b) s

/-! ### Power domains -/

/-- The record of a valid domain. -/
def domainRec (b : Block) (d : Nat) : Option Domain :=
  match b.setup.domains[d]? with
  | some r => if r.valid then some r else none
  | none => none

/-- Whether a granule behind a channel lies in domain d. -/
def inDomain (b : Block) (d ch gran : Nat) : Bool := (domainsOf b (some ch) (some (gran * 256))).contains d

/-- Cache lines with their home in d. -/
def linesOf (b : Block) (d : Nat) : List (Nat × Line) :=
  b.pal.lines.filter fun e => (domainsOf b (channelOf b (e.1 * 256)) (some (e.1 * 256))).contains d

/-- Begins the write-back of every dirty line of d, in ascending granules (R310, R371). -/
def drainLines (b : Block) (d : Nat) : Block :=
  (sortBy (·.1) ((linesOf b d).filter fun e => e.2.dirty)).foldl (fun b e => startWriteback b e.1 (.writeback none) false) b

/-- Whether a channel's partner offers the power handshake (R76). -/
def drainable (b : Block) (n : Nat) : Bool := match (b.chan n).mode with | some m => m.drainable | none => false

/-- Tags outstanding in d, by channel and path. -/
def tagsIn (b : Block) (d : Nat) : List (Nat × Bool × Nat × Acc) :=
  b.chans.flatMap fun c =>
    ((c.2.rtags.map fun e => (c.1, false, e.1, e.2)) ++ (c.2.wtags.map fun e => (c.1, true, e.1, e.2))).filter
      fun t => inDomain b d c.1 t.2.2.2.gran

/-- The granules a request flit for this chip names: a READ's in its entries (R321), another's in its header. -/
def flitGrans (f : Flit) : List Nat :=
  if f.vc = vcRsp then []
  else if f.op = opRead then
    ((List.range 16).map fun i => fieldAt f.payload (16 * i) 16).filterMap fun e =>
      if bitOf e 72 then some (bitsOf e 39 0) else none
  else [f.addr]

/-- Granules in d of the requests received over links that are not answered yet: at a link's ingress, in their stream's
turn, at a channel, at a Palette bank or on the ring. -/
def remoteIn (b : Block) (d : Nat) : List Nat :=
  let accs := (allAccs b ++ b.streams.flatMap (·.2)).filter (·.remoteClass)
  let flits := b.links.flatMap fun l => (l.2.ingress ++ l.2.swPart).flatMap flitGrans
  (accs.map (·.gran) ++ flits).filter fun g => (domainsOf b (channelOf b (g * 256)) (some (g * 256))).contains d

/-- Ports of a domain. -/
def portsOf (b : Block) (d : Nat) : List Nat := (List.range 8).filter fun p => domainOfPort b p == some d

/-- Step 3 of R371 at a port. -/
def portDrained (b : Block) (port : Nat) : Bool :=
  (b.sport port).out.isEmpty &&
    !(b.ctxs.any fun x => x.2.execs.any fun e => !e.stopped && e.kindS == 1 && iSport e.ins == port && partWay e)

/-- The conditions of R371; a partner without the handshake is not waited for. -/
def domainDrained (b : Block) (d : Nat) : Bool :=
  !((tagsIn b d).any fun t => drainable b t.1) && ((linesOf b d).all fun e => !e.2.dirty) &&
    ((portsOf b d).all fun p => portDrained b p) && (remoteIn b d).isEmpty

/-- Retires one outstanding tag of a domain: quarantined; a write-back's line is dealt with by the caller; a write of an
instance being reset has ended with that (R376); other work waits for the release or fails (R59, R374). -/
def retireTag (b : Block) (d : Nat) (t : Nat × Bool × Nat × Acc) : Block :=
  let (n, write, tag, a) := t
  let b := b.modChan n fun c =>
    if write then { c with wtags := Tab.erase c.wtags tag, wquar := c.wquar ++ [tag] }
    else { c with rtags := Tab.erase c.rtags tag, rquar := c.rquar ++ [tag] }
  let lost := match a.rmw with | some (.reduce _ _ _) => write | _ => false
  match a.owner with
  | .discard => b
  | .writeback _ => b
  | _ =>
    if write && !a.remoteClass && (b.vinst a.vi).stage != 0 then b
    else if lost || failsIn b d a then failAcc b a .domainOff
    else if write then b.modChan n fun c => { c with wwait := c.wwait ++ [a] }
    else b.modChan n fun c => { c with rwait := c.rwait ++ [a] }

/-- Puts the work retired from a channel before the work that waited, in its own order, which is that of its tags' issue (R373). -/
def retireTags (b : Block) (d : Nat) (ts : List (Nat × Bool × Nat × Acc)) : Block :=
  let olds := b.chans
  let b1 := ts.foldl (fun b t => retireTag b d t)
    { b with chans := olds.mapVals {} fun n c => if ts.any (fun t => t.1 == n) then { c with rwait := [], wwait := [] } else c }
  (olds.filter fun e => ts.any fun t => t.1 == e.1).foldl (fun b e =>
    b.modChan e.1 fun c => { c with rwait := c.rwait ++ e.2.rwait, wwait := c.wwait ++ e.2.wwait }) b1

/-- Discards the dirty lines of d with one event (R372); those of a buffer being freed count there (R464). Their
write-backs that still wait go with them. -/
def dropDirty (b : Block) (d : Nat) : Block :=
  let gone := (linesOf b d).filter fun e => e.2.dirty
  let mine := fun (a : Acc) => gone.any (fun e => e.1 == a.gran) && (match a.owner with | .writeback _ => true | _ => false)
  let waits := (b.chans.flatMap fun c => chanAccs c.2).filterMap fun a =>
    if mine a then (match a.owner with | .writeback c => c | _ => none) else none
  let b : Block := { b with chans := b.chans.mapVals {} fun _ c => { c with wwait := c.wwait.filter fun a => !mine a } }
  let b := gone.foldl (fun b e =>
    let p := b.pslot e.2.buf
    let b := setLineAt b e.1 none
    if p.freeing then b.setPslot e.2.buf { p with wbFail := some (p.wbFail.getD (Status.domainOff.code, e.2.offset))
                                                  wbLost := p.wbLost + 1 }
    else b) b
  let b := if gone.isEmpty then b else raise b 54 ((gone.head?.map fun e => regionOf e.2.buf).getD 0) (detail := gone.length)
  waits.eraseDups.foldl flushEnded b

/-- Contexts of a domain's ports and policies: an egress beat dropped at the bound comes again after the release, or
fails its context (R372, R374). -/
def dropBeats (b : Block) (port : Nat) : Block :=
  let p := b.sport port
  let fails := p.out.filter fun o => (b.ctx o.ctx).failPolicy
  let b := b.setSport port { p with out := p.out.filter fun o => !(b.ctx o.ctx).failPolicy }
  fails.foldl (fun b o => haltBegin b o.ctx .domainOff 0 0 (some o.seq)) b

/-- pd_ack falls and the work of a domain resumes (R375). -/
def resumeDomain (b : Block) (d : Nat) : Block :=
  let b := b.setPdom d {}
  let b := b.ctxs.foldl (fun b e => releaseLanes (flushOuts b e.1) e.1) b
  settleWrites (b.rin.cqs.foldl (fun b e => drainWaiting e.1 (e.2.waiting.length) b) b)

/-- The drain is complete: pd_ack rises, whether pd_req still stands or has fallen meanwhile (R58, R376). -/
def ackDomain (b : Block) (d : Nat) : Block := b.setPdom d { b.pdom d with drain := false, ack := true }

/-- A pd_req that fell during its drain is answered once pd_ack has risen, in a cycle of the always-on clock in which no
command waits (R58, R375, R376). (DESIGN CHOICE, log 75) -/
def answerFalls (b : Block) : Block :=
  (b.pd.filter fun e => e.2.ack && !e.2.req).foldl (fun b e => resumeDomain b e.1) b

/-- The tags outstanding in a domain on channels whose partner offers no power handshake are retired at once (R76); a
write-back among them is begun again. -/
def retireUndrained (b : Block) (d : Nat) : Block :=
  let ts := (tagsIn b d).filter fun t => !drainable b t.1
  (ts.map (·.2.2.2)).foldl (fun b a => match a.owner, findLine b a.gran with
    | .writeback _, some l => setLineAt b a.gran (some { l with writing := false, newer := false })
    | _, _ => b) (retireTags b d ts)

/-- PD_REQ (R58, R371). A domain that is not defined, and any domain before the last start-up step has ended, is
acknowledged at once (R70, R365). While CT is clamped, or its ports hold their reset values in BOOT_FAIL, nothing samples
the request (R34, R73). (DESIGN CHOICE, log 75) -/
def pdReq (d : Nat) (b : Block) : Block :=
  let p := b.pdom d
  if 16 ≤ d || p.req || p.ack || p.drain || !ctUp b || b.boot.stage == 0xF then b
  else
    let b := b.setPdom d { p with req := true, drain := true }
    if (domainRec b d).isNone || b.boot.stage < 7 || b.power.state == 3 then ackDomain b d
    else settleWrites (drainLines (retireUndrained b d) d)

def execPdReq (d : Nat) (s : State) : Host.Outcome State Fault Refusal := lift (fun _ b => pdReq d b) s

/-- PD_ACK (R371): once drained, pd_ack rises; else the drain goes on. -/
def pdAck (d : Nat) (b : Block) : Block :=
  if !(b.pdom d).drain then b
  else if domainDrained b d then settleWrites (ackDomain (retireTags b d (tagsIn b d)) d)
  else drainLines b d

def execPdAck (d : Nat) (s : State) : Host.Outcome State Fault Refusal := lift (fun _ b => pdAck d b) s

/-- DRAIN_BOUND_EXPIRY (R372). -/
def drainExpiry (d : Nat) (b : Block) : Block :=
  if !(b.pdom d).drain then b
  else
    let b := dropDirty (retireTags b d (tagsIn b d)) d
    let b := (portsOf b d).foldl dropBeats b
    settleWrites (ackDomain (raise b 41 d) d)

def execDrainBoundExpiry (d : Nat) (s : State) : Host.Outcome State Fault Refusal := lift (fun _ b => drainExpiry d b) s

/-- PD_REQ_RELEASE (R58, R375): pd_ack falls and work resumes; before the acknowledgement the fall waits for it. -/
def pdRelease (d : Nat) (b : Block) : Block :=
  let p := b.pdom d
  if p.drain then b.setPdom d { p with req := false }
  else if p.ack then resumeDomain b d
  else b

def execPdReqRelease (d : Nat) (s : State) : Host.Outcome State Fault Refusal := lift (fun _ b => pdRelease d b) s

end Sys2Proof.Machine
end

