-- ==== Sys2Proof/Machine/LinkPort.lean ====
section
/-! DEFINITION. A link port from training to LINK_READY and down again (R49-R51, R80, R81, R89, R326-R329), its keep-alives
(R328, R333, R354) and its sessions (R391-R394). -/

namespace Sys2Proof.Machine

/-! ### Training -/

/-- Settings of a port for a number of lanes: lane enables, rate, FEC mode (R49). -/
def laneMask (n : Nat) : Nat := 2 ^ n - 1

/-- The largest lane count a 4-bit lanes field offers, at most `cap` lanes. (DEDUCED, log 81) -/
def lanesFrom (field cap : Nat) : Option Nat :=
  if bitOf field 3 && 8 ≤ cap then some 8
  else if bitOf field 2 && 4 ≤ cap then some 4
  else if bitOf field 1 && 2 ≤ cap then some 2
  else if bitOf field 0 then some 1
  else none

/-- The outputs of a link island at their reset values (R34, R48). -/
def Link.clamp (l : Link) : Link := { l with laneEn := 0, rate := 0, fec := 0, trnReq := false, txOut := [] }

/-- Starts a port's sequence from its initial settings (R80, step 1). -/
def startTraining (b : Block) (p : Nat) : Block :=
  let c := b.setup.linkCfg.getD p 0x18
  let n := (lanesFrom (bitsOf c 3 0) 8).getD 8
  b.modLink p fun l =>
    { l with phase := .training, laneEn := laneMask n, lanes := n, rate := bitsOf c 4 4, fec := bitsOf c 5 5
             trnReq := true, narrow := 8, peerCap := none, mismatch := false }

/-- A port is assigned to a new session: its epoch moves on (R114). (DEDUCED, log 110) -/
def Link.newSession (l : Link) (s : Session) : Link := { l with epoch := (l.epoch + 1) % 256, sess := s }

/-- What a port that goes down leaves behind (R329, R394): its buffers and keys are gone, its epoch moves on.
(DESIGN CHOICE, log 78; DEDUCED, log 110) -/
def dropPort (l : Link) : Link :=
  { l with phase := .down, trnReq := false, epoch := (l.epoch + 1) % 256, peerCap := none, mismatch := false
           replay := [], resends := [], resendAt := none, nak := false, seqTx := 0, seqRx := 0, credits := [], owe := []
           egress := [], staged := [], busyGroups := 0, mgmtOpen := none, ingress := [], swPart := [], mgPart := [], mgBad := [], inbox := []
           sess := {}, store := none, encoder := none, kaEcho := 0, kaAt := 0, peerHeld := false }

/-- Takes off the ring what is on its way to a link port: flits are lost with its egress queues, writes for its encoder
are given back, each with its chip. -/
def ringGiveBack (b : Block) (p : Nat) : List (Acc × Nat) × Block :=
  let l := (ringItems b).filterMap fun i => match i.load with
    | .encode q chip a => if q = p then some (a, chip) else none
    | _ => none
  (l, { b with ring := b.ring.mapVals [] fun _ l => l.filter fun i => match i.load with
    | .encode q _ _ => q != p
    | .flits q _ => q != p
    | _ => true })

/-- A port goes down (R329); what its encoder held or was to take goes out again on the present route. (DEDUCED, log 82) -/
def linkDown (b : Block) (p : Nat) : Block :=
  let l := b.link p
  let accs := match l.encoder with | some k => k.accs.map fun a => (a, k.chip) | none => []
  let (more, b) := ringGiveBack (raise (b.setLink p (dropPort l)) 45 p (status := .linkDown)) p
  releaseAll ((accs ++ more).foldl (fun b a => sendWrite b a.1 a.2) b)

/-- Sends the capability flit (R80, step 4). -/
def sendCapability (b : Block) (p : Nat) : Block := sendNeighbour b p mtCapability (natLe 8 (linkCapWord b p))

/-- A port takes its lanes for training again: settings change only while trn_req is 0 (R50). (DEDUCED, log 81) -/
def retrainWith (b : Block) (p n rate fec : Nat) : Block :=
  b.modLink p fun l =>
    { l with phase := .training, trnReq := false, laneEn := laneMask n, lanes := n, rate := rate, fec := fec
             peerCap := none, mismatch := false }

/-- LINK_READY (R80, R89): what waited for a port goes out; a port that a failed training had fenced is in service again.
(DESIGN CHOICE, log 31) -/
def enterReady (b : Block) (p : Nat) : Block :=
  let h := b.health .link p
  let b := if h.state == .fenced then b.setHealth .link p { h with state := .inService } else b
  releaseAll (b.modLink p fun l => { l with phase := .ready, everReady := true })

/-- TRN_DONE (R50): the lanes are deskewed and the capability exchange begins. -/
def trnDone (p : Nat) (b : Block) : Block :=
  let l := b.link p
  if l.phase == .training && l.trnReq then sendCapability (b.setLink p { l with phase := .exchange }) p else b

def execTrnDone (port : Nat) (s : State) : Host.Outcome State Fault Refusal := lift (fun _ b => trnDone port b) s

/-- Phases in which trn_req is 1 and the port sends and receives groups. -/
def portOn (l : Link) : Bool := l.trnReq && (l.phase == .exchange || l.phase == .session || l.phase == .ready)

/-- RX_LOCK_LOSS (R51): the port stops sending and lowers trn_req. (DEDUCED, log 81) -/
def lockLoss (p : Nat) (b : Block) : Block :=
  let l := b.link p
  if l.trnReq then b.setLink p { l with phase := .training, trnReq := false, peerCap := none } else b

def execRxLockLoss (port : Nat) (s : State) : Host.Outcome State Fault Refusal := lift (fun _ b => lockLoss port b) s

/-- RETRAIN (R51): trn_req rises again. (DEDUCED, log 81) -/
def retrain (p : Nat) (b : Block) : Block :=
  let l := b.link p
  if (l.phase == .training || l.phase == .down) && !l.trnReq then
    b.setLink p { l with phase := .training, trnReq := true } else b

def execRetrain (port : Nat) (s : State) : Host.Outcome State Fault Refusal := lift (fun _ b => retrain port b) s

/-- FEC_UNCORR (R51): a pulse counts against the port. -/
def fecUncorr (p : Nat) (b : Block) : Block :=
  if (b.link p).phase == .reset then b
  else raise (b.modLink p fun l => { l with fecCount := min (l.fecCount + 1) (2 ^ 32 - 1) }) 43 p

def execFecUncorr (port _lane : Nat) (s : State) : Host.Outcome State Fault Refusal := lift (fun _ b => fecUncorr port b) s

/-- TRAINING_TIMEOUT (R81): half the lanes, or with one lane the port is fenced until its retry. (DEDUCED, log 81) -/
def trainTimeout (p : Nat) (b : Block) : Block :=
  let l := b.link p
  if l.phase == .training && l.trnReq then
    let b := linkDown b p
    if l.lanes ≤ 1 then
      let b := b.setHealth .link p { b.health .link p with state := .fenced }
      let b : Block := { b with islands := { b.islands with alive := b.islands.alive.put false (40 + p) false } }
      b.modLink p fun l => { l.clamp with phase := .fenced }
    else
      let n := l.lanes / 2
      (retrainWith b p n l.rate l.fec).modLink p fun l => { l with narrow := n }
  else b

def execTrainingTimeout (port : Nat) (s : State) : Host.Outcome State Fault Refusal :=
  lift (fun _ b => trainTimeout port b) s

/-- FENCED_PORT_RETRY (R81); a port the collector fenced stays (R418). -/
def fencedRetry (p : Nat) (b : Block) : Block :=
  if (b.link p).phase == .fenced && !b.islands.safe.getLsbD (29 + p) then startTraining b p else b

def execFencedPortRetry (port : Nat) (s : State) : Host.Outcome State Fault Refusal :=
  lift (fun _ b => fencedRetry port b) s

/-- CAPABILITY_RESEND (R80, step 4). -/
def execCapabilityResend (port : Nat) (s : State) : Host.Outcome State Fault Refusal :=
  lift (fun _ b =>
    if (b.link port).phase == .exchange && (b.link port).peerCap.isNone then sendCapability b port else b) s

/-- ID_MISMATCH_REPEAT (R80): the exchange runs again. -/
def execIdMismatchRepeat (port : Nat) (s : State) : Host.Outcome State Fault Refusal :=
  lift (fun _ b =>
    if (b.link port).phase == .exchange && (b.link port).mismatch then
      sendCapability (b.modLink port fun l => { l with mismatch := false, peerCap := none }) port
    else b) s

/-- CREDIT_STALL (R354): a class that waits without credit takes the port down, unless the peer is HELD. -/
def creditStall (p vc dl : Nat) (b : Block) : Block :=
  let l := b.link p
  let c := flitClass vc dl
  if portOn l && !(l.outQ c).isEmpty && l.credit c == 0 && !l.peerHeld then linkDown b p else b

def execCreditStall (port vc dl : Nat) (s : State) : Host.Outcome State Fault Refusal :=
  lift (fun _ b => creditStall port vc dl b) s

/-! ### Sessions (R391-R394) -/

/-- The initiator's first message: SESSION_INIT with a fresh key and nonce; a key pair that fails its test puts the block in
the error state (R397). -/
def sendInit (b : Block) (p : Nat) : Block :=
  let (x, b) := drbg b 64
  let (nonce, b) := drbg b 32
  let (ek, dk) := Config.mlkemKeyGen x
  let body := sliceAt (b.sec.cert.getD []) 0 4675 ++ sliceAt b.sec.identPub 0 2592 ++ sliceAt ek 0 1568 ++ nonce
  if !Config.mlkemPairOk ek dk then enterError (raise b 61 0)
  else
    let b := b.modLink p fun l => { l with sess :=
      { initiator := true, started := true, initMsg := mgmtBytes mtInit body, dk := dk } }
    sendNeighbour b p mtInit body

/-- A port at step 7 of R80 with everything a session needs: the initiator begins, equal chip IDs are logged. A session
that outlived a retraining goes on. -/
def startSession (ao : AO) (b : Block) (p : Nat) : Block :=
  let l := b.link p
  if l.phase != .session then b
  else if l.sess.established then enterReady b p
  else if !inService ao || b.sec.cert.isNone || l.sess.started || l.sess.waitRetry then b
  else match l.peerCap with
    | none => b
    | some w =>
      if bitsOf w 31 16 = b.setup.chipId then raise b 49 p (status := .route)
      else if isInitiator b l then sendInit b p
      else b

/-- A failed check (R394): a security event, and the session is tried again after a second. -/
def sessionFailed (b : Block) (p : Nat) : Block :=
  let b := toAo (raise b 47 p (status := .route)) .security
  b.modLink p fun l => { l with sess := { waitRetry := true } }

/-- The first message of a type in a port's inbox, and the port without it. -/
def takeMsg (b : Block) (p mtype : Nat) : Option ((Nat × Bytes) × Block) :=
  let l := b.link p
  match l.inbox.find? fun m => m.1 == mtype with
  | none => none
  | some m => some (m.2, b.setLink p { l with inbox := l.inbox.erase m })

/-- CAPABILITY (R80, steps 5 and 6). (DEDUCED, log 82) -/
def capability (p : Nat) (ao : AO) (b : Block) : Block :=
  match takeMsg b p mtCapability with
  | none => b
  | some ((_, body), b) =>
    let l := b.link p
    if l.phase != .exchange || l.peerCap.isSome then b
    else
      let w := fieldAt body 0 8
      let want := b.setup.neighbours.getD p 0xFFFF
      let l := { l with peerCap := some w }
      if !bitOf w 12 then (linkDown b p).modLink p fun l => { l with phase := .down }
      else if b.boot.active.isSome && want ≠ 0xFFFF && want ≠ bitsOf w 31 16 then
        raise (b.setLink p { l with mismatch := true }) 49 p (status := .route)
      else match lanesFrom (bitsOf w 7 4) l.narrow with
        | none => linkDown b p
        | some n =>
          if bitsOf w 9 8 = 0 then linkDown b p
          else
            let rate := bitsOf w 9 9
            let fec := b2n (rate == 0 && bitOf w 11 && bitOf (linkCapWord b p) 11)
            if n ≠ l.lanes || rate ≠ l.rate || fec ≠ l.fec then retrainWith (b.setLink p l) p n rate fec
            else startSession ao (b.setLink p { l with phase := .session }) p

def execCapability (port : Nat) (s : State) : Host.Outcome State Fault Refusal := lift (capability port) s

/-- SESSION_INIT (R391): the responder checks the initiator and answers. -/
def sessionInit (p : Nat) (ao : AO) (b : Block) : Block :=
  match takeMsg b p mtInit with
  | none => b
  | some ((_, m), b) =>
    let l := b.link p
    let ids := match l.peerCap with | some w => bitsOf w 31 16 | none => b.setup.chipId
    if l.phase != .session || l.sess.established || l.sess.waitRetry || isInitiator b l || ids == b.setup.chipId ||
        !inService ao || b.sec.cert.isNone then b
    else if !certOk b l (sliceAt m 0 4675) (sliceAt m 4675 2592) then sessionFailed b p
    else
      let (x, b) := drbg b 32
      let (nonce, b) := drbg b 32
      let (rnd, b) := drbg b 32
      let (ct, k) := Config.mlkemEncaps (sliceAt m 7267 1568) x
      let head := sliceAt (b.sec.cert.getD []) 0 4675 ++ sliceAt b.sec.identPub 0 2592 ++ sliceAt ct 0 1568 ++ nonce
      let word := natLe 8 (mtResp + 13494 * 2 ^ 16)
      let initMsg := mgmtBytes mtInit m
      let t := transcriptOf b p l initMsg (word ++ head)
      let body := head ++ sliceAt (Config.mldsaSign b.sec.identPriv t rnd) 0 4627
      let b := b.modLink p fun l => { l with sess :=
        { started := true, initMsg := initMsg, respMsg := mgmtBytes mtResp body, secret := k, transcript := t } }
      sendNeighbour b p mtResp body

def execSessionInit (port : Nat) (s : State) : Host.Outcome State Fault Refusal := lift (sessionInit port) s

/-- SESSION_RESP (R391, R393): the initiator checks the responder, derives the keys and signs. -/
def sessionResp (p : Nat) (_ao : AO) (b : Block) : Block :=
  match takeMsg b p mtResp with
  | none => b
  | some ((_, m), b) =>
    let l := b.link p
    if l.phase != .session || l.sess.established || !l.sess.started || !isInitiator b l then b
    else
      let respMsg := mgmtBytes mtResp m
      let t := transcriptOf b p l l.sess.initMsg respMsg
      let sigma := sliceAt m 8867 4627
      let pub := sliceAt m 4675 2592
      if !certOk b l (sliceAt m 0 4675) pub || !Config.mldsaVerify pub t sigma then sessionFailed b p
      else
        let k := Config.mlkemDecaps l.sess.dk (sliceAt m 7267 1568)
        let (rnd, b) := drbg b 32
        let body := sliceAt (Config.mldsaSign b.sec.identPriv (Crypto.sha3_256 (t ++ sigma)) rnd) 0 4627
        let b := sendNeighbour b p mtFin body
        let b := b.modLink p fun l => l.newSession
          { l.sess with established := true, respMsg := respMsg, dk := [], secret := k, transcript := t
                        clear := (l.outQ (flitClass vcMgmt 0)).length }
        enterReady b p

def execSessionResp (port : Nat) (s : State) : Host.Outcome State Fault Refusal := lift (sessionResp port) s

/-- SESSION_FIN (R391): the responder checks the initiator's signature. -/
def sessionFin (p : Nat) (_ao : AO) (b : Block) : Block :=
  match takeMsg b p mtFin with
  | none => b
  | some ((_, m), b) =>
    let l := b.link p
    if l.phase != .session || l.sess.established || !l.sess.started || isInitiator b l then b
    else
      let t := l.sess.transcript
      let pub := sliceAt l.sess.initMsg (8 + 4675) 2592
      if !Config.mldsaVerify pub (Crypto.sha3_256 (t ++ sliceAt l.sess.respMsg (8 + 8867) 4627)) m then sessionFailed b p
      else enterReady (b.modLink p fun l => l.newSession { l.sess with established := true }) p

def execSessionFin (port : Nat) (s : State) : Host.Outcome State Fault Refusal := lift (sessionFin port) s

/-- SESSION_TIMEOUT (R394): no security event. -/
def sessionTimeout (p : Nat) (b : Block) : Block :=
  let l := b.link p
  if l.phase == .session && l.sess.started && !l.sess.established then
    raise (b.setLink p { l with sess := { waitRetry := true } }) 47 p (status := .route)
  else b

def execSessionTimeout (port : Nat) (s : State) : Host.Outcome State Fault Refusal :=
  lift (fun _ b => sessionTimeout port b) s

/-- SESSION_RETRY (R394). -/
def sessionRetry (p : Nat) (ao : AO) (b : Block) : Block :=
  let l := b.link p
  if l.phase == .session && l.sess.waitRetry then startSession ao (b.setLink p { l with sess := {} }) p else b

def execSessionRetry (port : Nat) (s : State) : Host.Outcome State Fault Refusal := lift (sessionRetry port) s

/-- A tag failure (R327): a security event; the port goes down and establishes a new session with the peer it knows. -/
def tagFailure (ao : AO) (b : Block) (p : Nat) : Block :=
  let l := b.link p
  let b := toAo (raise (linkDown b p) 46 p) .security
  startSession ao (b.modLink p fun x => { x with phase := .session, trnReq := true, peerCap := l.peerCap }) p

/-! ### Keep-alives (R328, R333, R354) -/

/-- HELD: a channel is critical, or a power domain drains. -/
def heldNow (b : Block) : Bool := b.chans.any (fun e => e.2.therm == 3) || b.pd.any fun e => e.2.drain

/-- AOTIME in ns. -/
def timeNs (ao : AO) : Nat := ao.aotime.toNat * 10 % 2 ^ 64

/-- The KEEPALIVE body at the moment its first flit is placed (R333). -/
def keepaliveBody (ao : AO) (b : Block) (l : Link) : Bytes :=
  let hold := if l.kaEcho = 0 then 0 else (timeNs ao + 2 ^ 64 - l.kaAt) % 2 ^ 64
  natLe 8 (timeNs ao) ++ natLe 8 l.kaEcho ++ natLe 4 hold ++ natLe 1 (b2n (heldNow b)) ++ natLe 3 0

/-- KEEPALIVE_SEND (R328): the message is queued; its times are filled in when it is placed. -/
def execKeepaliveSend (port : Nat) (s : State) : Host.Outcome State Fault Refusal :=
  lift (fun ao b => if portOn (b.link port) then sendNeighbour b port mtKeepalive (keepaliveBody ao b (b.link port)) else b) s

/-- KEEPALIVE (R333): the latency measured, the peer's time kept for the echo, and its HELD state. -/
def keepalive (p : Nat) (ao : AO) (b : Block) : Block :=
  match takeMsg b p mtKeepalive with
  | none => b
  | some ((_, m), b) =>
    b.modLink p fun l =>
      let echo := fieldAt m 8 8
      let trip := (timeNs ao + 2 ^ 64 - echo) % 2 ^ 64
      { l with kaEcho := fieldAt m 0 8, kaAt := timeNs ao, peerHeld := bitOf (fieldAt m 20 1) 0
               latency := if echo = 0 then l.latency else (trip - fieldAt m 16 4) / 2 % 2 ^ 32 }

def execKeepalive (port : Nat) (s : State) : Host.Outcome State Fault Refusal := lift (keepalive port) s

/-- KEEPALIVE_LOSS (R328). -/
def execKeepaliveLoss (port : Nat) (s : State) : Host.Outcome State Fault Refusal :=
  lift (fun _ b => if portOn (b.link port) then linkDown b port else b) s

end Sys2Proof.Machine
end

