-- ==== Sys2Proof/Machine/LinkFlow.lean ====
section
/-! DEFINITION. Flit groups in and out (R317-R326, R331, R336, R341, R391): reception, replay, credits, delivery and
forwarding, slot grants at egress and the assembly of a group. -/

namespace Sys2Proof.Machine

/-! ### Reception -/

/-- Returns one credit of a class. -/
def Link.oweOne (l : Link) (cls : Nat) : Link := { l with owe := l.owe.upd 0 cls (· + 1) }

/-- A dropped flit that breaks the port's protocol (R320, R336, R391). (DEDUCED, log 84) -/
def protoError (b : Block) (p : Nat) : Block := raise b 48 p

/-- The message word and reserved fields of a MGMT message are as R331 to R335 say. -/
def mgmtWellFormed (m : Bytes) (flits : Nat) : Bool :=
  let t := fieldAt m 0 1
  let len := fieldAt m 2 2
  let body := m.drop 8
  fieldAt m 1 1 == 0 && fieldAt m 4 4 == 0 && mgmtLen t == some len && flits == ceilDiv (8 + len) 256 &&
    allZero (body.drop len) &&
    (if t = mtCapability then fieldAt body 0 8 / 2 ^ 35 == 0
     else if t = mtKeepalive then decide (fieldAt body 20 1 < 2) && fieldAt body 21 3 == 0
     else if t = mtSlip then fieldAt body 1 1 == 0 && fieldAt body 8 8 == 0
     else if t = mtAbort then fieldAt body 6 10 == 0
     else if t = mtCommand then fieldAt body 65 1 == 0 && fieldAt body 68 4 == 0
     else if t = mtCompletion then fieldAt body 34 6 == 0
     else true)

/-- Flits from port `p` going through this chip, over the ring where their port of exit stands in another quadrant (R183), or
the reason they are dropped (R341). (DEDUCED, log 83) -/
def forwardFlits (b : Block) (p : Nat) (fs : List Flit) : Block :=
  match fs with
  | [] => b
  | f :: _ =>
    if 65535 ≤ f.hops + 1 then raise b 49 p (status := .route)
    else match routeTo b f.dst with
      | .send q dl =>
        let out := fs.map fun f => { f with hops := f.hops + 1, dl := if dl then 1 else f.dl }
        match ringPath (quadOfPort p) (quadOfPort q) with
        | [] => enqueue b q out
        | path => ringSend b (linkSource p) out.length (.flits q out) path
      | _ => raise b 49 p (status := .route)

/-- A port takes what a session carries: it is established and the peer sends under its keys (R391). -/
def Link.keyed (l : Link) : Bool := l.sess.established && l.sess.rxOn

/-- A whole MGMT message has arrived (R331, R332, R336). (DEDUCED, log 83) -/
def mgmtArrived (b : Block) (p : Nat) (fs : List Flit) : Block :=
  let l := b.link p
  let m := fs.flatMap (·.payload)
  let f := fs.headD idleFlit
  let t := fieldAt m 0 1
  let plain := t == mtKeepalive || t == mtCapability || t == mtInit || t == mtResp || t == mtFin
  let quiet := fs.all fun f => f.rix == 0 && f.vi == 0 && f.ksel == 0 && f.addr == 0 && f.aux == 0
  if !mgmtWellFormed m fs.length || !quiet || (!l.keyed && !plain) then protoError b p
  else if t = mtCommand || t = mtCompletion then
    if f.dst = b.setup.chipId then
      b.setLink p { l with inbox := l.inbox ++ [(t, f.src, (m.drop 8).take (fieldAt m 2 2))] }
    else forwardFlits b p fs
  else b.setLink p { l with inbox := l.inbox ++ [(t, f.src, (m.drop 8).take (fieldAt m 2 2))] }

/-- What tells a MGMT message of a port from another. -/
def mgmtKey (f : Flit) : Nat × Nat × Nat := (f.src, f.dst, f.dl)

/-- The message received in part is dropped when a flit of another comes between its flits (R336). (DEDUCED, log 83) -/
def mgmtBreak (b : Block) (p : Nat) (f : Flit) : Block :=
  let l := b.link p
  match l.mgPart with
  | [] => b
  | g :: _ =>
    if mgmtKey g = mgmtKey f then b
    else protoError (b.setLink p { l with mgPart := [], mgBad := l.mgBad ++ [mgmtKey g] }) p

/-- A MGMT flit joins its message, which is delivered once whole, unless the message is being dropped (R331, R336).
(DEDUCED, log 83) -/
def mgmtFlit (b : Block) (p : Nat) (f : Flit) : Block :=
  let b := mgmtBreak (b.modLink p fun l => l.oweOne (flitClass f.vc f.dl)) p f
  let l := b.link p
  if l.mgBad.contains (mgmtKey f) then
    if f.eom then b.setLink p { l with mgBad := l.mgBad.filter (· != mgmtKey f) } else b
  else if f.eom then mgmtArrived (b.setLink p { l with mgPart := [] }) p (l.mgPart ++ [f])
  else if 60 ≤ l.mgPart.length then protoError (b.setLink p { l with mgPart := [] }) p
  else b.setLink p { l with mgPart := l.mgPart ++ [f] }

/-- Whether flit `g` belongs to the message stream of `f`: one class, one source. -/
def sameStream (f g : Flit) : Bool := f.vc == g.vc && f.dl == g.dl && f.src == g.src

/-- A SWATCH flit: its payload joins its message, which stands whole in the ingress queue. Its buffer is free at once. -/
def swatchFlit (b : Block) (p : Nat) (f : Flit) : Block :=
  let l := (b.link p).oweOne (flitClass f.vc f.dl)
  let (old, rest) := (l.swPart.filter (sameStream f), l.swPart.filter fun g => !sameStream f g)
  let g := match old with
    | g :: _ => { g with payload := g.payload ++ f.payload, eom := f.eom }
    | [] => f
  if f.eom then b.setLink p { l with swPart := rest, ingress := l.ingress ++ [g] }
  else if 40000 ≤ g.payload.length then protoError (b.setLink p { l with swPart := rest }) p
  else b.setLink p { l with swPart := rest ++ [g] }

/-- The message of its stream that a flit would continue. (DEDUCED, log 83) -/
def openIn (l : Link) (f : Flit) : Bool :=
  match (l.ingress.filter (sameStream f)).reverse.head? with
  | some g => !g.eom
  | none => false

/-- A request or response flit for this chip. -/
def takeFlit (b : Block) (p : Nat) (f : Flit) : Block :=
  let l := b.link p
  let cls := flitClass f.vc f.dl
  let held := (l.ingress.filter fun g => g.op != opSwatch && flitClass g.vc g.dl == cls).length
  if f.op = opSwatch then swatchFlit b p f
  else if f.vc = vcRsp then b.setLink p { l.oweOne cls with ingress := l.ingress ++ [f] }
  else if initCredit cls ≤ held || ((f.op == opBe || f.op == opModq) && !openIn l f) then
    protoError (b.setLink p (l.oweOne cls)) p
  else b.setLink p { l with ingress := l.ingress ++ [f] }

/-- One non-IDLE flit of an accepted group. -/
def flitIn (p : Nat) (b : Block) (f : Flit) : Block :=
  let cls := flitClass f.vc f.dl
  let drop := fun (b : Block) => b.modLink p fun l => l.oweOne cls
  if f.op = 15 || !vcAdmits f.op f.vc then protoError (drop b) p
  else if f.op = opMgmt then mgmtFlit b p f
  else if !(b.link p).keyed then protoError (drop b) p
  else
  let b := wakeP2 b
  if f.dst = b.setup.chipId then takeFlit b p f
  else forwardFlits (drop b) p [f]

/-- What a trailer says of the groups this side sent (R322, R326). -/
def ackIn (l : Link) (t : Bytes) : Link :=
  let a := fieldAt t 52 4 % 2 ^ 31
  let rest := if l.replay.any fun e => e.1 == a then (l.replay.dropWhile fun e => e.1 != a).drop 1 else l.replay
  let gone := fun (s : Nat) => !(rest.any fun e => e.1 == s)
  let l := { l with replay := rest, resends := l.resends.filter fun e => !gone e.1
                    resendAt := match l.resendAt with | some s => if gone s then none else some s | none => none }
  if bitOf (fieldAt t 52 4) 31 && l.resendAt.isNone then { l with resendAt := rest.head?.map (·.1) } else l

/-- Credits a trailer returns. -/
def creditIn (l : Link) (t : Bytes) : Link :=
  (List.range 8).foldl (fun l c => l.setCredit c (l.credit c + fieldAt t (32 + 2 * c) 2)) l

/-- The key a received group is checked under: none while sending is in the clear on the peer's side. (DEDUCED, log 80) -/
def rxKey (l : Link) (seq : Nat) (tagged : Bool) : Option (Bytes × Bytes) :=
  if l.sess.secret.isEmpty || (!l.sess.rxOn && !tagged) then none
  else
    let r := if l.seqRx + 2 ^ 30 < seq then l.sess.rxGen - 1 else l.sess.rxGen
    some (groupKey l false r seq)

/-- FLIT_GROUP (R323, R326, R327, R391). (DEDUCED, log 79, 80) -/
def flitGroup (p : Nat) (g : Bytes) (ao : AO) (b : Block) : Block :=
  let l := b.link p
  if !portOn l || !islandUp b (29 + p) || g.length ≠ groupSize then b
  else if !crcsOk g then raise (b.setLink p { l with nak := true }) 42 p
  else
    let t := trailerOf g
    let seq := fieldAt t 48 4 % 2 ^ 31
    let tagged := !allZero (sliceAt t 0 16)
    let key := rxKey l seq tagged
    let tagOk := match key with
      | some (k, iv) => Crypto.gcmTag k iv (sliceAt t 32 32) (g.take 1088) == sliceAt t 0 16
      | none => true
    if !tagOk then tagFailure ao b p
    else if key.isNone && tagged then protoError b p
    else
      let l := ackIn l t
      if seq ≠ l.seqRx then
        let ahead := decide (0 < (seq + 2 ^ 31 - l.seqRx) % 2 ^ 31) && decide ((seq + 2 ^ 31 - l.seqRx) % 2 ^ 31 < 2 ^ 30)
        b.setLink p { l with nak := l.nak || ahead }
      else
        let next := (seq + 1) % 2 ^ 31
        let l := creditIn { l with
          seqRx := next, nak := false
          sess := { l.sess with rxOn := l.sess.rxOn || key.isSome, rxGen := l.sess.rxGen + b2n (next == 0 && key.isSome) } } t
        let plain := match key with
          | some (k, iv) => Crypto.gcmCrypt k iv (g.take 1088)
          | none => g.take 1088
        let fs := ((List.range 4).map fun i => parseFlit (sliceAt plain (272 * i) 272) (fieldAt t (56 + 2 * i) 2)).filter
          fun f => f.op != 0
        fs.foldl (flitIn p) (b.setLink p l)

def execFlitGroup (port : Nat) (group : Bytes) (s : State) : Host.Outcome State Fault Refusal :=
  lift (flitGroup port group) s

/-! ### Egress -/

/-- The classes that share the slots (R355). -/
def slotClasses : List Nat := [vcReq, vcRsp, vcColl]

/-- The datelines of a class with a flit and a credit. -/
def datelines (l : Link) (vc : Nat) : List Nat :=
  [0, 1].filter fun dl => !(l.outQ (flitClass vc dl)).isEmpty && decide (0 < l.credit (flitClass vc dl))

/-- Classes with a flit and a credit, while a replay group is free (R358, R366). -/
def egressWaiting (l : Link) : List Nat :=
  if 56 ≤ l.replay.length then [] else slotClasses.filter fun vc => !(datelines l vc).isEmpty

/-- Takes the first flit of a class, with its credit. -/
def Link.pop (l : Link) (c : Nat) : Option (Flit × Link) :=
  match l.outQ c with
  | [] => none
  | f :: rest => if l.credit c = 0 then none else some (f, (l.setOutQ c rest).setCredit c (l.credit c - 1))

/-- The dateline whose flit a class sends next: the two take turns. (DESIGN CHOICE, log 77) -/
def turnDateline (b : Block) (p vc : Nat) : Nat :=
  ((b.arbAt (arbDateline p vc)).choose (fun _ => 0) (datelines (b.link p) vc)).getD 0

/-- One slot of the next group (R325, R355-R358): REQ, RSP and COLL weigh 64 each. -/
def grantEgress (b : Block) (p : Nat) : Block :=
  let l := b.link p
  if !portOn l || 4 ≤ l.staged.length then b
  else
    let arb := (b.arbAt (arbEgress p)).unmark (egressWaiting l)
    match arb.choose egressWeight (egressWaiting l) with
    | none => b.setArb (arbEgress p) arb
    | some vc =>
      let dl := turnDateline b p vc
      match l.pop (flitClass vc dl) with
      | none => b
      | some (f, l) =>
        let b := b.setArb (arbDateline p vc) { b.arbAt (arbDateline p vc) with next := dl + 1 }
        (b.setArb (arbEgress p) (arb.charge egressWeight vc)).setLink p { l with staged := l.staged ++ [f] }

/-- What leaves goes under the session's keys: what was queued before the session has left (R391). -/
def Link.sendsKeyed (l : Link) : Bool := l.sess.established && l.sess.clear == 0

/-- The MGMT flit of the next group: a message once begun goes on (R325, R331). (DEDUCED, log 80) -/
def mgmtNext (l : Link) : Option (Flit × Link) :=
  let cs := match l.mgmtOpen with
    | some c => [c]
    | none => if l.sendsKeyed then [flitClass vcMgmt 0, flitClass vcMgmt 1] else [flitClass vcMgmt 0]
  cs.findSome? fun c => (l.pop c).map fun (f, l) =>
    (f, { l with mgmtOpen := if f.eom then none else some c
                 sess := { l.sess with clear := if c = flitClass vcMgmt 0 then l.sess.clear - 1 else l.sess.clear } })

/-- A KEEPALIVE takes its times as it is placed (R333). (DESIGN CHOICE, log 78) -/
def stamp (ao : AO) (b : Block) (l : Link) (first : Bool) (f : Flit) : Flit :=
  if first && fieldAt f.payload 0 1 = mtKeepalive then
    { f with payload := patchAt f.payload 8 (keepaliveBody ao b l) } else f

/-- A group sent for the first time: its MGMT flit, the slots granted (none while it goes in clear, R391), IDLE flits for the
rest. After 1,023 groups without an
IDLE flit one slot of the next is left to it (R459). (DESIGN CHOICE, log 78) -/
def newGroup (ao : AO) (b : Block) (l : Link) : Link :=
  let keyed := l.sendsKeyed
  let (mg, l) := match mgmtNext l with
    | some (f, l') => ([stamp ao b l l.mgmtOpen.isNone f], l')
    | none => ([], l)
  let n := if !keyed then 0 else if 1023 ≤ l.busyGroups then 3 - mg.length else 4 - mg.length
  let fs := mg ++ l.staged.take n
  let credit := (List.range 8).flatMap fun c => natLe 2 (min (l.owe.get 0 c) 65535)
  let key := if keyed then some (groupKey l true l.sess.txGen l.seqTx) else none
  let g := sealGroup key fs credit l.seqTx ((l.seqRx + 2 ^ 31 - 1) % 2 ^ 31) l.nak
  let next := (l.seqTx + 1) % 2 ^ 31
  { l with staged := l.staged.drop n, busyGroups := if fs.length = 4 then l.busyGroups + 1 else 0, owe := [], txOut := g
           replay := l.replay ++ [(l.seqTx, g)], seqTx := next
           sess := { l.sess with txGen := l.sess.txGen + b2n (next == 0 && keyed) } }

/-- A group sent again, bit for bit; one sent again 8 times makes the port retrain (R326). -/
def resendGroup (b : Block) (p s : Nat) (l : Link) : Block :=
  match l.replay.find? fun e => e.1 == s with
  | none => b.setLink p { l with resendAt := none }
  | some (_, g) =>
    let n := l.resends.get 0 s + 1
    let after := ((l.replay.dropWhile fun e => e.1 != s).drop 1).head?.map (·.1)
    let l := { l with txOut := g, resendAt := after, resent := min (l.resent + 1) (2 ^ 32 - 1)
                      resends := l.resends.put 0 s n }
    if n < 8 then b.setLink p l
    else lockLoss p (raise (b.setLink p { l with resends := l.resends.put 0 s 0 }) 44 p)

/-- LINK_EGRESS_GROUP (R317, R323, R325, R326). With 56 groups unacknowledged no new one leaves. -/
def egressGroup (p : Nat) (ao : AO) (b : Block) : Block :=
  let l := b.link p
  if !portOn l || !islandUp b (29 + p) then b
  else match l.resendAt with
    | some s => resendGroup b p s l
    | none => if 56 ≤ l.replay.length then b else b.setLink p (newGroup ao b l)

def execLinkEgressGroup (port : Nat) (s : State) : Host.Outcome State Fault Refusal := lift (egressGroup port) s

end Sys2Proof.Machine
end

