-- ==== Sys2Proof/Machine/LinkServe.lean ====
section
/-! DEFINITION. Requests received over links and their answers: the destination's checks (R293, R313, R337-R339, R390),
Swatch records (R273, R274), the answers to this chip's own requests (R321, R330) and the link timeout. -/

namespace Sys2Proof.Machine

/-! ### Taking a message -/

/-- The flits of the first message of a stream: up to its eom. -/
def firstMessage (f : Flit) (l : List Flit) : Option (List Flit) :=
  let mine := l.filter (sameStream f)
  let head := mine.takeWhile fun g => !g.eom
  (mine[head.length]?).map fun g => head ++ [g]

/-- The first complete message that is first in its stream and begins with an op; a response or a read is one flit. -/
def headMessage (l : Link) (op : Nat) : Option (List Flit) :=
  l.ingress.findSome? fun f =>
    if f.op != op || (l.ingress.find? (sameStream f)) != some f then none
    else if f.vc = vcRsp || op = opRead then some [f]
    else firstMessage f l.ingress

/-- Removes the first occurrence of each flit. -/
def eraseAll (l fs : List Flit) : List Flit := fs.foldl (fun l f => l.erase f) l

/-- Takes the message a row serves; its buffers are free again. -/
def takeMessage (b : Block) (p op : Nat) : Option (List Flit × Block) :=
  let l := b.link p
  match headMessage l op with
  | none => none
  | some fs =>
    let l := { l with ingress := eraseAll l.ingress fs }
    let l := if op = opSwatch || op = opRdata || op = opAck then l
      else fs.foldl (fun l f => l.oweOne (flitClass f.vc f.dl)) l
    some (fs, b.setLink p l)

/-! ### The checks of R337 -/

/-- Checks 1 to 4 for an access of `n` bytes at a local address; check 3 is on the header's addr. -/
def remoteCheck (b : Block) (f : Flit) (vi ksel pa n : Nat) : Option Status :=
  if !(vi == 0 || (b.vinst vi).live) then some .permission
  else if !keyOk b vi ksel then some .keySelect
  else if inWindow pa && !windowOk b vi pa n then some .permission
  else if f.vc ≠ vcColl then none
  else match groupOf b (f.addr * 256) with
    | none => some .bounds
    | some g => if f.aux % 256 = (b.grp g).epoch then none else some .taskAborted

/-- The ordered stream of a request: its source chip and VC (R338); none when unordered. -/
def streamOf (f : Flit) : Option Nat := if bitOf f.aux 8 then none else some (4 * f.src + f.vc)

/-- Presents a request in its stream's turn. -/
def presentIn (b : Block) (k : Option Nat) (l : List Acc) : Block :=
  match k, l with
  | _, [] => b
  | none, l => l.foldl presentRemote b
  | some k, a :: rest =>
    let q := b.streams.get [] k
    let b : Block := { b with streams := b.streams.put [] k (q ++ a :: rest) }
    settleWrites (if q.isEmpty then presentRemote b a else b)

/-- Refuses a request. -/
def refuse (b : Block) (p rix chip : Nat) (write : Bool) (s : Status) : Block :=
  sendAnswer b { port := p, rix := rix, chip := chip, status := s, data := if write then none else some [] }

/-- An operand flit with the enables that follow it: bytes enabled as a mask. -/
structure Item where
  f : Flit
  mask : Bytes

/-- The mask of a BE flit. -/
def maskOf (d : Bytes) : Bytes := (List.range 256).map fun i => if bitOf ((d.getD (i / 8) 0).toNat) (i % 8) then 0xFF else 0

/-- The operands of a message of one op, each followed by its BE when partial (R321); none when it is not of that form. -/
def items (op : Nat) : List Flit → Option (List Item)
  | [] => some []
  | [f] => if f.op = op && !bitOf f.aux 9 then some [{ f := f, mask := List.replicate 256 0xFF }] else none
  | f :: g :: t =>
    if f.op ≠ op then none
    else if bitOf f.aux 9 then
      if g.op = opBe then (items op t).map fun l => { f := f, mask := maskOf g.payload } :: l else none
    else (items op (g :: t)).map fun l => { f := f, mask := List.replicate 256 0xFF } :: l

/-- Offset and number of the bytes from the first to the last enabled one. -/
def enabledSpan (mask : Bytes) : Nat × Nat :=
  let l := (List.range 256).filter fun i => mask.getD i 0 != 0
  match l.head?, l.getLast? with
  | some a, some z => (a, z + 1 - a)
  | _, _ => (0, 0)

/-- The write a request asks for. -/
def remoteWrite (p : Nat) (k : Option Nat) (reply : Bool) (f : Flit) (mask data : Bytes) (rmw : Option Rmw) : Acc :=
  let (o, n) := enabledSpan mask
  { mkAcc (.remote p f.rix f.src k reply) true f.addr o n (f.addr * 256 + o) f.vi f.ksel
      ((List.range 256).map fun i => if mask.getD i 0 = 0 then 0 else data.getD i 0) mask with rmw := rmw }

/-- Checks one operand and presents it, or refuses it. -/
def serveItem (p : Nat) (rmw : Item → Option Rmw) (b : Block) (i : Item) : Block :=
  let (o, n) := enabledSpan i.mask
  match remoteCheck b i.f i.f.vi i.f.ksel (i.f.addr * 256 + o) n with
  | some s => refuse b p i.f.rix i.f.src true s
  | none => presentIn b (streamOf i.f) [remoteWrite p (streamOf i.f) true i.f i.mask i.f.payload (rmw i)]

/-! ### WRITE, READ, the reductions, FADD -/

/-- WRITE (R337, R338). -/
def remWrite (p : Nat) (b : Block) : Block :=
  match takeMessage b p opWrite with
  | none => b
  | some (fs, b) =>
    match items opWrite fs with
    | none => protoError b p
    | some l => l.foldl (serveItem p fun _ => none) b

def execWrite (port : Nat) (s : State) : Host.Outcome State Fault Refusal := lift (fun _ b => remWrite port b) s

/-- One entry of a READ flit. -/
def serveRead (p : Nat) (f : Flit) (b : Block) (e : Nat) : Block :=
  let gran := bitsOf e 39 0
  let rix := bitsOf e 55 40
  let vi := bitsOf e 63 56
  let ksel := bitsOf e 71 64
  match remoteCheck b f vi ksel (gran * 256) 256 with
  | some s => refuse b p rix f.src false s
  | none => presentIn b (streamOf f) [mkAcc (.remote p rix f.src (streamOf f) true) false gran 0 256 (gran * 256) vi ksel [] []]

/-- READ (R321, R337). -/
def remRead (p : Nat) (b : Block) : Block :=
  match takeMessage b p opRead with
  | none => b
  | some (fs, b) =>
    match fs with
    | [] => b
    | f :: _ =>
      let es := ((List.range 16).map fun i => fieldAt f.payload (16 * i) 16).filter fun e => bitOf e 72
      es.foldl (serveRead p f) b

def execRead (port : Nat) (s : State) : Host.Outcome State Fault Refusal := lift (fun _ b => remRead port b) s

/-- The elements of an operand granule: runs of enabled bytes cut at the element's width. (DEDUCED, log 84) -/
def redElts (n : Nat) (mask data : Bytes) (q : Nat → Nat) : Nat → Nat → Option (List RedElt)
  | 0, _ => some []
  | fuel + 1, o =>
    if 256 ≤ o then some []
    else if mask.getD o 0 = 0 then redElts n mask data q fuel (o + 1)
    else if o + n ≤ 256 && ((List.range n).all fun i => mask.getD (o + i) 0 != 0) then
      (redElts n mask data q fuel (o + n)).map fun l => { off := o, val := fieldAt data o n, q := q o } :: l
    else none

/-- Element types each reduction admits at its destination (R219). -/
def redTypeOk (mode ty : Nat) : Bool :=
  match mode with
  | 0 => isRes ty
  | 1 => ty == 10
  | 2 => ty == 10
  | _ => decide (ty ≤ 10)

/-- The destination type of an operand: FP32 for the float additions, else the one its header names (R321).
(DEDUCED, log 84) -/
def redType (mode : Nat) (f : Flit) : Nat := if mode = 1 || mode = 2 then 10 else bitsOf f.aux 15 11

/-- The modulus of the slot an element lies in. -/
def modqAt (n : Nat) (uq : Bool) (m : Bytes) (o : Nat) : Nat := if uq then fieldAt m 0 8 else fieldAt m (o / n * n) n

/-- The modulus bytes of a message and its operand flits. -/
def splitModq (mode : Nat) (fs : List Flit) : Option (List Flit × Bytes) :=
  if mode ≠ 0 then some (fs, [])
  else match fs.getLast? with
    | some m => if m.op = opModq then some (fs.dropLast, m.payload) else none
    | none => none

/-- An operand with the elements it combines. (DEDUCED, log 84) -/
def redItem (mode : Nat) (m : Bytes) (i : Item) : Option (Item × Rmw) :=
  let ty := redType mode i.f
  let n := nibsOf ty / 2
  if !redTypeOk mode ty || n = 0 then none
  else (redElts n i.mask i.f.payload (fun o => if mode = 0 then modqAt n (bitOf i.f.aux 10) m o else 0) 256 0).bind fun es =>
    if mode = 0 && es.any (fun e => e.q == 0) then none else some (i, .reduce mode ty es)

/-- A reduction: a read-modify-write of each operand's granule (R219-R221, R339). -/
def remReduce (mode p : Nat) (b : Block) : Block :=
  match takeMessage b p (5 + mode) with
  | none => b
  | some (fs, b) =>
    let parsed := (splitModq mode fs).bind fun (ops, m) =>
      (items (5 + mode) ops).bind fun l =>
        let is := l.map (redItem mode m)
        let uq := l.all fun i => bitOf i.f.aux 10
        if mode = 0 && (!uq && l.length ≠ 1 || 8 < l.length) then none
        else if is.all Option.isSome then some (is.filterMap id) else none
    match parsed with
    | none => protoError b p
    | some l => l.foldl (fun b (i, r) => serveItem p (fun _ => some r) b i) b

def execRedAddmod (port : Nat) (s : State) : Host.Outcome State Fault Refusal := lift (fun _ b => remReduce 0 port b) s
def execRedFp32 (port : Nat) (s : State) : Host.Outcome State Fault Refusal := lift (fun _ b => remReduce 1 port b) s
def execRedBf16 (port : Nat) (s : State) : Host.Outcome State Fault Refusal := lift (fun _ b => remReduce 2 port b) s
def execRedMax (port : Nat) (s : State) : Host.Outcome State Fault Refusal := lift (fun _ b => remReduce 3 port b) s
def execRedMin (port : Nat) (s : State) : Host.Outcome State Fault Refusal := lift (fun _ b => remReduce 4 port b) s

/-- FADD (R321, R339): one aligned flag element. -/
def remFadd (p : Nat) (b : Block) : Block :=
  match takeMessage b p opFadd with
  | none => b
  | some (fs, b) =>
    match items opFadd fs with
    | none => protoError b p
    | some l =>
      let ok := fun (i : Item) =>
        let (o, n) := enabledSpan i.mask
        (n == 1 || n == 4 || n == 8) && o % n == 0 && ((List.range n).all fun j => i.mask.getD (o + j) 0 == 0xFF)
      if !l.all ok then protoError b p
      else l.foldl (serveItem p fun i =>
        let (o, n) := enabledSpan i.mask
        some (.addFlag o n (fieldAt i.f.payload o n))) b

def execFadd (port : Nat) (s : State) : Host.Outcome State Fault Refusal := lift (fun _ b => remFadd port b) s

/-! ### SWATCH (R273, R274, R339) -/

/-- The granules a run of decoded bytes writes, in order; only the last answers. -/
def swatchAccs (p : Nat) (k : Option Nat) (f : Flit) (pa : Nat) (d : Bytes) : List Acc :=
  let ps := pieces (d.length / 256 + 2) pa d.length
  (List.range ps.length).map fun i =>
    let (a, n) := ps.getD i (0, 0)
    mkAcc (.remote p f.rix f.src k (decide (i + 1 = ps.length))) true (a / 256) (a % 256) n a f.vi f.ksel
      (placeIn (a % 256) (sliceAt d (a - pa) n)) (maskIn (a % 256) n)

/-- The vectors of a block record, and the lowest free decoder of the link's quadrant that can emit them in this window (R266,
R274). -/
def recordVecs (f : Flit) : Nat := ceilDiv (bitsOf (fieldAt f.payload 8 8) 19 8 + 1) 8
def linkDec (b : Block) (p : Nat) (f : Flit) : Option Nat :=
  (freeDecs b (quadOfPort p)).find? fun d => decide (recordVecs f ≤ vectorsLeft b d)

def chargeDec (b : Block) (p : Nat) (f : Flit) : Block :=
  match linkDec b p f with
  | some d => countVectors b d (recordVecs f)
  | none => b

/-- A block record: decoded with the link's codebook and written, or refused. (DEDUCED, log 85) -/
def swatchBlock (p : Nat) (f : Flit) (b : Block) : Block :=
  let m := f.payload
  let w := fieldAt m 8 8
  let t := bitsOf w 19 8 + 1
  let len := bitsOf w 26 20 * 64
  let pa := f.addr * 256 + fieldAt m 0 8 % 256
  let decoded := match (b.link p).store with
    | none => none
    | some (cbits, book) =>
      if bitsOf w 7 5 ≠ 0 || w / 2 ^ 27 ≠ 0 || len = 0 || 64 * 64 < len || m.length < 16 + len then none
      else decodeStored cbits book (bitOf w 4) t (sliceAt m 16 len)
  match decoded with
  | none => refuse b p f.rix f.src true .bounds
  | some d =>
    let k := streamOf f
    let key := k.getD (2 ^ 40 + f.src * 2 ^ 16 + f.rix)
    let l := swatchAccs p (some key) f pa d
    match l.findSome? fun a => remoteCheck b f f.vi f.ksel (a.gran * 256 + a.off) a.len with
    | some s => refuse b p f.rix f.src true s
    | none => presentIn (chargeDec b p f) (some key) l

/-- A block record that comes next waits while no decoder of the link's quadrant can take it (R266, R274, R419). -/
def swatchWaits (b : Block) (p : Nat) : Bool :=
  match headMessage (b.link p) opSwatch with
  | some (f :: _) => fieldAt f.payload 8 8 % 16 == 2 && (linkDec b p f).isNone
  | _ => false

/-- SWATCH: a codebook is loaded, a block written, the end releases the store. (DEDUCED, log 85) -/
def remSwatch (p : Nat) (b : Block) : Block :=
  if swatchWaits b p then b
  else match takeMessage b p opSwatch with
  | none => b
  | some (fs, b) =>
    let f := fs.headD idleFlit
    let w := fieldAt f.payload 8 8
    match w % 16 with
    | 1 =>
      let cbits := bitsOf w 11 8
      let ok := (cbits == 8 || cbits == 12) && bitsOf w 7 4 == 0 && w / 2 ^ 12 == 0 &&
        decide (16 + 8 * 2 ^ cbits ≤ f.payload.length)
      b.modLink p fun l => { l with store := if ok then some (cbits, sliceAt f.payload 16 (8 * 2 ^ cbits)) else none }
    | 2 => swatchBlock p f b
    | 3 => b.modLink p fun l => { l with store := none }
    | _ => refuse b p f.rix f.src true .bounds

def execSwatch (port : Nat) (s : State) : Host.Outcome State Fault Refusal := lift (fun _ b => remSwatch port b) s

/-! ### Answers to this chip's requests -/

/-- Takes the request of a remote index off its port. -/
def takeReq (b : Block) (rix : Nat) (read : Bool) : Option (RemReq × Block) :=
  let p := rix / 8192
  let l := b.link p
  match l.reqs.find? fun e => e.1 == rix % 8192 with
  | none => none
  | some (i, r) =>
    if (r.op == opRead) != read then none
    else some (r, b.setLink p { l with reqs := l.reqs.filter fun e => e.1 != i })

/-- RDATA (R321): a read ends, over the ring where its reader stands in another quadrant (R19, R183), or
the granule a merge needs is combined and written (R142). -/
def rdataIn (p : Nat) (b : Block) (f : Flit) : Block :=
  match takeReq b f.rix true with
  | none => protoError b p
  | some (r, b) =>
    let a := r.acc
    let st := statusOf f.aux
    releaseAll
      (if a.owner == .discard then b
       else if f.aux ≠ 0 then failAcc b a st
       else if a.write then sendWrite b (a.combine f.payload) r.chip
       else readBack b (quadOfPort p) a f.payload)

def execRdata (port : Nat) (s : State) : Host.Outcome State Fault Refusal :=
  lift (fun _ b => match takeMessage b port opRdata with
    | none => b
    | some (fs, b) => settleWrites (fs.foldl (rdataIn port) b)) s

/-- One entry of an ACK flit. -/
def ackEntry (p : Nat) (b : Block) (e : Nat) : Block :=
  match takeReq b (bitsOf e 15 0) false with
  | none => protoError b p
  | some (r, b) =>
    let l := r.acc :: r.also
    releaseAll (if bitsOf e 31 16 = 0 then l.foldl writeDone b
      else l.foldl (fun b a => failAcc b a (statusOf (bitsOf e 31 16))) b)

/-- ACK (R321): the entries of a flit end their requests. -/
def execAck (port : Nat) (s : State) : Host.Outcome State Fault Refusal :=
  lift (fun _ b => match takeMessage b port opAck with
    | none => b
    | some (fs, b) =>
      let es := (fs.flatMap fun f => (List.range 32).map fun i => fieldAt f.payload (8 * i) 8).filter fun e => bitOf e 32
      settleWrites (es.foldl (ackEntry port) b)) s

/-- A write that an instance's reset or a context's abort lets complete within the link timeout (R115, R178). -/
def timeBound (b : Block) (a : Acc) : Bool :=
  a.write && ((b.vinst a.vi).stage == 4 || (match a.owner.ctx with | some c => (b.ctx c).aborting | none => false))

/-- LINK_TIMEOUT (R330): a write, read or SWATCH request goes out again, an arithmetic one fails; so does one that a reset or an
abort waits for no longer. -/
def linkTimeout (p rix : Nat) (b : Block) : Block :=
  let l := b.link p
  match l.reqs.find? fun e => e.1 == rix with
  | none => b
  | some (i, r) =>
    let b := b.setLink p { l with reqs := l.reqs.filter fun e => e.1 != i }
    let all := r.acc :: r.also
    settleWrites (releaseAll
      (if r.acc.owner == .discard then b
       else if r.op != opRead && r.op != opWrite && r.op != opSwatch then failAcc b r.acc .linkDown
       else if timeBound b r.acc then all.foldl (fun b a => failAcc b a .linkDown) b
       else match retryAcc b r.acc with
        | some a => sendRemote b { r with acc := a }
        | none => all.foldl (fun b a => failAcc b a .busRetryExhausted) b))

def execLinkTimeout (port rix : Nat) (s : State) : Host.Outcome State Fault Refusal :=
  lift (fun _ b => linkTimeout port rix b) s

end Sys2Proof.Machine
end

