-- ==== Sys2Proof/Machine/LinkMgmt.lean ====
section
/-! DEFINITION. Groups of chips and heat: SLIP and ABORT (R335, R345, R348-R351), thermal states (R43, R364), and
COMPLETION messages (R334). -/

namespace Sys2Proof.Machine

/-! ### SLIP (R350, R351) -/

/-- A group's quantum in µs and its limit in µs (R342). -/
def GroupCfg.quantum (r : GroupCfg) : Nat := if r.slipq = 0 then 5000 else r.slipq
/-- (DEDUCED, log 87) -/
def GroupCfg.cap (r : GroupCfg) : Nat := 1000 * (if r.slipcap = 0 then 1000 else r.slipcap)

/-- The group's time base moves on: for the waits of its participants on flags in its window (R348), and towards the limit, at which they halt.
(DEDUCED, log 87) -/
def applySlip (b : Block) (g us : Nat) : Block :=
  match b.setup.groups[g]? with
  | none => b
  | some r =>
    let x := b.grp g
    let b := b.setGrp g { x with slip := x.slip + us }
    let ps := participants b g
    let waits := ps.filter fun c => waitGroup b c == some g
    let b := waits.foldl (fun b c => b.modCtx c fun y => { y with slip := y.slip + us }) b
    if r.cap ≤ x.slip + us then ps.foldl (fun b c => haltBegin b c .thermalStop 0) b else b

/-- This block's own SLIP for a group that has a participant here. (DEDUCED, log 87) -/
def originSlip (b : Block) (g : Nat) : Block :=
  match b.setup.groups[g]? with
  | none => b
  | some r =>
    if (participants b g).isEmpty then b
    else applySlip (groupSend b g mtSlip (slipBody g b.setup.chipId r.quantum) none) g r.quantum

/-- Any channel critical (R350). -/
def anyCritical (b : Block) : Bool := b.chans.any fun e => e.2.therm == 3

/-- SLIP received: counted here and forwarded; a ring drops its own on its return; an unknown group is logged (R335,
R351). -/
def slipIn (p : Nat) (b : Block) : Block :=
  match takeMsg b p mtSlip with
  | none => b
  | some ((_, m), b) =>
    let g := fieldAt m 0 1
    match b.setup.groups[g]? with
    | none => raise b 49 p (status := .route)
    | some r =>
      if r.topo = 1 && fieldAt m 2 2 = b.setup.chipId then b
      else applySlip (groupSend b g mtSlip m (some p)) g (fieldAt m 4 4)

def execSlip (port : Nat) (s : State) : Host.Outcome State Fault Refusal := lift (fun _ b => slipIn port b) s

/-- SLIP_QUANTUM (R350). -/
def execSlipQuantum (group : Nat) (s : State) : Host.Outcome State Fault Refusal :=
  lift (fun _ b => if anyCritical b then originSlip b group else b) s

/-! ### ABORT (R349) -/

/-- ABORT of the current epoch ends it here and goes on as a SLIP does; any other is dropped. -/
def abortIn (p : Nat) (b : Block) : Block :=
  match takeMsg b p mtAbort with
  | none => b
  | some ((_, m), b) =>
    let g := fieldAt m 0 1
    match b.setup.groups[g]? with
    | none => raise b 49 p (status := .route)
    | some r =>
      if fieldAt m 1 1 ≠ (b.grp g).epoch then b
      else
        let b := endGroup (raise b 50 g (status := statusOf (fieldAt m 4 2))) g
        if r.topo = 1 && fieldAt m 2 2 = b.setup.chipId then b else groupSend b g mtAbort m (some p)

def execAbort (port : Nat) (s : State) : Host.Outcome State Fault Refusal := lift (fun _ b => abortIn port b) s

/-! ### COMPLETION (R334) -/

/-- A COMPLETION is delivered with its sender. (DESIGN CHOICE, log 86) -/
def execCompletion (port : Nat) (s : State) : Host.Outcome State Fault Refusal :=
  lift (fun _ b => match takeMsg b port mtCompletion with
    | none => b
    | some (m, b) => { b with received := b.received ++ [m] }) s

/-! ### Thermal states (R43, R350, R364) -/

/-- THERM_CHANGE: a recognised state; critical acts at once, the others at the next window. A partner that reports no
heat reads as normal (R76). -/
def thermChange (n : Nat) (t : BitVec 2) (b : Block) : Block :=
  let c := b.chan n
  let t := match c.mode with | some m => if m.therm then t else 0 | none => t
  if 24 ≤ n || c.therm == t then b
  else
    let crit := t == 3
    let first := crit && !anyCritical b
    let b := b.setChan n { c with therm := t, budget := if crit then 0 else c.budget }
    let b := if crit then raise b 40 n else b
    if first then (List.range b.setup.groups.length).foldl originSlip b else b

end Sys2Proof.Machine
end

