-- ==== Sys2Proof/Machine/Queues.lean ====
section
/-! DEFINITION. The commands on queues, trackers, canvases and streams: NOP to CANVAS_DESTROY and STREAM_OPEN,
STREAM_CLOSE (R90-R108, R118-R140). -/

namespace Sys2Proof.Machine

/-! ### NOP -/

/-- NOP; its row also answers a reserved opcode (R103, R104). -/
def cmdNop : Cmd := fun _ b c r =>
  if !listedOpcodes.contains (fieldAt c 0 1) then (b, .now .badOpcode 0 0)
  else guarded b (check0 b c r .any [] true) (b, .now .ok 0 0)

def execNop (src : CmdSrc) (s : State) : Host.Outcome State Fault Refusal := lift (serveRow 0x01 cmdNop src) s

/-! ### Queues (R96, R105) -/

/-- The completion queue an SQ_CREATE binds to. (DEDUCED, log 49) -/
def bindCq (b : Block) (vi i : Nat) : Option Status :=
  let q := b.cq i
  if !q.usable then some .badHandle else if q.vi ≠ vi then some .permission else none

/-- SQ_CREATE assigns the lowest free queue index. (DESIGN CHOICE, log 105) -/
def cmdSqCreate : Cmd := fun _ b c r =>
  let base := fieldAt c 16 8
  let k := fieldAt c 24 1
  let kind := fieldAt c 25 1
  let cqi := fieldAt c 26 2
  guarded b (check0 b c r .any [(16, 27)] (base % 4096 == 0 && decide (4 ≤ k) && decide (k ≤ 16) && decide (kind ≤ 1)))
    (guarded b (bindCq b r.vi cqi)
      (match lowestIn b.rin.sqs.keys 32768 with
        | some i =>
          if (b.rin.sqs.filter fun e => e.2.live && e.2.vi == r.vi).length < quotaOf b r.vi (·.sq) 32768 then
            (b.setSq i { live := true, vi := r.vi, base := base, k := k, direct := kind == 1, cq := cqi }, .now .ok i 0)
          else (b, .now .poolEmpty 0 0)
        | none => (b, .now .poolEmpty 0 0)))

def execSqCreate (src : CmdSrc) (s : State) : Host.Outcome State Fault Refusal := lift (serveRow 0x10 cmdSqCreate src) s

/-- Existence and ownership of a queue target (check 4). -/
def sqTarget (b : Block) (vi t : Nat) : Option Status :=
  let q := b.sq t
  if !q.usable then some .badHandle else if q.vi ≠ vi then some .permission else none

def cqTarget (b : Block) (vi t : Nat) : Option Status :=
  let q := b.cq t
  if !q.usable then some .badHandle else if q.vi ≠ vi then some .permission else none

/-- Answers the unstarted entries of a NORMAL queue with TASK_ABORTED (R105); the tag and opcode of an entry that cannot
be read are free. (DEDUCED, log 49) -/
def abortEntries (i : Nat) : Nat → Block → Block
  | 0, b => b
  | n + 1, b =>
    let q := b.sq i
    if q.head = q.tail then b
    else
      let h := (q.head + 1) % q.size
      let (c, b) := match readVa b q.vi clsControl (q.base + 64 * q.head) 64 with
        | .ok c => (c, palNote b q.vi (q.base + 64 * q.head) 64)
        | .error _ =>
          let (f, b) := drawFree b 3
          (f.drop 2 ++ [0, 0, 0] ++ f.take 2, b)
      let b := pushCpl (b.setSq i { q with head := h }) q.cq
        { status := Status.taskAborted.code, tag := fieldAt c 4 2, opcode := fieldAt c 0 1, sq := i, result := 0
          detail := 0, sqHead := h }
      abortEntries i n b

/-- Takes a queue out of use: its unstarted entries are answered, it dies when its started commands have ended.
(DEDUCED, log 49) -/
def killSq (b : Block) (i : Nat) (owed : Option Reply) : Block :=
  let q := b.sq i
  let b := if q.direct then b else abortEntries i q.size b
  let q := b.sq i
  b.setSq i { q with dying := true, owed := owed }

def cmdSqDestroy : Cmd := fun _ b c r =>
  let t := cmdTarget c
  guarded b (check b c r .any (sqTarget b r.vi t) 0 [] true) (settleAll (killSq b t (some r)), .later)

def execSqDestroy (src : CmdSrc) (s : State) : Host.Outcome State Fault Refusal := lift (serveRow 0x11 cmdSqDestroy src) s

/-- CQ_CREATE assigns the lowest free queue index. (DESIGN CHOICE, log 105) -/
def cmdCqCreate : Cmd := fun _ b c r =>
  let base := fieldAt c 16 8
  let k := fieldAt c 24 1
  let irq := fieldAt c 25 1
  let g := fieldAt c 26 1
  guarded b
    (check0 b c r .any [(16, 26)]
      (base % 4096 == 0 && decide (4 ≤ k) && decide (k ≤ 16) && decide (irq ≤ 1) && decide (g ≤ 63)))
    (match lowestIn b.rin.cqs.keys 4096 with
      | some i =>
        if (b.rin.cqs.filter fun e => e.2.live && e.2.vi == r.vi).length < quotaOf b r.vi (·.cq) 4096 then
          (b.setCq i { live := true, vi := r.vi, base := base, k := k, irq := irq == 1, group := g }, .now .ok i 0)
        else (b, .now .poolEmpty 0 0)
      | none => (b, .now .poolEmpty 0 0))

def execCqCreate (src : CmdSrc) (s : State) : Host.Outcome State Fault Refusal := lift (serveRow 0x12 cmdCqCreate src) s

def cmdCqDestroy : Cmd := fun _ b c r =>
  let t := cmdTarget c
  guarded b (check b c r .any (cqTarget b r.vi t) 0 [] true)
    (let bound := (b.rin.sqs.filter fun e => e.2.live && e.2.cq == t && !e.2.dying).map (·.1)
     let b := bound.foldl (fun b i => killSq b i none) b
     (settleAll (b.setCq t { b.cq t with dying := true, owed := some r }), .later))

def execCqDestroy (src : CmdSrc) (s : State) : Host.Outcome State Fault Refusal := lift (serveRow 0x13 cmdCqDestroy src) s

/-! ### Trackers (R107) -/

/-- The lowest start of `n` numbers free in a rising list of used ones. -/
def firstFit (n : Nat) : List Nat → Nat → Nat
  | [], i => i
  | k :: ks, i => if i + n ≤ k then i else firstFit n ks (k + 1)

def trackerSpace : Nat := 1048576

/-- Inserts trackers first .. first + n - 1 for an instance, kept in rising order. -/
def addTrackers (l : List (Nat × Tracker)) (first n vi va : Nat) : List (Nat × Tracker) :=
  l.filter (fun e => decide (e.1 < first)) ++
    (List.range n).map (fun j => (first + j, { vi := vi, va := va + 8 * j, count := 0 })) ++
    l.filter (fun e => decide (first ≤ e.1))

def cmdTrackerAlloc : Cmd := fun _ b c r =>
  let va := fieldAt c 16 8
  let n := fieldAt c 24 4
  guarded b (check0 b c r .any [(16, 27)] (va % 8 == 0 && decide (1 ≤ n) && decide (n ≤ 65536)))
    (let first := firstFit n (b.rin.trackers.map (·.1)) 0
     let held := (b.rin.trackers.filter fun e => e.2.vi == r.vi).length
     if first + n ≤ trackerSpace && held + n ≤ quotaOf b r.vi (·.trackers) trackerSpace then
       ({ b with rin := { b.rin with trackers := addTrackers b.rin.trackers first n r.vi va } }, .now .ok first 0)
     else (b, .now .poolEmpty 0 0))

def execTrackerAlloc (src : CmdSrc) (s : State) : Host.Outcome State Fault Refusal :=
  lift (serveRow 0x14 cmdTrackerAlloc src) s

/-- The rows of R107 that stand for check 4 of TRACKER_FREE. -/
def trackerRows (b : Block) (vi first n : Nat) : Option Status :=
  let own := (b.rin.trackers.filter fun e => decide (first ≤ e.1) && decide (e.1 < first + n))
  if first + n > trackerSpace then some .bounds
  else if own.length < n then some .doubleFree
  else if own.any fun e => e.2.vi != vi then some .notOwner
  else none

/-- (DEDUCED, log 50) -/
def cmdTrackerFree : Cmd := fun _ b c r =>
  let first := cmdTarget c
  let n := fieldAt c 16 4
  let rows := trackerRows b r.vi first n
  if Issuer.any.ok r.vi && cmdGen c == (b.vinst r.vi).gen && rows != none then
    match rows with
    | some s => (raise b 53 0 (status := s) (vi := r.vi) (detail := first), .now s 0 0)
    | none => (b, .now .ok 0 0)
  else
    guarded b (check b c r .any rows 0 [(16, 19)] true)
      (let rest := b.rin.trackers.filter fun e => decide (e.1 < first) || decide (first + n ≤ e.1)
       ({ b with rin := { b.rin with trackers := rest } }, .now .ok 0 0))

def execTrackerFree (src : CmdSrc) (s : State) : Host.Outcome State Fault Refusal :=
  lift (serveRow 0x15 cmdTrackerFree src) s

/-! ### Canvases (R118, R137, R140) -/

/-- CANVAS_CREATE: the descriptor is read and validated within check 6, then quota and slots within check 7. -/
def cmdCanvasCreate : Cmd := fun _ b c r =>
  let va := fieldAt c 16 8
  guarded b (check0 b c r .any [(16, 23)] (va % 8 == 0))
    (match readVa b r.vi clsControl va 128 with
      | .error (s, at_) => (b, .lost s at_)
      | .ok d =>
        let b := palNote b r.vi va 128
        match validateCanvas b r.vi d with
        | .error (s, at_) => (b, .lost s at_)
        | .ok cv =>
          let b := noteModuli b r.vi cv
          match pickSlot b with
          | none => (b, .now .poolEmpty 0 0)
          | some n =>
            if canvasesOf b r.vi < quotaOf b r.vi (·.canvases) 16384 then
              let b := takeSlot b n r.vi cv
              (b, .now .ok (handleOf b n) 0)
            else (b, .now .poolEmpty 0 0))

def execCanvasCreate (src : CmdSrc) (s : State) : Host.Outcome State Fault Refusal :=
  lift (serveRow 0x20 cmdCanvasCreate src) s

/-- The status of a handle target (check 4). -/
def handleTarget (b : Block) (vi h : Nat) : Option Status :=
  match checkHandle b vi h with
  | .error s => some s
  | .ok _ => none

def cmdCanvasDestroy : Cmd := fun _ b c r =>
  let h := cmdTarget c
  guarded b (check b c r .any (handleTarget b r.vi h) 0 [] true) (freeSlot b (h % 2 ^ 14), .now .ok 0 0)

def execCanvasDestroy (src : CmdSrc) (s : State) : Host.Outcome State Fault Refusal :=
  lift (serveRow 0x21 cmdCanvasDestroy src) s

/-! ### Streams (R108) -/

def cmdStreamOpen : Cmd := fun _ b c r =>
  let port := fieldAt c 16 1
  let egress := fieldAt c 17 1
  let h := fieldAt c 24 8
  guarded b (check0 b c r .any [(16, 17), (24, 31)] (decide (port < 8) && decide (egress ≤ 1)))
    (guarded b (handleTarget b r.vi h)
      (let p := b.sport port
       if p.openNos.length ≥ 4096 then (b, .now .poolEmpty 0 0)
       else
         let n := lowestFree (p.openNos.map (·.1)) 1
         let e : StreamNo := { egress := egress == 1, vi := r.vi, handle := h
                               layout := (b.slot (h % 2 ^ 14)).canvas.layout, inbuf := [], ended := false }
         (b.setSport port { p with openNos := Tab.insert p.openNos n e }, .now .ok n 0)))

def execStreamOpen (src : CmdSrc) (s : State) : Host.Outcome State Fault Refusal := lift (serveRow 0x80 cmdStreamOpen src) s

/-- The stream a STREAM_CLOSE names: port in byte 0, number in bytes 2-3; a target with another byte set names none.
(DESIGN CHOICE, log 106) -/
def streamTarget (b : Block) (vi t : Nat) : Option Status :=
  if bitsOf t 15 8 ≠ 0 || bitsOf t 63 32 ≠ 0 || 8 ≤ t % 256 then some .badHandle
  else match (b.sport (t % 256)).openNos.find? fun e => e.1 == bitsOf t 31 16 with
    | none => some .badHandle
    | some e => if e.2.vi ≠ vi then some .permission else none

/-- Closes a stream number on a port. -/
def closeStream (b : Block) (port n : Nat) : Block :=
  let p := b.sport port
  b.setSport port { p with openNos := p.openNos.filter fun e => e.1 != n }

def cmdStreamClose : Cmd := fun _ b c r =>
  let t := cmdTarget c
  guarded b (check b c r .any (streamTarget b r.vi t) 0 [] true)
    (closeStream b (t % 256) (bitsOf t 31 16), .now .ok 0 0)

def execStreamClose (src : CmdSrc) (s : State) : Host.Outcome State Fault Refusal :=
  lift (serveRow 0x81 cmdStreamClose src) s

end Sys2Proof.Machine
end

