-- ==== Sys2Proof/Machine/RingHops.lean ====
section
/-! DEFINITION. The inter-quadrant ring at work (R19, R183, R184, R355, R356): what waits at a hop, one grant of a beat, and
what arrives at its quadrant. -/

namespace Sys2Proof.Machine

/-- The quadrant a hop leads from, and the one it leads to. -/
def hopFrom (h : Nat) : Nat := h / 2
def hopTo (h : Nat) : Nat := if h % 2 = 0 then (h / 2 + 1) % 4 else (h / 2 + 3) % 4

/-- What waits at a hop, oldest first. -/
def hopItems (b : Block) (h : Nat) : List RingItem := b.ring.get [] h

/-- The requesters that wait at a hop: those with data for it, while both its ends run (R358); a hop always has room, as the
spec gives it no size. (DEDUCED, log 94) -/
def hopWaiting (b : Block) (h : Nat) : List Nat :=
  if h < 8 && quadUp b (hopFrom h) && quadUp b (hopTo h) then ((hopItems b h).map (·.req)).eraseDups else []

/-- Data has crossed its last hop. -/
def ringArrive (b : Block) (l : RingLoad) : Block :=
  match l with
  | .write a => if (b.chan a.ch).service == .fenced then formAcc b { a with tag := none } else pushAcc b a
  | .read a d => readDone b a d
  | .egress p o => b.setSport p { b.sport p with out := (b.sport p).out ++ [o] }
  | .ingress c seq d => tryUnits (modExec b c seq fun e => { e with sgot := e.sgot ++ d }) c
  | .flits p fs => enqueue b p fs
  | .encode p chip a => releaseAll (encodeArrive b p chip a)

/-- One beat of a requester's oldest item crosses hop `h`; with its last one the item goes on to the next hop, or has
arrived. -/
def hopBeat (b : Block) (h req : Nat) : Block :=
  let l := hopItems b h
  let n := l.findIdx fun i => i.req == req
  match l[n]? with
  | none => b
  | some i =>
    if 1 < i.beats then { b with ring := b.ring.put [] h (l.set n { i with beats := i.beats - 1 }) }
    else
      let b : Block := { b with ring := b.ring.put [] h (l.eraseIdx n) }
      match i.path with
      | [] => ringArrive b i.load
      | _ => ringSend b i.req i.size i.load i.path

/-- A grant at a hop (R355-R358): one 256-byte beat. -/
def grantHop (b : Block) (h : Nat) : Block :=
  let arb := (b.arbAt (arbRing h)).unmark (hopWaiting b h)
  match arb.choose (weightOf b) (hopWaiting b h) with
  | none => b.setArb (arbRing h) arb
  | some r => settleWrites (hopBeat (b.setArb (arbRing h) (arb.charge (weightOf b) r)) h r)

end Sys2Proof.Machine
end

