-- ==== Sys2Proof/Machine/Windows.lean ====
section
/-! DEFINITION. Grants by arbitration point (R355-R364) and window boundaries (R463). -/

namespace Sys2Proof.Machine

/-! ### Palette banks (R355, R450) -/

/-- A bank that runs: of a quadrant, or the dual-port region in CT. -/
def bankUp (b : Block) (k : Nat) : Bool := if k < 4 then quadUp b k else decide (k = 4) && ctUp b

/-- An access waits for a bank unless its line is still being filled from memory. -/
def palReady (b : Block) (i : PalItem) : Bool :=
  i.off.isSome || i.acc.fill || (match findLine b i.acc.gran with | some l => !l.filling | none => true)

/-- What may have a word of a bank, oldest first. -/
def palItems (b : Block) (k : Nat) : List PalItem := (b.palq.get [] k).filter (palReady b)

def palWaiting (b : Block) (k : Nat) : List Nat := if bankUp b k then ((palItems b k).map (·.req)).eraseDups else []

/-- One word of a requester's oldest access at a bank; with its last one the access is served. A line of another key selector
is dropped or written back first (R309). -/
def palWord (b : Block) (k req : Nat) : Block :=
  let l := b.palq.get [] k
  let n := l.findIdx fun i => i.req == req && palReady b i
  match l[n]? with
  | none => b
  | some i =>
    if 1 < i.words then { b with palq := b.palq.put [] k (l.set n { i with words := i.words - 1 }) }
    else match (if i.off.isSome || i.acc.fill then (b, false) else prepareGran b i.acc.gran i.acc.ksel) with
      | (b, true) => b
      | (b, false) =>
        let b : Block := { b with palq := b.palq.put [] k (l.eraseIdx n) }
        match palServe b i with
        | (b, s) => palServed b i.acc s

/-- A grant at a Palette bank (R355-R358): one 64-byte word. -/
def grantPal (b : Block) (k : Nat) : Block :=
  let arb := (b.arbAt (arbPal k)).unmark (palWaiting b k)
  match arb.choose (weightOf b) (palWaiting b k) with
  | none => b.setArb (arbPal k) arb
  | some r => settleWrites (palWord (b.setArb (arbPal k) (arb.charge (weightOf b) r)) k r)

/-- BURST_GRANT: one grant at a point. -/
def burstGrant (pt : ArbPoint) (b : Block) : Block :=
  match pt with
  | .context q w => settleWrites (grantCtx b q w)
  | .channel n w => if n < 24 && islandUp b (5 + n) then settleWrites (grantChan b n w) else b
  | .ring h => grantHop b h
  | .egress p => if p < 8 && islandUp b (29 + p) then grantEgress b p else b
  | .palette k => grantPal b k

def execBurstGrant (point : ArbPoint) (s : State) : Host.Outcome State Fault Refusal :=
  lift (fun _ b => burstGrant point b) s

/-- A boundary at one point. -/
def boundaryAt (b : Block) (key : Nat) (w : Nat → Nat) (waiting : List Nat) : Block :=
  b.setArb key ((b.arbAt key).boundary w waiting)

/-- Prefetch buckets refill at the boundaries of Q0 (R368). -/
def refillBuckets (b : Block) : Block :=
  { b with rin := { b.rin with vis := b.rin.vis.mapVals {} fun _ v =>
      if v.tpl.pfWmax = 0 then v else { v with bucket := min (v.bucket + v.tpl.rate) v.tpl.depth } } }

/-- A quadrant's boundary: its context arbiters, ring hops, Palette bank and decoders (R266); held beats may leave again. -/
def quadBoundary (b : Block) (q : Nat) : Block :=
  let b := boundaryAt b (arbCtx q) (weightOf b) (waitingAt b q)
  let b := boundaryAt b (arbRing (2 * q)) (weightOf b) (hopWaiting b (2 * q))
  let b := boundaryAt b (arbRing (2 * q + 1)) (weightOf b) (hopWaiting b (2 * q + 1))
  let b := boundaryAt b (arbPal q) (weightOf b) (palWaiting b q)
  let b := if q = 0 then refillBuckets b else b
  let b : Block := { b with arb := (List.range 32).foldl (fun t i => Tab.erase t (arbDec (32 * q + i))) b.arb }
  (b.ctxs.filter fun e => quadOfCtx e.1 == q).foldl (fun b e => tryUnits (releaseLanes (flushOuts b e.1) e.1) e.1) b

/-- A channel's boundary (R363, R364). -/
def chanBoundary (b : Block) (n : Nat) : Block :=
  let b := b.modChan n fun c => c.refill b.setup.pct
  let b := boundaryAt b (arbChan n false) (weightOf b) ((pathWaiting b n false).map (·.1))
  boundaryAt b (arbChan n true) (weightOf b) ((pathWaiting b n true).map (·.1))

/-- WINDOW_BOUNDARY of an island, numbered as flt_safe numbers it; a gated or stopped island has none. The dual-port region
of the Palette lies in CT (R16) and counts on CT's boundaries. (DESIGN CHOICE, log 100) -/
def windowBoundary (i : Nat) (b : Block) : Block :=
  if 38 ≤ i || !islandUp b i || (decide (i < 5) && decide (2 ≤ b.power.state)) then b
  else
    let b : Block := { b with islands := { b.islands with win := b.islands.win.put 0 i 0 } }
    if i < 4 then quadBoundary b i
    else if i = 4 then b
    else if i < 29 then chanBoundary b (i - 5)
    else if i < 37 then boundaryAt b (arbEgress (i - 29)) egressWeight (egressWaiting (b.link (i - 29)))
    else boundaryAt b (arbPal 4) (weightOf b) (palWaiting b 4)

def execWindowBoundary (island : Nat) (s : State) : Host.Outcome State Fault Refusal :=
  lift (fun _ b => windowBoundary island b) s

end Sys2Proof.Machine
end

