-- ==== Sys2Proof/Machine/Setup.lean ====
section
/-! DEFINITION. Setup images (R82-R87) with their sections (R84, R110, R340, R342, R365, R367, R415, R294), the defaults in
OTP (R439, R441), and the firmware image (R71, R72). -/

namespace Sys2Proof.Machine

/-! ### Sections (R83) -/

/-- A length padded to 8 bytes. -/
def pad8 (n : Nat) : Nat := 8 * ceilDiv n 8

/-- Cuts a payload into its sections: type and body. A body's padding bytes must be zero. (DESIGN CHOICE, log 101) -/
def sections : Nat → Bytes → Option (List (Nat × Bytes))
  | 0, _ => none
  | _, [] => some []
  | n + 1, d =>
    let len := fieldAt d 4 4
    if d.length < 8 + pad8 len || fieldAt d 2 2 ≠ 0 || !allZero ((d.drop (8 + len)).take (pad8 len - len)) then none
    else (sections n (d.drop (8 + pad8 len))).map fun t => (fieldAt d 0 2, sliceAt d 8 len) :: t

/-- Every type listed and present at most once. -/
def typesOk (l : List (Nat × Bytes)) : Bool :=
  l.all (fun s => decide (1 ≤ s.1) && decide (s.1 ≤ 6)) && decide ((l.map (·.1)).eraseDups.length = l.length)

/-- The start-up section (R84): its length, and no reserved field or value (R85). -/
def startupOk (d : Bytes) : Bool :=
  d.length == 48 && fieldAt d 2 2 == 0 && fieldAt d 7 1 == 0 && fieldAt d 11 1 == 0 && decide (fieldAt d 12 1 < 3) &&
    fieldAt d 13 3 == 0 && fieldAt d 24 8 == 0 && (List.range 8).all fun p => !bitOf (fieldAt d (16 + p) 1) 7

/-- An instance template and whether it is legal (R110, R367). -/
def parseTemplate (t : Bytes) : Template :=
  { sq := fieldAt t 0 2, cq := fieldAt t 2 2, trackers := fieldAt t 4 4, canvases := fieldAt t 8 4
    contexts := fieldAt t 12 2, palette := fieldAt t 14 2, keys := fieldAt t 16 1, bulk := bitOf (fieldAt t 17 1) 0
    remote := bitOf (fieldAt t 17 1) 1, pfWmax := fieldAt t 18 1, rate := fieldAt t 20 4, depth := fieldAt t 24 4 }

def templateOk (t : Bytes) : Bool :=
  let x := parseTemplate t
  decide (x.sq ≤ 32768) && decide (x.cq ≤ 4096) && decide (x.trackers ≤ 1048576) && decide (x.canvases ≤ 16384) &&
    decide (x.contexts ≤ 256) && decide (x.palette ≤ 11776) && decide (fieldAt t 17 1 < 4) && fieldAt t 19 1 == 0 &&
    fieldAt t 28 4 == 0 &&
    (if x.pfWmax = 0 then x.rate == 0 && x.depth == 0
     else decide (1 ≤ x.rate) && decide (x.rate ≤ 2 ^ 24) && decide (max 8 x.rate ≤ x.depth) && decide (x.depth ≤ 2 ^ 26))

/-- The records of equal size that follow a section's head. -/
def recordsAt (size : Nat) : Nat → Bytes → List Bytes
  | 0, _ => []
  | n + 1, d => sliceAt d 0 size :: recordsAt size n (d.drop size)

def templatesOf (d : Bytes) : List Bytes := recordsAt 32 (fieldAt d 0 4) (d.drop 4)

def templatesOk (d : Bytes) : Bool := d.length == 4 + 32 * fieldAt d 0 4 && (templatesOf d).all templateOk

/-- A severity list with its quiet period and limit (R415). -/
def severitiesOk (d : Bytes) : Bool :=
  d.length == 72 && ((List.range 64).all fun s =>
    let v := fieldAt d s 1
    decide (v < 8) && (if s = 0 then decide (6 ≤ v) else if 3 ≤ s && s ≤ 7 then decide (5 ≤ v) else true)) &&
    decide (100 ≤ fieldAt d 64 4) && decide (fieldAt d 64 4 ≤ 1000000) && decide (1 ≤ fieldAt d 68 1) && fieldAt d 69 3 == 0

/-- A domain record (R365). -/
def parseDomain (t : Bytes) : Domain :=
  let f := fieldAt t 4 1
  { valid := bitOf f 0, chMask := fieldAt t 0 3, spMask := fieldAt t 3 1, fail := bitOf f 1, range := bitOf f 2
    lo := fieldAt t 8 8, hi := fieldAt t 16 8 }

def domainOk (populated : Nat) (t : Bytes) : Bool :=
  let x := parseDomain t
  (x.chMask &&& (0xFFFFFF - populated)) == 0 && decide (fieldAt t 4 1 < 8) && fieldAt t 5 3 == 0 &&
    decide (x.lo < 2 ^ 48) && decide (x.hi < 2 ^ 48) && x.lo % 256 == 0 &&
    (if x.range then decide (x.lo ≤ x.hi) else x.lo == 0 && x.hi == 0)

/-- Whether two valid domains are disjoint. -/
def domainsApart (x y : Domain) : Bool :=
  !x.valid || !y.valid ||
    ((x.chMask &&& y.chMask) == 0 && (x.spMask &&& y.spMask) == 0 &&
      (!x.range || !y.range || decide (x.hi < y.lo) || decide (y.hi < x.lo)))

/-- Every two elements of a list satisfy a relation. -/
def pairwiseB {α : Type} (r : α → α → Bool) : List α → Bool
  | [] => true
  | a :: t => t.all (r a) && pairwiseB r t

def domainRecords (d : Bytes) : List Bytes := recordsAt 24 16 (d.drop 8)

def bandwidthOk (populated : Nat) (d : Bytes) : Bool :=
  d.length == 392 && ((List.range 3).all fun i => decide (1 ≤ fieldAt d i 1) && decide (fieldAt d i 1 ≤ 98)) &&
    fieldAt d 0 1 + fieldAt d 1 1 + fieldAt d 2 1 == 100 && fieldAt d 3 5 == 0 &&
    (domainRecords d).all (domainOk populated) && pairwiseB domainsApart ((domainRecords d).map parseDomain)

/-- A group record (R342). -/
def parseGroup (t : Bytes) : GroupCfg :=
  let port := fun (x : Nat) => if bitOf x 3 then some (bitsOf x 2 0) else none
  { topo := fieldAt t 0 1, pa := port (fieldAt t 1 1), pb := port (fieldAt t 2 1), children := fieldAt t 3 1
    slipq := fieldAt t 4 4, lo := fieldAt t 8 8, hi := fieldAt t 16 8, slipcap := fieldAt t 24 4 }

def groupOk (t : Bytes) : Bool :=
  let x := parseGroup t
  decide (x.topo ≤ 2) && decide (fieldAt t 1 1 < 16) && decide (fieldAt t 2 1 < 16) &&
    (x.topo == 2 || x.children == 0) && (x.topo != 2 || fieldAt t 2 1 == 0) &&
    (x.topo != 1 || (x.pa.isSome && x.pb.isSome)) &&
    (x.slipq == 0 || (decide (100 ≤ x.slipq) && decide (x.slipq ≤ 50000))) &&
    decide (x.lo < 2 ^ 48) && decide (x.hi < 2 ^ 48) && x.lo % 256 == 0 && decide (x.lo ≤ x.hi) && fieldAt t 28 4 == 0

def groupsOf (d : Bytes) : List Bytes := recordsAt 32 (fieldAt (d.drop 262144) 0 4) (d.drop 262152)

def routingOk (d : Bytes) : Bool :=
  let g := fieldAt (d.drop 262144) 0 4
  decide (g ≤ 256) && d.length == 262152 + 32 * g && fieldAt (d.drop 262144) 4 4 == 0 &&
    (chunksLe 4 65536 (d.take 262144)).all (fun e => decide (e < 2 ^ 10)) && (groupsOf d).all groupOk &&
    pairwiseB (fun x y => decide (x.hi < y.lo) || decide (y.hi < x.lo)) ((groupsOf d).map parseGroup)

def steeringOk (d : Bytes) : Bool := d.length == 4096 && d.all fun x => decide (x.toNat < 24)

/-- The body of a section. -/
def sectionOf (l : List (Nat × Bytes)) (t : Nat) : Option Bytes := (l.find? fun s => s.1 == t).map (·.2)

/-- The populated mask an image sets. -/
def populatedOf (l : List (Nat × Bytes)) : Nat :=
  match sectionOf l 1 with | some d => fieldAt d 4 3 | none => 0xFFFFFF

/-- The rules every section's owner lays down. -/
def sectionsOk (l : List (Nat × Bytes)) : Bool :=
  typesOk l && l.all fun (t, d) => match t with
    | 1 => startupOk d
    | 2 => templatesOk d
    | 3 => severitiesOk d
    | 4 => bandwidthOk (populatedOf l) d
    | 5 => routingOk d
    | _ => steeringOk d

/-! ### Images (R82, R85) -/

/-- The sections of a valid image. -/
def validImage (key img : Bytes) : Option (List (Nat × Bytes)) :=
  let p := fieldAt img 8 4
  if fieldAt img 0 4 ≠ 0x4C534931 || 4189568 < p || img.length < 4736 + p then none
  else if fieldAt img 12 4 ≠ 0 || !allZero (sliceAt img 4675 61) then none
  else if !Config.mldsaVerify key (img.take 48) (sliceAt img 48 4627) then none
  else
    let payload := (img.drop 4736).take p
    if Crypto.sha3_256 payload ≠ sliceAt img 16 32 then none
    else (sections (p / 8 + 1) payload).bind fun l => if sectionsOk l then some l else none

/-- Sequence number a is later than b (R85). -/
def laterThan (a c : Nat) : Bool :=
  let d := (a + 2 ^ 32 - c % 2 ^ 32) % 2 ^ 32
  decide (1 ≤ d) && decide (d < 2 ^ 31)

/-! ### What is in force (R86, R439) -/

/-- A severity list as the setup holds it. -/
def withSeverities (s : Setup) (d : Bytes) : Setup :=
  { s with severities := (d.take 64).map (·.toNat), quietUs := fieldAt d 64 4, limit := fieldAt d 68 1 }

/-- The setup with no image: the defaults in OTP. -/
def defaultSetup (ao : AO) : Setup :=
  let s : Setup := {}
  let s := match otpBody ao 0x8 with | some d => { s with linkCfg := d.map (·.toNat) } | none => s
  match otpBody ao 0x9 with
  | some d => if severitiesOk d then withSeverities s d else s
  | none => s

/-- What an image's sections set over the defaults; without a start-up section its fields stay as with no image.
(DESIGN CHOICE, log 102) -/
def setupOf (ao : AO) (l : List (Nat × Bytes)) : Setup :=
  let s := defaultSetup ao
  let s := match sectionOf l 1 with
    | some d => { s with chipId := fieldAt d 0 2, populated := fieldAt d 4 3, trusted := fieldAt d 8 3
                         warmMarch := fieldAt d 12 1, linkCfg := (sliceAt d 16 8).map (·.toNat)
                         neighbours := (List.range 8).map fun p => fieldAt d (32 + 2 * p) 2 }
    | none => s
  let s := match sectionOf l 2 with | some d => { s with templates := (templatesOf d).map parseTemplate } | none => s
  let s := match sectionOf l 3 with | some d => withSeverities s d | none => s
  let s := match sectionOf l 4 with
    | some d => { s with pct := [fieldAt d 0 1, fieldAt d 1 1, fieldAt d 2 1], domains := (domainRecords d).map parseDomain }
    | none => s
  let s := match sectionOf l 5 with
    | some d =>
      let es := chunksLe 4 65536 (d.take 262144)
      let rs := ((List.range es.length).zip es).filter fun (e : Nat × Nat) => e.2 != 0
      { s with routed := true, routes := rs, groups := (groupsOf d).map parseGroup }
    | none => s
  { s with steer := sectionOf l 6 }

/-! ### The bootstrap region (R68) and the firmware image (R71, R72) -/

/-- Reads the bootstrap region through M0; a granule that stays bad ends the read. (DEDUCED, log 23) -/
def readBoot (b : Block) (off n : Nat) : Option Bytes :=
  if b.badGran.any fun e => decide (off / 256 ≤ e.1) && decide (e.1 < ceilDiv (off + n) 256) then none
  else some (memRead b 0 off n)

/-- What step 3 learns of a firmware image. -/
structure Firmware where
  version : Nat
  digest : Bytes
  rootKey : Bytes
  setupKey : Bytes

/-- The accepted firmware image, none when the start ends in BOOT_FAIL. -/
def firmware (ao : AO) (b : Block) : Option Firmware :=
  (readBoot b 0 16).bind fun h =>
    let len := fieldAt h 8 4
    if fieldAt h 0 4 ≠ 0x4C465731 || 4184384 < len then none
    else (readBoot b 0 9920).bind fun d =>
      let root := (otpBody ao 0x5).getD Config.bootRomRootHash
      let rootKey := sliceAt d 48 2592
      if Crypto.sha3_256 rootKey ≠ root then none
      else if fieldAt d 4 4 < otpCount ao 9 4 then none
      else if !Config.mldsaVerify rootKey (d.take 5232) (sliceAt d 5232 4627) then none
      else (readBoot b 9920 len).bind fun code =>
        if Crypto.sha3_256 code ≠ sliceAt d 16 32 then none
        else some { version := fieldAt d 4 4, digest := sliceAt d 16 32, rootKey := rootKey, setupKey := sliceAt d 2640 2592 }

/-- The image in a slot: its bytes up to the payload's end. (DEDUCED, log 23) -/
def slotImage (b : Block) (slot : Nat) : Option Bytes :=
  let at_ := if slot = 0 then 0x400000 else 0x800000
  (readBoot b at_ 16).bind fun h =>
    if fieldAt h 0 4 ≠ 0x4C534931 || 4189568 < fieldAt h 8 4 then none
    else readBoot b at_ (4736 + fieldAt h 8 4)

end Sys2Proof.Machine
end

