-- ==== Sys2Proof/Machine/Startup.lean ====
section
/-! DEFINITION. Starts (R64-R74, R86-R88, R395-R400, R424, R440), islands in and out of reset (R33, R34), safe state and
zeroisation (R399, R407), READY_LOCAL (R88) and the heartbeats (R35). -/

namespace Sys2Proof.Machine

/-! ### Outputs at their reset values -/

/-- The outputs of a quadrant at their reset values (R34, R44, R56): stream ports and request lines. -/
def clampQuad (b : Block) (q : Nat) : Block :=
  { b with sports := b.sports.mapVals {} fun p x => if quadOfPort p = q then { x with ready := false } else x
           drq := b.drq.mapVals {} fun i d => if i / 16 = q then { d with ack := false } else d
           islands := { b.islands with alive := (b.islands.alive.erase (32 + 2 * q)).erase (33 + 2 * q) } }

/-- The debug window closes (R447). -/
def closeWindow (b : Block) : Block := { b with regs := { b.regs with dbgUnlocked := false, dbgUntil := none, dbgMask := 0 } }

/-! ### An OTP generation cut short (R444, R445) -/

/-- The bits of a run of words from word `w` on. -/
def bitsFrom (w : Nat) : List Nat → List Nat
  | [] => []
  | x :: xs => ((List.range 32).filter fun i => bitOf x i).map (32 * w + ·) ++ bitsFrom (w + 1) xs

/-- First word of a generation. -/
def genWord (code g : Nat) : Nat := match otpRecord code with | some (w, n, _) => w + g * n | none => 0

/-- How many words of a job cut short have been programmed: some, not all, so that the generation counts as programmed
where its words allow; which is free. (DESIGN CHOICE, log 24) -/
def cutAt (b : Block) (ws : List Nat) : Nat :=
  let ks := (List.range ws.length).filter fun k => (ws.take k).any (· != 0)
  match ks with
  | [] => ws.length - 1
  | k :: _ => ks.getD (Config.freeChoice b.free % ks.length) k

/-- What a job cut short has programmed: never nothing, so that the generation stays programmed and invalid (R444, R445).
(DESIGN CHOICE, log 24) -/
def cutBits (b : Block) (w : Nat) (ws : List Nat) : List Nat :=
  match bitsFrom w (ws.take (cutAt b ws)) with
  | [] => (bitsFrom w ws).take 1
  | l => l

/-- A job ends before its last word: what it has programmed stays. (DESIGN CHOICE, log 24) -/
def cutJob (b : Block) : Block :=
  match b.regs.otpJob with
  | none => b
  | some (code, g, ws) =>
    let b : Block := (cutBits b (genWord code g) ws).foldl (fun b i => toAo b (.fuse i)) b
    { b with regs := { b.regs with otpJob := none, otpBusy := false }, free := b.free + 1 }

/-! ### The Palette march (R424, R441, R67) -/

def rowCount (r : Nat) : Nat := if r < 4 then 11264 else 2048
def spareRows (r : Nat) : Nat := if r < 4 then 32 else 8

/-- Rows the active REPAIR generation lists, by region. (DEDUCED, log 19) -/
def repairRows (ao : AO) : List (Nat × Nat) :=
  match otpBody ao 0x6 with
  | none => []
  | some d => (List.range 144).filterMap fun i =>
      let e := fieldAt d (2 * i) 2
      if bitOf e 15 then some (if i < 128 then i / 32 else if i < 136 then 4 else 5, e % 2 ^ 14) else none

/-- Step 5: 0 no march, 1 preserving, 2 destructive; the Palette keeps its contents but for a destructive
march (R67). A bank with more failing rows than spares is fenced; the Boolean
tells of the same in the dual-port region or the vault (R73). (DEDUCED, log 19) -/
def march (mode : Nat) (rep failing : List (Nat × Nat)) (b : Block) : Block × Bool :=
  let bad := if mode = 0 then [] else failing
  let b : Block := if mode = 2 then { b with pal := {} } else b
  let b : Block := { b with pal := { b.pal with spared := rep ++ bad } }
  let excess := (List.range 6).filter fun r => decide (spareRows r < ((rep ++ bad).filter fun e => e.1 == r).length)
  let b := (excess.filter (· < 4)).foldl (fun b r => b.setHealth .region r { state := .fenced }) b
  (bad.foldl (fun b e => raise b 8 e.1 (detail := e.2)) b, excess.any (4 ≤ ·))

/-! ### The steps of R65 -/

/-- The block as a start leaves it: memory, the pins of the outside and the model's counter stay, and over a warm start
the Palette (R2). A pd_req that stands is acknowledged (R70); a request line that is held stays held (R56).
(DEDUCED, log 17) -/
def cleared (cold : Bool) (b : Block) : Block :=
  { boot := { warm := !cold, destructive := b.boot.destructive, policy := if cold then 0 else b.boot.policy }
    islands := { out := b.islands.out }
    chans := bareChans b
    pal := if cold then {} else { mem := b.pal.mem, badWords := b.pal.badWords, spared := b.pal.spared }
    drq := b.drq.mapVals {} fun _ d => { held := d.held }
    pd := b.pd.mapVals {} fun _ p => { req := p.req, ack := p.req }
    flt := { resetHold := !cold && b.flt.resetHold }
    regs := { rsp := b.regs.rsp }
    obsSel := b.obsSel, mem := b.mem, badGran := b.badGran, free := b.free, ev := b.ev }

/-- A start ends in BOOT_FAIL: every port stands at its reset values, lv_alive at 0 (R73). -/
def bootFail (b : Block) : Block :=
  { b with boot := { b.boot with stage := 0xF }, pd := b.pd.mapVals {} fun _ p => { req := p.req }
           islands := { b.islands with alive := [] } }

/-- A programmed but invalid DEVICE_SEED (R439). (DEDUCED, log 22) -/
def seedBad (ao : AO) : Bool := otpProgrammed ao.shadow 13 9 && !otpReadError ao 13 9 && (deviceSeed ao).isNone

/-- The DRBG and the keys of step 4 (R386, R388, R395, R402). -/
def drawKeys (ao : AO) (b : Block) : Block :=
  let b : Block := { b with sec := { b.sec with drbgOn := true, drbgCount := 0 } }
  let (x, b) := drbg b 64
  let (ek, dk) := Config.mlkemKeyGen x
  let (hk, b) := drbg b 32
  let (k0, b) := drbg b 64
  let b : Block := { b with sec := { b.sec with importPub := ek, importPriv := dk, handleKey := hk } }
  let b := b.setKeySlot 0 { live := true, key := k0 }
  if !inService ao then b
  else
    let (f, b) := match deviceSeed ao with | some d => (d, b) | none => drawFree b 32
    let (pub, priv) := Config.mldsaKeyGen (Crypto.shake256 (f ++ [0x4B, 0x49, 0x44, 0x4E]) 32)
    { b with sec := { b.sec with identPub := pub, identPriv := priv } }

/-- Step 6: both slots are validated and the active image chosen by R86. (DEDUCED, log 18) -/
def chooseImage (ao : AO) (b : Block) : Block :=
  let valid := fun s => (slotImage b s).bind fun img => (validImage b.boot.setupKey img).map fun l => (img, l)
  let sa := valid 0
  let sb := valid 1
  let pick := match sa, sb with
    | some x, none => some (0, x)
    | none, some y => some (1, y)
    | some x, some y => some (if laterThan (fieldAt y.1 4 4) (fieldAt x.1 4 4) then (1, y) else (0, x))
    | none, none => none
  let boot := { b.boot with slotA := sa.isSome, slotB := sb.isSome }
  match pick with
  | none => { b with boot := { boot with policy := 0 }, setup := defaultSetup ao }
  | some (s, img, l) =>
    let x := setupOf ao l
    let boot := { boot with active := some s, seq := fieldAt img 4 4, payloadDigest := sliceAt img 16 32
                            policy := x.warmMarch }
    let b : Block := { b with boot := boot, setup := x }
    if sa.isSome && sb.isSome then b else raise b 55 0 (detail := 1 - s)

/-- A channel at step 7 (R77): fenced when it is marked unpopulated, else offered once its island is out of reset.
(DEDUCED, log 20) -/
def offerChan (b : Block) (n : Nat) : Block :=
  if b.isFenced .channel n then b
  else if !hasBit b.setup.populated n then fenceChan b n
  else if b.islands.out.get false (5 + n) then
    b.modChan n fun c =>
      { c.refill b.setup.pct with service := .offered, capO := BitVec.ofNat 64 (capWord b n), capOVld := true }
  else b

/-- A link at step 7 (R80). -/
def offerLink (b : Block) (p : Nat) : Block :=
  if b.islands.out.get false (29 + p) && !b.islands.safe.getLsbD (29 + p) then startTraining b p else b

/-- Step 7 begins. (DEDUCED, log 20) -/
def beginNegotiation (b : Block) : Block :=
  let b : Block := { b with boot := { b.boot with stage := 7 } }
  (List.range 8).foldl offerLink ((List.range 24).foldl offerChan b)

/-- Steps 5 to 7. -/
def lateSteps (mode : Nat) (k : StartIn) (ao : AO) (b : Block) : Block :=
  let failing := (k.badRows.filter fun e => decide (e.1 < 6) && decide (e.2 < rowCount e.1)).eraseDups
  let (b, stop) := march mode (repairRows ao) failing b
  let b : Block := { b with boot := { b.boot with destructive := false } }
  if stop then bootFail b else beginNegotiation (chooseImage ao b)

/-- Gesso cores that fail their known-answer test are fenced; that is no error (R397). -/
def fenceCores (b : Block) (l : List Nat) : Block :=
  ((l.filter (· < 192)).eraseDups).foldl (fun b c => raise (b.setHealth .core c { state := .fenced }) 61 c) b

/-- Steps 3 to 7, or as far as they go. (DEDUCED, log 21) -/
def fromStep3 (mode : Nat) (k : StartIn) (ao : AO) (b : Block) : Block :=
  match firmware ao b with
  | none => bootFail (raise b 61 0)
  | some fw =>
    let b : Block := { b with boot := { b.boot with fwVersion := fw.version, fwDigest := fw.digest, fwKey := fw.rootKey
                                                    setupKey := fw.setupKey } }
    if !k.kat4 then enterError (raise b 61 0)
    else
      let b := drawKeys ao (fenceCores b k.badCores)
      if !k.pairwise then enterError (raise b 61 0) else lateSteps mode k ao b

/-- M0 serves bootstrap reads: its island is out of reset and its memory is not critical (R66, R69).
(DESIGN CHOICE, log 16) -/
def bootReady (b : Block) : Bool := b.islands.out.get false 5 && (b.chan 0).therm != 3

/-- Steps 2 to 7, or as far as they go: the start waits before step 3 until M0 serves it. (DESIGN CHOICE, log 16;
DEDUCED, log 21) -/
def bootSteps (mode : Nat) (k : StartIn) (ao : AO) (b : Block) : Block :=
  if lifeCycle ao = 5 then bootFail b
  else if !k.kat2 then enterError (raise b 61 0)
  else if !k.health then enterError (raise b 60 0)
  else if inService ao && seedBad ao then bootFail b
  else if bootReady b then fromStep3 mode k ao b
  else { b with boot := { b.boot with stage := 3, stalled := some (mode, k) } }

/-- A start that waited for M0 goes on. (DESIGN CHOICE, log 16) -/
def resumeBoot (ao : AO) (b : Block) : Block :=
  match b.boot.stalled with
  | none => b
  | some (mode, k) =>
    if bootReady b && b.boot.stage == 3 && !b.boot.startPending then
      fromStep3 mode k ao { b with boot := { b.boot with stalled := none } }
    else b

/-- The march of a start (R65, R408, R424). (DEDUCED, log 19) -/
def marchMode (cold : Bool) (b : Block) : Nat := if cold || b.boot.destructive then 2 else b.boot.policy

/-- Hands the control events of a block to AO. (DESIGN CHOICE, log 10) -/
def takeEvents (s : State) : State := { s with ao := s.b.ev.foldl AO.apply s.ao, b := { s.b with ev := [] } }

/-- COLD_START (R64): OTP sensing, the AO state a cold start clears, every island released, then the steps.
(DEDUCED, log 14) -/
def execColdStart (k : StartIn) (s : State) : Host.Outcome State Fault Refusal :=
  let s := takeEvents { s with ao := s.ao.countTamper, b := cutJob s.b }
  let bad := (k.badWords.filter (· < 1024)).eraseDups
  let ao : AO := { on := true, fuses := s.ao.fuses, shadow := s.ao.fuses, inUse := s.ao.fuses, badWords := bad }
  let b := cleared true s.b
  let b : Block := { b with islands := { out := (List.range 38).map fun i => (i, true) } }
  let b := bad.foldl (fun b w => raise b 58 0 (detail := w)) b
  .next (takeEvents { s with ao := ao, b := bootSteps 2 k ao b })

/-- Whether the start now ordered is, or goes on with, a cold one. -/
def coldAgain (b : Block) : Bool := b.boot.again && !b.boot.warm

/-- The block before step 2 of a warm start; of a start-up that a tamper event cut, the fault collector stays as it is
(R73). (DEDUCED, log 32) -/
def beforeStep2 (b : Block) : Block :=
  let c := cleared (coldAgain b) b
  if b.boot.again then { c with flt := { b.flt with units := [] } } else c

/-- WARM_START (R64): with rst_ao_n high and CT out of reset; the AO shadow is kept. It is also the row at which a start-up
cut by a tamper event goes on (R73). (DEDUCED, log 15, 32) -/
def execWarmStart (k : StartIn) (s : State) : Host.Outcome State Fault Refusal :=
  if !s.ao.on || !s.b.islands.out.get false 37 then .next s
  else
    let mode := marchMode (coldAgain s.b) s.b
    let s := takeEvents { s with ao := s.ao.countTamper, b := cutJob s.b }
    let ao := { s.ao with inUse := s.ao.shadow }
    .next (takeEvents { s with ao := ao, b := bootSteps mode k ao (beforeStep2 s.b) })

/-! ### Islands in and out of reset (R33, R34) -/

/-- What waits at a hop that a quadrant in reset sends on is gone; its accesses fail. (DEDUCED, log 25) -/
def resetHop (b : Block) (h : Nat) : Block :=
  let l := (hopItems b h).filterMap fun i => match i.load with
    | .write a => some a
    | .read a _ => some a
    | .encode _ _ a => some a
    | _ => none
  l.foldl (fun b a => failAcc b a .busRetryExhausted) { b with ring := b.ring.put [] h [] }

/-- The walker stands in Q0 (R16): with it in reset the walks are gone, and the bursts that waited miss again.
(DEDUCED, log 25) -/
def resetWalker (b : Block) : Block :=
  let lose := fun (a : Acc) => match a.owner with | .walk _ _ => { a with owner := .discard } | _ => a
  { b with xl := { b.xl with walks := [], ptrs := [] }
           ctxs := b.ctxs.mapVals {} fun _ x =>
             let x := if (x.fetch.bind (·.walk)).isSome then { x with fetch := none } else x
             let x := if (x.load.bind (·.walk)).isSome then
                 { x with load := none, wait := match x.wait with | some (.pred _ _) => none | w => w } else x
             { x with walk := none }
           chans := b.chans.mapVals {} fun _ c =>
             { c with rtags := c.rtags.map fun e => (e.1, lose e.2)
                      rwait := c.rwait.filter fun a => (lose a).owner != .discard } }

/-- What waits at a Palette bank in reset fails. (DEDUCED, log 25) -/
def resetBank (b : Block) (k : Nat) : Block :=
  (b.palq.get [] k).foldl (fun b i => failAcc b i.acc .busRetryExhausted) { b with palq := b.palq.put [] k [] }

/-- The arbitration points of an island begin anew with it: their first window runs from its release (R361, R463). -/
def dropPoints (b : Block) (keys : List Nat) : Block := { b with arb := keys.foldl Tab.erase b.arb }

/-- A quadrant in reset: its contexts and what they had under way are gone, its ports are at their reset values.
(DEDUCED, log 25) -/
def resetQuad (b : Block) (q : Nat) : Block :=
  let mine := (b.ctxs.filter fun e => e.2.st != .free && quadOfCtx e.1 == q).map (·.1)
  let b := mine.foldl (fun b c => unbind (dropWaiting b c) c) b
  let b := resetBank (resetHop (resetHop b (2 * q)) (2 * q + 1)) q
  let b := dropPoints b [arbCtx q, arbPath q false, arbPath q true, arbRing (2 * q), arbRing (2 * q + 1), arbPal q]
  let b := dropPoints b ((List.range 32).map fun i => arbDec (32 * q + i))
  let b := if q = 0 then resetWalker b else b
  settleWrites
    { b with sports := (b.sports.erase (2 * q)).erase (2 * q + 1)
             drq := b.drq.mapVals {} fun i d => if i / 16 = q then { held := d.held } else d
             xl := { b.xl with l1 := b.xl.l1.erase q, l2 := b.xl.l2.erase q }
             islands := { b.islands with alive := (b.islands.alive.erase (32 + 2 * q)).erase (33 + 2 * q) } }

/-- A channel in reset: what it held ends without its responses; a fenced one stays so (R419). (DEDUCED, log 25) -/
def resetChan (b : Block) (n : Nat) : Block :=
  let l := chanAccs (b.chan n)
  let b := b.setChan n { service := if (b.chan n).service == .fenced then .fenced else .reset, therm := (b.chan n).therm }
  let b := dropPoints { b with islands := { b.islands with alive := b.islands.alive.erase n } } [arbChan n false, arbChan n true]
  settleWrites (l.foldl (fun b a => failAcc b a .busRetryExhausted) b)

/-- A link in reset; its epoch, the requests that await an answer, and whether it was ready or is fenced since the start
(R428) are not its island's. (DEDUCED, log 25) -/
def resetLink (b : Block) (p : Nat) : Block :=
  let fenced := (b.link p).phase == .fenced
  let b := if (b.link p).everReady || (b.link p).trnReq then linkDown b p else b
  let l := b.link p
  let b := b.setLink p { epoch := l.epoch, reqs := l.reqs, everReady := l.everReady, phase := if fenced then .fenced else .reset }
  let b := dropPoints b ([arbEgress p] ++ [vcReq, vcRsp, vcColl].map (arbDateline p))
  { b with islands := { b.islands with alive := b.islands.alive.erase (40 + p) } }

/-- CT in reset: its state and the work it drives are gone, every port stands at its reset value, and the release orders a
warm start (R64). (DEDUCED, log 15) -/
def resetCt (b : Block) : Block :=
  let c := cleared false (cutJob b)
  { c with boot := { c.boot with startPending := true }, regs := {}, pd := b.pd.mapVals {} fun _ p => { req := p.req } }

/-- ISLAND_RESET of one island. A release under the clamp of P2 or P3, under RESET_CHIP, or with a start ordered, drives no
output (R34, R413, R414). (DEDUCED, log 15) -/
def islandReset (i : Nat) (release : Bool) (b : Block) : Block :=
  if 38 ≤ i || b.islands.out.get false i == release then b
  else
    let b : Block := { b with islands := { b.islands with out := b.islands.out.put false i release
                                                          win := b.islands.win.put 0 i 0 } }
    let late := (b.boot.stage == 7 || b.boot.stage == 8) && b.power.state != 3 && !b.boot.resetChip && !b.boot.startPending
    if release then
      if 5 ≤ i && i < 29 && late then offerChan b (i - 5)
      else if 29 ≤ i && i < 37 && late then offerLink b (i - 29)
      else if i < 4 && late && b.boot.stage == 8 && quadUp b i then
        [2 * i, 2 * i + 1].foldl (fun b p => b.setSport p { b.sport p with ready := true }) b
      else b
    else if i < 4 then resetQuad b i
    else if i = 4 then resetGesso b
    else if i < 29 then resetChan b (i - 5)
    else if i < 37 then resetLink b (i - 29)
    else resetCt b

/-- ISLAND_RESET; before rst_ao_n is high every island stays in reset. -/
def execIslandReset (island : Nat) (release : Bool) (s : State) : Host.Outcome State Fault Refusal :=
  lift (fun ao b =>
    if !ao.on then b else if release then resumeBoot ao (islandReset island release b) else islandReset island release b) s

/-- THERM_CHANGE (R43, R66): the boot goes on once M0 is no longer critical. -/
def execThermChange (ch : Nat) (therm : BitVec 2) (s : State) : Host.Outcome State Fault Refusal :=
  lift (fun ao b => resumeBoot ao (thermChange ch therm b)) s

/-! ### READY_LOCAL (R88) -/

/-- Step 6 has ended and every channel of step 7 is in service or fenced. -/
def mayBeReady (b : Block) : Bool :=
  b.boot.stage == 7 && !b.boot.startPending && b.power.state != 3 && !b.boot.resetChip &&
    (List.range 24).all fun n => (b.chan n).service == .inService || (b.chan n).service == .fenced

/-- READY_LOCAL: commands are taken and the stream ports open; VI 0 exists; the nonce is drawn (R382); the entries of
fenced channels are rewritten (R295); flt_n is released from a RESET_BLOCK (R417). (DEDUCED, log 27, 54) -/
def enterReadyLocal (b : Block) : Block :=
  let (nonce, b) := drbg b 32
  let first := !(b.vinst 0).live
  let b : Block := { b with
    boot := { b.boot with stage := 8 }
    sec := { b.sec with nonce := nonce }
    flt := { b.flt with resetHold := false }
    steerSpread := if first then inServiceChans b else b.steerSpread }
  let b := if first then b.setVinst 0 { live := true } else b
  let fenced := (List.range 24).filter fun n => (b.chan n).service == .fenced
  let b := fenced.foldl rewriteSteering b
  (List.range 8).foldl (fun b p =>
    if b.islands.out.get false (quadOfPort p) then b.setSport p { b.sport p with ready := true } else b) b

def execReadyLocal (s : State) : Host.Outcome State Fault Refusal :=
  lift (fun _ b => if mayBeReady b then enterReadyLocal b else b) s

/-! ### Heartbeats (R34, R35) -/

/-- The number of a port's heartbeat, and whether it runs: the island runs and has finished its part of start-up; M0's runs
in bootstrap mode too (R69). (DEDUCED, log 26) -/
def heartbeat (b : Block) : LvPort → Nat × Bool
  | .channel n =>
    let s := (b.chan n).service
    (n, decide (n < 24) && islandUp b (5 + n) &&
      (s == .offered || s == .inService || s == .lost || (n == 0 && b.boot.stalled.isSome)))
  | .stream p => (32 + p, decide (p < 8) && quadUp b (quadOfPort p) && readyLocal b)
  | .link p =>
    let f := (b.link p).phase
    (40 + p, decide (p < 8) && islandUp b (29 + p) && f != .reset && f != .fenced)

/-- (DEDUCED, log 26) -/
def toggleAlive (port : LvPort) (b : Block) : Block :=
  let (k, on) := heartbeat b port
  if on then { b with islands := { b.islands with alive := b.islands.alive.put false k (!b.islands.alive.get false k) } }
  else b

def execLvAliveToggle (port : LvPort) (s : State) : Host.Outcome State Fault Refusal := lift (fun _ b => toggleAlive port b) s

end Sys2Proof.Machine
end

