-- ==== Sys2Proof/Machine/Faults.lean ====
section
/-! DEFINITION. The fault collector and Sketchbook (R411-R427), tamper and health tests (R396, R405, R406, R458), scrub,
cross-checks and probes (R422, R423, R459, R460). -/

namespace Sys2Proof.Machine

/-! ### Outputs (R60, R417) -/

/-- Sources latched. -/
def latched (b : Block) : List Nat := (List.range 64).filter fun s => b.flt.status.getLsbD s

/-- flt_sev: the highest severity latched and not cleared; 7 under RESET_CHIP. (DEDUCED, log 28) -/
def fltSev (b : Block) : Nat :=
  if b.boot.resetChip then 7 else ((latched b).map (severityOf b)).foldl max 0

/-- flt_n as driven. (DEDUCED, log 28) -/
def fltN (b : Block) : Bool :=
  !(b.flt.hold || b.flt.resetHold || b.boot.resetChip || b.boot.stage == 0xE || b.boot.stage == 0xF ||
    b.islands.lost.get false 37 || (latched b).any fun s => decide (4 ≤ severityOf b s))

/-! ### Records (R425, R426) -/

/-- The 32 bytes of a record with its sequence number. -/
def Rec.bytes (r : Rec) (seq : Nat) : Bytes :=
  if r.kind = 2 then
    natLe 4 seq ++ natLe 8 r.time ++ natLe 1 0x80 ++ natLe 1 0 ++ (r.lost.take 8).flatMap (fun n => natLe 2 (min n 65535)) ++
      natLe 2 0
  else
    natLe 4 seq ++ natLe 8 r.time ++ natLe 1 (r.src + 64 * r.kind) ++ natLe 1 r.sev ++ natLe 2 r.unit ++ natLe 2 r.status ++
      natLe 1 (min r.vi 255) ++ natLe 1 (min r.ctx 255) ++ natLe 2 r.pending ++ natLe 2 0 ++ natLe 8 r.detail

/-- One more record of a severity is lost. (DESIGN CHOICE, log 29) -/
def Faults.lose (f : Faults) (sev : Nat) : Faults :=
  { f with lost := setAt f.lost sev (min (f.lost.getD sev 0 + 1) (2 ^ 32 - 1)), hadLoss := true }

/-- The place of the queued record of lowest severity, the latest of those, among the records that satisfy `p`. -/
def lowestRec (p : Rec → Bool) (q : List Rec) : Option (Nat × Rec) :=
  ((List.range q.length).zip q).foldl (fun best e =>
    if !p e.2 then best
    else match best with
      | none => some e
      | some f => if e.2.sev ≤ f.2.sev then some e else best) none

/-- A record enters the queue of 64 (R426). (DESIGN CHOICE, log 29) -/
def Faults.enqueue (f : Faults) (r : Rec) : Faults :=
  if f.queue.length < 64 then { f with queue := f.queue ++ [r] }
  else
    let victim := if r.kind = 1 then (lowestRec (fun q => q.kind != 1) f.queue).or (lowestRec (fun _ => true) f.queue)
      else (lowestRec (fun _ => true) f.queue).filter fun e => decide (e.2.sev < r.sev)
    match victim with
    | none => f.lose r.sev
    | some (i, v) => { f.lose v.sev with queue := f.queue.eraseIdx i ++ [r] }

/-- A new event: it joins a queued record of its source and unit (of its unit kind too, for source 63), or makes one; the first of its source has kind 1 and
enters the first-failure file. (DESIGN CHOICE, log 29) -/
def Faults.note (f : Faults) (r : Rec) : Faults :=
  let same := fun (q : Rec) => q.kind != 2 && q.src == r.src && q.unit == r.unit &&
    (r.src != 63 || q.detail == r.detail)
  match f.queue.find? same with
  | some q =>
    let q' := { q with pending := min (q.pending + 1) 65535 }
    { f with queue := f.queue.map fun x => if same x then q' else x
             first := if q.kind = 1 then Tab.insert f.first r.src (q'.bytes 0) else f.first }
  | none =>
    let new := !f.first.any fun e => e.1 == r.src
    let r := { r with kind := b2n new }
    let f := if new then { f with first := Tab.insert f.first r.src (r.bytes 0) } else f
    f.enqueue r

/-! ### Severities at work (R412-R414) -/

/-- The unit a source charges, where it holds a recovery state (R411, R418). -/
def chargedUnit (src unit : Nat) : Option (UnitKind × Nat) :=
  let k : Option (UnitKind × Nat) :=
    if src = 3 || src = 8 || src = 54 then some (.region, 6)
    else if 4 ≤ src && src ≤ 7 then some (.region, 4)
    else if 10 ≤ src && src ≤ 25 then some (.lane, 64)
    else if 26 ≤ src && src ≤ 29 then some (.decoder, 128)
    else if src = 30 then some (.core, 192)
    else if 32 ≤ src && src ≤ 40 then some (.channel, 24)
    else if 42 ≤ src && src ≤ 49 then some (.link, 8)
    else none
  match k with
  | some (k, n) => if unit < n then some (k, unit) else none
  | none => none

/-- The code of a unit kind in a source-63 record. -/
def kindCode : UnitKind → Nat
  | .lane => 0 | .channel => 1 | .link => 2 | .core => 3 | .decoder => 4 | .region => 5

/-- Counts, latches and records a detection at a severity that is not IGNORE. -/
def latchBits (ao : AO) (b : Block) (p : Pin) (sev : Nat) : Block :=
  let f := { b.flt with status := b.flt.status ||| BitVec.ofNat 64 (2 ^ p.src), hold := b.flt.hold || decide (sev ≤ 3) }
  let r : Rec := { time := ao.aotime.toNat, src := p.src, kind := 0, sev := sev, unit := p.unit % 65536
                   status := p.status, vi := p.vi, ctx := p.ctx, pending := 0, detail := p.detail % 2 ^ 64, lost := [] }
  { b with flt := f.note r }

/-- The per-source count advances (R413, R418). -/
def countSource (b : Block) (src : Nat) : Block :=
  { b with flt := { b.flt with counts := b.flt.counts.upd 0 src fun n => min (n + 1) (2 ^ 32 - 1) } }

/-- The block is to start warm: everything but AO stops until it does (R413, R417). (DESIGN CHOICE, log 32) -/
def orderStart (b : Block) : Block :=
  let b := closeWindow (cutJob b)
  { b with boot := { b.boot with startPending := true }, islands := { b.islands with alive := [] } }

/-- RESET_BLOCK and RESET_CHIP; the block does not leave RESET_CHIP by a start of its own (R414). -/
def resetAct (b : Block) (sev : Nat) : Block :=
  if b.boot.resetChip then b
  else if sev = 6 then
    let b := orderStart (goSafe true b)
    { b with flt := { b.flt with resetHold := true } }
  else if sev = 7 then
    let b := goSafe false b
    { b with boot := { b.boot with resetChip := true } }
  else b

/-- A link is fenced: down, its island in safe state until the next start (R417, R419). -/
def fenceLink (b : Block) (p : Nat) : Block :=
  let b := if (b.link p).phase == .reset then b else linkDown b p
  let b := b.modLink p fun l => { l.clamp with phase := .fenced }
  { b with islands := { b.islands with safe := b.islands.safe ||| BitVec.ofNat 38 (2 ^ (29 + p))
                                       alive := b.islands.alive.put false (40 + p) false } }

/-- A unit is fenced (R419). (DEDUCED, log 31) -/
def fenceUnit (b : Block) (k : UnitKind) (i : Nat) : Block :=
  if b.isFenced k i then b
  else match k with
    | .channel => fenceChan b i
    | .link => fenceLink (b.setHealth .link i { b.health .link i with state := .fenced }) i
    | .region =>
      let b := b.setHealth .region i { b.health .region i with state := .fenced }
      if 4 ≤ i then resetAct b 6 else b
    | _ => b.setHealth k i { b.health k i with state := .fenced }

/-- Source 63: a unit has been fenced by its recovery limit. -/
def latchFenced (ao : AO) (b : Block) (k : UnitKind) (i : Nat) : Block :=
  let b := countSource b 63
  let sev := severityOf b 63
  if sev = 0 then b
  else resetAct (latchBits ao b { src := 63, unit := i, status := 0, vi := 256, ctx := 256, detail := kindCode k } sev) sev

/-- The recovery rule of R418 for a unit that is not fenced. -/
def chargeUnit (ao : AO) (b : Block) (k : UnitKind) (i : Nat) : Block :=
  let h := b.health k i
  match h.state with
  | .inService =>
    if b.setup.limit ≤ h.counter then latchFenced ao (fenceUnit b k i) k i
    else b.setHealth k i { h with state := .fault }
  | _ => b

/-- An island whose clock is lost is fenced (R411, R458): a channel or link as such, another by its safe state.
(DEDUCED, log 31) -/
def fenceIsland (b : Block) (i : Nat) : Block :=
  if 5 ≤ i && i < 29 then fenceUnit b .channel (i - 5)
  else if 29 ≤ i && i < 37 then fenceUnit b .link (i - 29)
  else if i < 38 then
    let b : Block := { b with islands := { b.islands with safe := b.islands.safe ||| BitVec.ofNat 38 (2 ^ i) } }
    if i < 4 then clampQuad b i else b
  else b

/-- Sources of a lane's own stages. -/
def laneStage (src : Nat) : Bool := (decide (10 ≤ src) && decide (src ≤ 13)) || (decide (22 ≤ src) && decide (src ≤ 25))

/-- The status the unit that met an error fails with, where no chapter gives the access one (R412): PARITY for the lane
stages, UNCORRECTABLE for the Palette; for other sources it is not stated and free. (DEDUCED, log 30) -/
def abortStatus (b : Block) (src : Nat) : Status × Block :=
  if laneStage src then (.parity, b)
  else if 3 ≤ src && src ≤ 7 then (.uncorrectable, b)
  else
    (([Status.badHandle, .bounds, .badType, .badOpcode, .xlateFault, .permission, .keySelect, .busRetryExhausted,
        .uncorrectable, .parity, .domainOff, .thermalStop, .digestMismatch, .seedDigest, .linkDown, .route,
        .taskAborted].getD (Config.freeChoice b.free % 17) .parity), { b with free := b.free + 1 })

/-- The units on a lane: context, execution, unit. -/
def laneUnits (b : Block) (l : Nat) : List (Nat × Nat × Nat) :=
  b.ctxs.flatMap fun x => x.2.execs.flatMap fun e => (e.units.filter fun u => u.onLane && u.lane == some l).map fun u =>
    (x.1, e.seq, u.n)

/-- ABORT_TASK: the unit that met the error fails and its context halts; of a lane's own stages it is the first unit on
the lane, of the context the pin names if it names one (R186, R412). An error with an access status has halted the context
where its chapter says so. (DEDUCED, log 30) -/
def abortPin (b : Block) (p : Pin) : Block :=
  let unit := if laneStage p.src then (laneUnits b p.unit).find? fun u => 256 ≤ p.ctx || u.1 == p.ctx else none
  if p.status ≠ 0 then b
  else match unit with
    | some (c, seq, n) => failUnit b c seq n (.parity, 0)
    | none =>
      if p.ctx < 256 then
        let (st, b) := abortStatus b p.src
        haltBegin b p.ctx st 0
      else b

/-- The status a record of the exception of R412 shows. (DEDUCED, log 30) -/
def pinStatus (b : Block) (p : Pin) (sev : Nat) : Pin :=
  if p.status = 0 && decide (5 ≤ sev) && ((3 ≤ p.src && p.src ≤ 7) || laneStage p.src) then
    { p with status := (abortStatus b p.src).1.code }
  else p

/-- What a severity does beyond the latch (R413); a start that is pending absorbs it (R429). (DEDUCED, log 30, 31) -/
def applySeverity (ao : AO) (b : Block) (p : Pin) (sev : Nat) : Block :=
  if b.boot.startPending then b
  else
    let b := if 5 ≤ sev then abortPin b p else b
    let b := match chargedUnit p.src p.unit with
      | some (k, i) => if sev = 4 then fenceUnit b k i
                       else if sev = 3 || 5 ≤ sev then chargeUnit ao b k i else b
      | none => if sev = 4 && p.src = 57 then fenceIsland b p.unit else b
    resetAct b sev

/-- The latch of one detection (R417, R418): one charged to a fenced unit only counts (R429). -/
def latchPin (ao : AO) (b : Block) (p : Pin) : Block :=
  let b := countSource b p.src
  let sev := severityOf b p.src
  let fenced := match chargedUnit p.src p.unit with | some (k, i) => b.isFenced k i | none => false
  if sev = 0 || (fenced && !p.own) then b
  else applySeverity ao (latchBits ao b (pinStatus b p sev) sev) p sev

/-- DETECTION: the oldest raised pin, or one of hardware without a row of its own; counted and latched while a start is
pending too (R429). (DEDUCED, log 34) -/
def detection (d : DetIn) (ao : AO) (b : Block) : Block :=
  if !b.islands.out.get false 37 || b.islands.lost.get false 37 then b
  else match d with
    | .raised =>
      match b.flt.pins with
      | [] => b
      | p :: t => latchPin ao { b with flt := { b.flt with pins := t } } p
    | .pin src unit ctx detail =>
      if 64 ≤ src then b
      else latchPin ao b
        { src := src, unit := unit, status := 0, ctx := ctx.getD 256, detail := detail
          vi := match ctx with | some c => if c < 256 then (b.ctx c).vi else 256 | none => 256 }

def execDetection (d : DetIn) (s : State) : Host.Outcome State Fault Refusal := lift (detection d) s

/-- QUIET_TIMER (R418). -/
def quietTimer (k : UnitKind) (i : Nat) (b : Block) : Block :=
  let h := b.health k i
  if h.state == .fault then b.setHealth k i { state := .inService, counter := min (h.counter + 1) 255 } else b

def execQuietTimer (kind : UnitKind) (idx : Nat) (s : State) : Host.Outcome State Fault Refusal :=
  lift (fun _ b => quietTimer kind idx b) s

/-- FLT_N_HOLD_EXPIRY (R417): the 16 cycles of the AO clock have passed. -/
def execFltNHoldExpiry (s : State) : Host.Outcome State Fault Refusal :=
  lift (fun _ b => { b with flt := { b.flt with hold := false } }) s

/-! ### The writer (R427) -/

/-- The address of the ring's next record. -/
def ringAt (f : Faults) : Nat := (f.ringPa + 32 * f.ringIdx) % 2 ^ 48

/-- A record goes to the ring as one write; into the scratchpad window under the rule that binds VI 0 too (R292, R293). -/
def ringWrite (b : Block) (d : Bytes) : Except Status Block :=
  let pa := ringAt b.flt
  if !inWindow pa then localWrite b 0 2 pa d
  else if windowOk b 0 pa d.length then .ok (palPut b (pa - windowBase) d)
  else .error .permission

/-- The record that leaves the queue takes its number; a queue that falls below 32 after a loss takes one summary.
(DESIGN CHOICE, log 29) -/
def popRecord (ao : AO) (f : Faults) : Option (Rec × Nat × Faults) :=
  match f.queue with
  | [] => none
  | r :: t =>
    let n := f.nextSeq
    let f := { f with queue := t, nextSeq := if n = 2 ^ 32 - 1 then 1 else n + 1 }
    let f := if r.kind = 1 then { f with first := Tab.insert f.first r.src (r.bytes n) } else f
    let f := if f.hadLoss && t.length < 32 then
        let sum : Rec := { time := ao.aotime.toNat, src := 0, kind := 2, sev := 0, unit := 0, status := 0, vi := 0
                           ctx := 0, pending := 0, detail := 0, lost := f.lost }
        { f with queue := t ++ [sum], lost := List.replicate 8 0, hadLoss := false }
      else f
    some (r, n, f)

/-- RECORD_WRITE: to the trace port, and to the ring while it is on; a ring write that fails stops the ring. -/
def recordWrite (ringOk : Bool) (ao : AO) (b0 : Block) : Block :=
  if !ctUp b0 then b0
  else match popRecord ao b0.flt with
    | none => b0
    | some (r, n, f) =>
      let d := r.bytes n
      let f := if f.traceOn then { f with trace := d } else f
      let b : Block := { b0 with flt := f }
      if !f.ringOn then b
      else
        let next := fun (b : Block) => { b with flt := { b.flt with ringIdx := (b.flt.ringIdx + 1) % 4096 } }
        match (if ringOk then ringWrite b d else .error .busRetryExhausted) with
        | .ok b => next b
        | .error .held => b0
        | .error s => raise { b with flt := { b.flt with ringOn := false } } 56 0 (status := s) (detail := ringAt f)

def execRecordWrite (ringOk : Bool) (s : State) : Host.Outcome State Fault Refusal := lift (recordWrite ringOk) s

/-! ### Cross-checks, scrub and probes (R422, R423, R459, R460) -/

/-- A lane that holds no unit and is not fenced. -/
def idleLane (b : Block) (l : Nat) : Bool :=
  decide (l < 64) && quadUp b (quadOfLane l) && !((lanesHeld b (quadOfLane l)).any fun h => h.1 == l) && !b.isFenced .lane l

/-- A Gesso core that runs and has no stream of an execution under way: none in P2, in P1 the first twelve of a quadrant (R450). -/
def idleCore (b : Block) (k : Nat) : Bool :=
  islandUp b 4 && decide (b.power.state ≤ 1) && (b.power.state != 1 || decide (k % 48 < 12)) && !b.isFenced .core k &&
    !(b.ctxs.any fun x => x.2.execs.any fun e => e.streams.any fun s => s.2.2 == k)

/-- Charges a lane with a cross-check mismatch. -/
def chargeLane (b : Block) (l : Nat) : Block := raise b (18 + quadOfLane l) l

def setCross (b : Block) (q : Nat) (x : Option (Nat × Nat × Nat × Nat)) : Block :=
  { b with flt := { b.flt with cross := b.flt.cross.put none q x } }

/-- CROSS_CHECK: two idle lanes that disagree wait for a third; the lane that disagrees with the other two is charged.
(DESIGN CHOICE, log 33) -/
def crossCheck (c : CrossIn) (b : Block) : Block :=
  match c with
  | .lanes x y dx dy =>
    if x = y || quadOfLane x ≠ quadOfLane y || !idleLane b x || !idleLane b y || dx = dy ||
        (b.flt.cross.get none (quadOfLane x)).isSome then b
    else setCross b (quadOfLane x) (some (x, y, dx, dy))
  | .third q z dz =>
    match b.flt.cross.get none q with
    | none => b
    | some (x, y, dx, dy) =>
      if z = x || z = y || quadOfLane z ≠ q || !idleLane b z then b
      else
        let b := setCross b q none
        let b := if dx ≠ dy && dx ≠ dz then chargeLane b x else b
        let b := if dy ≠ dx && dy ≠ dz then chargeLane b y else b
        if dz ≠ dx && dz ≠ dy then chargeLane b z else b
  | .cores x y dx dy =>
    if x = y || 192 ≤ x || 192 ≤ y || x / 48 ≠ y / 48 || !idleCore b x || !idleCore b y || dx = dy then b
    else raise (raise b 30 x) 30 y

def execCrossCheck (c : CrossIn) (s : State) : Host.Outcome State Fault Refusal := lift (fun _ b => crossCheck c b) s

/-- CROSS_CHECK_TIMEOUT: no third lane in time, both are charged. (DESIGN CHOICE, log 33) -/
def crossTimeout (q : Nat) (b : Block) : Block :=
  match b.flt.cross.get none q with
  | none => b
  | some (x, y, _, _) => chargeLane (chargeLane (setCross b q none) x) y

def execCrossCheckTimeout (quadrant : Nat) (s : State) : Host.Outcome State Fault Refusal :=
  lift (fun _ b => crossTimeout quadrant b) s

/-- SCRUB (R422): a word that reads uncorrectable stays so until all of it is written. (DESIGN CHOICE, log 33) -/
def scrub (r w : Nat) (found : ScrubIn) (b : Block) : Block :=
  if 4 ≤ r || bankUnits * 64 ≤ w || !quadUp b r then b
  else
    let k := regionFirst r * 64 + w
    if found == .uncorrectable || b.pal.badWords.contains k then
      let bad := if b.pal.badWords.contains k then b.pal.badWords else b.pal.badWords ++ [k]
      raise { b with pal := { b.pal with badWords := bad } } (4 + r) r (status := .uncorrectable) (detail := 64 * w)
    else if found == .corrected then raise b 8 r (detail := 64 * w)
    else b

def execScrub (region word : Nat) (found : ScrubIn) (s : State) : Host.Outcome State Fault Refusal :=
  lift (fun _ b => scrub region word found b) s

/-- PROBE (R459, R460): the tap moves by a step or holds; the interval halves on consecutive moves and doubles on a hold.
(DESIGN CHOICE, log 33) -/
def probe (r : Nat) (step : Int) (endStop : Bool) (b : Block) : Block :=
  if 148 ≤ r then b
  else
    let x := b.xing.get {} r
    let moved := step != 0
    let y : Xing :=
      { tap := if step = 0 then x.tap else if 0 < step then (x.tap + 1) % 256 else (x.tap + 255) % 256
        moved := moved
        ivl := if moved then (if x.moved then max 10 (x.ivl - 1) else x.ivl) else min 16 (x.ivl + 1)
        probes := (x.probes + 1) % 256
        stop := x.stop || endStop }
    let b : Block := { b with xing := b.xing.put {} r y }
    if endStop && !x.stop then raise b 62 r else b

def execProbe (receiver : Nat) (step : Int) (endStop : Bool) (s : State) : Host.Outcome State Fault Refusal :=
  lift (fun _ b => probe receiver step endStop b) s

/-! ### The always-on clock -/

/-- A cycle of the always-on clock with no command waiting: AOTIME counts (R432), the count bit of a
tamper event is programmed (R405), falls of pd_req are answered.
(DESIGN CHOICE, log 6, 75) -/
def tick (s : State) : State :=
  takeEvents { s with ao := { s.ao.countTamper with aotime := s.ao.aotime + 1 }, b := answerFalls s.b }

/-! ### The AO island's detectors (R405, R406, R458) -/

/-- What a warning's record shows. -/
def warnDetail : WarnIn → Nat
  | .supply i => i
  | .temperature i => i
  | .neighbour a b => a + 256 * b

/-- DETECTOR_WARNING (R458). -/
def execDetectorWarning (w : WarnIn) (s : State) : Host.Outcome State Fault Refusal :=
  lift (fun ao b => if ao.on then raise b 62 0 (detail := warnDetail w) else b) s

/-- The heartbeats that stop with an island's clock stand at 0 (R35): a quadrant's stream ports, a channel, a link, and with CT
all stream ports. -/
def stopAlive (t : Tab Bool) (i : Nat) : Tab Bool :=
  let keys := if i < 4 then [32 + 2 * i, 33 + 2 * i] else if 5 ≤ i && i < 29 then [i - 5]
    else if 29 ≤ i && i < 37 then [40 + (i - 29)] else if i = 37 then (List.range 8).map (32 + ·) else []
  keys.foldl Tab.erase t

/-- ISLAND_CLOCK_LOSS (R458): a clock without an edge for 1 µs. -/
def clockLoss (i : Nat) (b : Block) : Block :=
  if 38 ≤ i || b.islands.lost.get false i then b
  else raise { b with islands := { b.islands with lost := b.islands.lost.put false i true
                                                  alive := stopAlive b.islands.alive i } } 57 i

def execIslandClockLoss (island : Nat) (s : State) : Host.Outcome State Fault Refusal := lift (fun _ b => clockLoss island b) s

/-- OBS_SEL (R62). (DESIGN CHOICE, log 89) -/
def execObsSel (v : Nat) (s : State) : Host.Outcome State Fault Refusal := lift (fun _ b => { b with obsSel := v % 64 }) s

/-- A start has begun and has not reached READY_LOCAL, BOOT_FAIL or the error state. -/
def inStartup (b : Block) : Bool := decide (b.boot.stage < 8) && b.power.state != 3

/-- TAMPER_EVENT (R405, R406): the wipe, the next TAMPER_COUNT bit due, a security event, the record, and a warm start: after the
exit in P3, none in the error state. During start-up the start goes on from step 2 (R73).
(DESIGN CHOICE, log 32) -/
def tamper (b : Block) : Block :=
  let b := closeWindow (zeroSsps (cutJob b))
  let b := raise (toAo (toAo b .tampered) .security) 59 0
  if errorState b then b
  else if b.power.state = 3 then { b with boot := { b.boot with tamperHeld := true } }
  else if inStartup b && (b.boot.again || !b.boot.startPending) then
    let b := orderStart b
    { b with boot := { b.boot with again := true } }
  else orderStart b

def execTamperEvent (_t : TamperIn) (s : State) : Host.Outcome State Fault Refusal :=
  lift (fun ao b => if ao.on then tamper b else b) s

/-- HEALTH_TEST_FAILURE (R396, R397): the error state; BOOT_FAIL is left only by a start (R73). -/
def execHealthTestFailure (s : State) : Host.Outcome State Fault Refusal :=
  lift (fun ao b => if ao.on then (if b.boot.stage = 0xF then raise b 60 0 else enterError (raise b 60 0)) else b) s

/-- DRBG_RESEED (R395). -/
def execDrbgReseed (s : State) : Host.Outcome State Fault Refusal :=
  lift (fun _ b => if b.sec.drbgOn && decide (2 ^ 20 ≤ b.sec.drbgCount) then { b with sec := { b.sec with drbgCount := 0 } }
    else b) s

end Sys2Proof.Machine
end

