-- ==== Sys2Proof/Machine/Registers.lean ====
section
/-! DEFINITION. The control port (R52-R54, R73, R74, R92-R95, R430-R435, R442-R449) and the power states (R450-R455). -/

namespace Sys2Proof.Machine

/-! ### Checks (R54, R73, R74, R430, R446, R448, R454) -/

/-- The response to an access (R52). -/
def respond (b : Block) (st : Status) : Block :=
  { b with regs := { b.regs with rsp := some { err := st != .ok, status := st.code } } }

/-- The data bits a write's strobes cover. -/
def wMask (w : CtlWrite) : Word64 :=
  (if w.strb.getLsbD 0 then 0xFFFFFFFF else 0) ||| (if w.strb.getLsbD 4 then 0xFFFFFFFF00000000 else 0)

/-- A register's new value under the strobes. -/
def wOver (w : CtlWrite) (old : Word64) : Word64 := (old &&& ~~~wMask w) ||| (w.data &&& wMask w)

/-- A bit that the write writes as 1. -/
def wSets (w : CtlWrite) (i : Nat) : Bool := (w.data &&& wMask w).getLsbD i

def globalEnd : Nat := 0x100
def inOtp (a : Nat) : Bool := decide (0x100 ≤ a) && decide (a < 0x400)
def inPriv (a : Nat) : Bool := decide (0x1000 ≤ a) && decide (a < 0x2000)
def inBell (a : Nat) : Bool := decide (0x10000 ≤ a) && decide (a < 0x30000)
def inMbox (a : Nat) : Bool := decide (0x40000 ≤ a) && decide (a < 0x50000)
def inDebug (a : Nat) : Bool := decide (0x80000 ≤ a) && decide (a < 0x90000)

/-- Milliseconds of AOTIME (R432). -/
def perMs : Nat := 100000

/-- The ms an unlocked window has left; all ones when it stays open until the next start (R448). -/
def dbgRemain (ao : AO) (b : Block) : Nat :=
  if !b.regs.dbgUnlocked then 0
  else match b.regs.dbgUntil with
    | none => 2 ^ 32 - 1
    | some t => ceilDiv (t - ao.aotime.toNat) perMs

/-- The observation and the direct part of the debug window, as the life-cycle state opens them (R446), closed by dbg_block
(R435). -/
def windowOpen (ao : AO) (b : Block) (direct : Bool) : Bool :=
  !b.regs.hostcfg.getLsbD 0 && match lifeCycle ao with
  | 0 => true
  | 1 => true
  | 2 => !direct && b.regs.dbgUnlocked
  | 3 => !direct && b.regs.dbgUnlocked
  | 4 => !direct || !b.boot.warm
  | _ => false

/-- The error state serves STATUS on the privileged mailbox (R399). -/
def errorServes (b : Block) (a : Nat) (w : CtlWrite) : Bool :=
  inPriv a && decide (a < 0x1100) && w.vi == 0 && (a != 0x1060 || fieldAt (b.mbox 256).cmd 0 1 == 0x9B)

/-- States in which the control port serves less (R73, R74, R399, R414, R448, R454). (DEDUCED, log 36) -/
def portClosed (b : Block) (a : Nat) (w : CtlWrite) : Bool :=
  if b.boot.stage = 0xF || b.boot.resetChip then true
  else if errorState b then !errorServes b a w
  else if b.power.state = 3 then a != 0x70
  else if !readyLocal b && (inMbox a || inBell a || inPriv a) then true
  else b.regs.atlHalt && !(decide (a < globalEnd) || inDebug a)

/-- The doorbells a write rings: queue and word, low half first. (DEDUCED, log 38) -/
def wBells (w : CtlWrite) (a : Nat) : List (Nat × Nat) :=
  let i := (a - 0x10000) / 4
  let d := w.data.toNat
  (if w.strb.getLsbD 0 then [(i, bitsOf d 31 0)] else []) ++ (if w.strb.getLsbD 4 then [(i + 1, bitsOf d 63 32)] else [])

/-- Whether an instance owns the submission queue of a doorbell (R54). (DESIGN CHOICE, log 103) -/
def bellOwned (b : Block) (vi i : Nat) : Bool := (b.sq i).usable && (b.sq i).vi == vi

/-- Whether an access is refused, before its register's own rules (R54). The doorbell of a queue under destruction is
refused like one that nobody owns. (DEDUCED, log 36; DESIGN CHOICE, log 103) -/
def portCheck (ao : AO) (b : Block) (a : Nat) (w : CtlWrite) : Option Status :=
  if portClosed b a w then some .domainOff
  else if w.strb != 0x0F && w.strb != 0xF0 && w.strb != 0xFF then some .bounds
  else if inMbox a && (a - 0x40000) / 256 ≠ w.vi then some .permission
  else if inBell a && (wBells w a).any (fun e => !bellOwned b w.vi e.1) then some .permission
  else if inPriv a && w.vi ≠ 0 then some .permission
  else if (a < globalEnd || inOtp a || inDebug a) && w.vi ≠ 0 then some .permission
  else if inDebug a && !windowOpen ao b (decide (0x88000 ≤ a)) then some .permission
  else if a = 0x40 && b.regs.hostcfg.getLsbD 63 then some .locked
  else if (inMbox a || inBell a) && (b.vinst w.vi).stage ≠ 0 then some .instanceReset
  else none

/-- A refusal; one as LOCKED is a violation (R9, R434). -/
def refusePort (b : Block) (a : Nat) (w : CtlWrite) (st : Status) : Block :=
  let b := respond b st
  if st == .locked || st == .writeOnce then
    toAo (raise b 52 0 (status := st) (vi := w.vi) (detail := a)) (.violation a w.vi st.code)
  else b

/-- An access that CT takes: refused, or handed to its register, which answers OK or with a refusal of its own and no
change. (DEDUCED, log 36) -/
def access (a : Nat) (w : CtlWrite) (k : AO → Block → Except Status Block) (ao : AO) (b : Block) : Block :=
  if !ctUp b || a % 8 ≠ 0 || 2 ^ 20 ≤ a || 256 ≤ w.vi then b
  else match portCheck ao b a w with
    | some st => refusePort b a w st
    | none =>
      match k ao b with
      | .ok b => respond b .ok
      | .error st => refusePort b a w st

/-! ### REGISTER_WRITE -/

/-- A write to a mailbox's register at offset `o` (R92, R93). (DEDUCED, log 37) -/
def mboxWrite (b : Block) (m : Nat) (o : Nat) (w : CtlWrite) : Except Status Block :=
  let x := b.mbox m
  if o < 0x40 then
    if x.busy then .error .queueFull
    else
      let old := BitVec.ofNat 64 (fieldAt x.cmd o 8)
      .ok (b.setMbox m { x with cmd := patchAt x.cmd o (natLe 8 (wOver w old).toNat) })
  else if o = 0x60 then
    if x.busy then .error .queueFull
    else .ok (if wSets w 0 then b.setMbox m { x with busy := true } else b)
  else if o = 0x68 then .ok (if wSets w 1 then b.setMbox m { x with done := false } else b)
  else .ok b

/-- Registers whose write has a row of its own. -/
def ownRow (a : Nat) : Bool :=
  a == 0x40 || a == 0x50 || a == 0x70 || a == 0x108 || a == 0x80000 || a == 0x88008 || a == 0x88100 || inBell a

/-- A write without a row of its own: read-only and reserved registers ignore it (R8, R9). -/
def plainWrite (a : Nat) (w : CtlWrite) (_ao : AO) (b : Block) : Except Status Block :=
  if a = 0x58 then .ok { b with flt := { b.flt with mask := wOver w b.flt.mask } }
  else if a = 0x100 then
    .ok (if b.regs.otpBusy then b else { b with regs := { b.regs with otpPrec := wOver w b.regs.otpPrec &&& 0xF } })
  else if 0x200 ≤ a && a < 0x400 then
    let i := (a - 0x200) / 8
    .ok (if b.regs.otpBusy then b
      else { b with regs := { b.regs with
        otpBuf := b.regs.otpBuf.upd 0 i fun old => (wOver w (BitVec.ofNat 64 old)).toNat } })
  else if a = 0x1120 then .ok { b with rin := { b.rin with tokPa := wOver w b.rin.tokPa } }
  else if a = 0x1128 then .ok { b with rin := { b.rin with tokLen := wOver w b.rin.tokLen } }
  else if 0x1000 ≤ a && a < 0x1100 then mboxWrite b 256 (a - 0x1000) w
  else if inMbox a then mboxWrite b w.vi (a % 256) w
  else if a = 0x88000 then .ok { b with regs := { b.regs with dbgPaddr := wOver w b.regs.dbgPaddr &&& 0x7FFFFC7 } }
  else if 0x88040 ≤ a && a < 0x88080 then
    .ok { b with regs := { b.regs with
      dbgPdata := b.regs.dbgPdata.upd 0 ((a - 0x88040) / 8) fun old => (wOver w (BitVec.ofNat 64 old)).toNat } }
  else .ok b

def execRegisterWrite (addr : Nat) (w : CtlWrite) (s : State) : Host.Outcome State Fault Refusal :=
  lift (fun ao b => if ownRow addr then b else access addr w (plainWrite addr w) ao b) s

/-! ### Doorbells (R94, R95) -/

/-- Why a doorbell word is refused (R95); a completion queue under destruction still has its owner. (DEDUCED, log 38) -/
def bellCheck (b : Block) (i d : Nat) : Option Status :=
  let q := b.sq i
  let x := bitsOf d 15 0
  if bitOf d 31 then
    let c := b.cq (bitsOf d 27 16)
    if !c.live || c.vi ≠ q.vi then some .permission
    else if c.size ≤ x then some .bounds else none
  else if q.size ≤ x then some .bounds else none

/-- A submission tail (R95). A DIRECT queue's fill counts the entries from its head, which WAIT advances, to the new
tail (R97, R165). (DEDUCED, log 49) -/
def ringTail (b : Block) (i x : Nat) : Block :=
  let q := b.sq i
  if q.direct then
    wakeP2 (b.setSq i { q with fill := (x + q.size - q.head) % q.size, tail := x })
  else b.setSq i { q with tail := x }

/-- A completion head: entries are acknowledged, what waited for room is written, and an abort whose completion waited for
it goes on (R100, R101). -/
def ringHead (b : Block) (c x : Nat) : Block :=
  let q := b.cq c
  settleWrites (drainWaiting c q.waiting.length (b.setCq c { q with head := x }))

def ringBell (b : Block) (e : Nat × Nat) : Block :=
  if bitOf e.2 31 then ringHead b (bitsOf e.2 27 16) (bitsOf e.2 15 0) else ringTail b e.1 (bitsOf e.2 15 0)

/-- Every word is checked before any rings. (DEDUCED, log 38) -/
def ringBells (a : Nat) (w : CtlWrite) (_ao : AO) (b : Block) : Except Status Block :=
  match (wBells w a).findSome? fun e => bellCheck b e.1 e.2 with
  | some st => .error st
  | none => .ok ((wBells w a).foldl ringBell b)

/-- The kind of the first word a doorbell write carries. (DEDUCED, log 38) -/
def firstKind (a : Nat) (w : CtlWrite) : Bool := match wBells w a with | e :: _ => bitOf e.2 31 | [] => false

def execSubmissionTail (addr : Nat) (w : CtlWrite) (s : State) : Host.Outcome State Fault Refusal :=
  lift (fun ao b => if inBell addr && !firstKind addr w then access addr w (ringBells addr w) ao b else b) s

def execCompletionHead (addr : Nat) (w : CtlWrite) (s : State) : Host.Outcome State Fault Refusal :=
  lift (fun ao b => if inBell addr && firstKind addr w then access addr w (ringBells addr w) ao b else b) s

/-! ### Global registers -/

/-- HOSTCFG (R435): policy bits and LOCK in one write; dbg_block closes the debug window. -/
def hostcfgWrite (w : CtlWrite) (_ao : AO) (b : Block) : Except Status Block :=
  let b : Block := { b with regs := { b.regs with hostcfg := wOver w b.regs.hostcfg &&& 0x8000000000000007 } }
  .ok (if b.regs.hostcfg.getLsbD 0 then closeWindow b else b)

def execHostcfg (w : CtlWrite) (s : State) : Host.Outcome State Fault Refusal := lift (access 0x40 w (hostcfgWrite w)) s

/-- FLT_STATUS (R416). -/
def fltStatusWrite (w : CtlWrite) (_ao : AO) (b : Block) : Except Status Block :=
  .ok { b with flt := { b.flt with status := b.flt.status &&& ~~~(w.data &&& wMask w) } }

def execFltStatus (w : CtlWrite) (s : State) : Host.Outcome State Fault Refusal := lift (access 0x50 w (fltStatusWrite w)) s

/-! ### OTP programming (R442-R445) -/

/-- Records programmable in a life-cycle state (R443). -/
def otpAllowed (lcs code : Nat) : Bool :=
  match lcs with
  | 0 => true
  | 1 => true
  | 2 => code == 0x8 || code == 0x9
  | 4 => code == 0x6 || code == 0x7
  | _ => false

/-- The programming buffer's 512 bytes. -/
def otpBufBytes (b : Block) : Bytes := (List.range 64).flatMap fun i => natLe 8 (b.regs.otpBuf.get 0 i)

/-- REPAIR rows lie in their region. (DEDUCED, log 40) -/
def repairInRange (d : Bytes) : Bool :=
  (List.range 144).all fun i =>
    let e := fieldAt d (2 * i) 2
    !bitOf e 15 || decide (e % 2 ^ 14 < if i < 128 then 11264 else 2048)

/-- The checks of R443, with the record's words per generation and body size. (DEDUCED, log 40) -/
def otpCheck (ao : AO) (b : Block) (code : Nat) : Except Status (Nat × Nat) :=
  match otpRecord code with
  | none => .error .bounds
  | some (_, n, body) =>
    let d := otpBufBytes b
    if !otpAllowed (lifeCycle ao) code then .error .permission
    else if otpFrozen ao.shadow code then .error .writeOnce
    else if !allZero (d.drop body) || (code == 0x6 && !repairInRange d) then .error .bounds
    else .ok (n, body)

/-- OTP_PGO: a refusal is reported in OTP_PSTAT, else the lowest unprogrammed generation is programmed. -/
def otpGo (w : CtlWrite) (ao : AO) (b : Block) : Except Status Block :=
  if b.regs.otpBusy || !wSets w 0 then .ok b
  else
    let code := b.regs.otpPrec.toNat
    match otpCheck ao b code with
    | .error st => .ok { b with regs := { b.regs with otpDone := true, otpFail := true, otpCode := st.code } }
    | .ok (n, body) =>
      let g := (([0, 1, 2, 3].find? fun g => !otpProgrammed ao.shadow (genWord code g) n)).getD 0
      let d := (otpBufBytes b).take body
      let ws := chunksLe 4 (n - 1) d ++ [Crypto.crc32 d]
      .ok { b with regs := { b.regs with otpDone := false, otpFail := false, otpCode := 0, otpBusy := true
                                         otpJob := some (code, g, ws) } }

def execOtpPgo (w : CtlWrite) (s : State) : Host.Outcome State Fault Refusal := lift (access 0x108 w (otpGo w)) s

/-- OTP_PROGRAM_DONE (R444): every word read back right, or a word read back wrong. -/
def otpDone (ok : Bool) (b : Block) : Block :=
  match b.regs.otpJob with
  | none => b
  | some (code, g, ws) =>
    if ok then
      let b : Block := (bitsFrom (genWord code g) ws).foldl (fun b i => toAo b (.fuse i)) b
      { b with regs := { b.regs with otpJob := none, otpBusy := false, otpDone := true, otpFail := false, otpGen := g
                                     otpCode := 0 } }
    else
      let b := cutJob b
      { b with regs := { b.regs with otpDone := true, otpFail := true, otpGen := g
                                     otpCode := Status.uncorrectable.code } }

def execOtpProgramDone (readbackOk : Bool) (s : State) : Host.Outcome State Fault Refusal :=
  lift (fun _ b => otpDone readbackOk b) s

/-! ### Power states (R450-R455) -/

/-- No context runs or waits and no stream is open (R452). -/
def quietForP2 (b : Block) : Bool :=
  b.ctxs.all (fun e => e.2.st != .running && e.2.st != .waiting) && b.sports.all fun e => e.2.openNos.isEmpty

/-- The condition of an entry. -/
def quietFor (b : Block) (t : Nat) : Bool :=
  quietForP2 b &&
    (t != 3 || ((remoteAccs b).isEmpty && b.links.all (fun e => e.2.reqs.isEmpty) && b.pd.all fun e => !e.2.drain))

/-- A write of PSTATE_CTL (R451): while a transition runs it takes effect at its end. (DEDUCED, log 41) -/
def pstateWrite (w : CtlWrite) (_ao : AO) (b : Block) : Except Status Block :=
  let v := wOver w b.power.ctl &&& 0x7
  let b := b.setPower fun p => { p with ctl := v }
  let t := v.toNat % 4
  .ok (if b.power.busy.isSome then b.setPower fun p => { p with deferred := some t } else requestPower b t)

/-- The row of a target: the register write whose target field reads so. -/
def targetRow (t : Nat) (w : CtlWrite) (ao : AO) (b : Block) : Block :=
  if (wOver w b.power.ctl).toNat % 4 = t then access 0x70 w (pstateWrite w) ao b else b

def execTargetP0 (w : CtlWrite) (s : State) : Host.Outcome State Fault Refusal := lift (targetRow 0 w) s
def execTargetP1 (w : CtlWrite) (s : State) : Host.Outcome State Fault Refusal := lift (targetRow 1 w) s
def execTargetP2 (w : CtlWrite) (s : State) : Host.Outcome State Fault Refusal := lift (targetRow 2 w) s
def execTargetP3 (w : CtlWrite) (s : State) : Host.Outcome State Fault Refusal := lift (targetRow 3 w) s

/-- POWER_STATE_ENTRY: a pending entry whose condition holds begins. -/
def powerEntry (b : Block) : Block :=
  match b.power.pending with
  | none => b
  | some t =>
    if b.power.busy.isNone && quietFor b t then b.setPower fun p => { p with busy := some t, pending := none } else b

def execPowerStateEntry (s : State) : Host.Outcome State Fault Refusal := lift (fun _ b => powerEntry b) s

/-- A channel at P3: the tags still open are retired (R59, R454); the interface stands at its reset values.
(DEDUCED, log 41) -/
def clampChan (c : Chan) : Chan :=
  { service := if c.service == .fenced then .fenced else .reset, rquar := c.rquar, wquar := c.wquar
    rwait := c.rwait, wwait := c.wwait, therm := c.therm }

/-- A link at P3: clamped, its session gone (R394, R454). (DEDUCED, log 41) -/
def clampLink (l : Link) : Link :=
  if l.phase == .reset || l.phase == .fenced then l.clamp else { (dropPort l).clamp with phase := .reset }

/-- Entry to P3: the tags that have not answered are retired, every port is clamped; an entry from P2 is no automatic exit
from it (R451). (DEDUCED, log 41) -/
def enterP3 (b : Block) : Block :=
  let open_ := fun (a : Acc) => b.chans.any fun e => (e.2.rtags ++ e.2.wtags).any fun t => t.2 == a
  let b := retireOpen b open_
  let b : Block := { b with
    chans := b.chans.mapVals {} fun _ c => clampChan c
    links := b.links.mapVals {} fun _ l => clampLink l
    ring := []
    palq := [] }
  let b := (List.range 4).foldl clampQuad b
  let b : Block := { b with islands := { b.islands with alive := [] } }
  b.setPower fun p => { p with state := 3, busy := none, auto := if p.state = 2 then false else p.auto }

/-- Entry to P2: the quadrants are clamped, and with them the stream ports and drq_ack (R34, R450). -/
def enterP2 (b : Block) : Block :=
  let b := (List.range 4).foldl clampQuad b
  b.setPower fun p => { p with state := 2, busy := none }

/-- The exit from P3 (R455): channels and links are negotiated again; a tamper of P3 starts the block warm.
(DEDUCED, log 27) -/
def leaveP3 (b : Block) (t : Nat) : Block :=
  let b := b.setPower fun p => { p with state := t, busy := none }
  let b := beginNegotiation b
  if b.boot.tamperHeld then orderStart b else b

/-- POWER_TRANSITION_DONE: the running transition ends; an entry whose condition no longer holds waits again; a write
made meanwhile takes effect. (DEDUCED, log 41) -/
def powerDone (b : Block) : Block :=
  match b.power.busy with
  | none => b
  | some t =>
    let s := b.power.state
    let b := if t = 2 then (if quietFor b 2 then enterP2 b else b.setPower fun p => { p with busy := none, pending := some 2 })
      else if t = 3 then (if quietFor b 3 then enterP3 b else b.setPower fun p => { p with busy := none, pending := some 3 })
      else if s = 3 then leaveP3 b t
      else
        if s = 2 then exitP2 b t false else b.setPower fun p => { p with state := t, busy := none }
    takeDeferred b

def execPowerTransitionDone (s : State) : Host.Outcome State Fault Refusal := lift (fun _ b => powerDone b) s

/-! ### The debug window (R446-R449) -/

/-- CLOSE (R447). -/
def execClose (w : CtlWrite) (s : State) : Host.Outcome State Fault Refusal :=
  lift (access 0x80000 w fun _ b => .ok (if wSets w 0 then closeWindow b else b)) s

/-- DEBUG_UNLOCK_EXPIRY (R447); an unlock until the next start has no expiry. -/
def execDebugUnlockExpiry (s : State) : Host.Outcome State Fault Refusal :=
  lift (fun _ b => if b.regs.dbgUnlocked && b.regs.dbgUntil.isSome then closeWindow b else b) s

/-- The Palette offset of the word DBG_PADDR names. -/
def dbgWord (b : Block) : Option Nat :=
  let r := b.regs.dbgPaddr.toNat % 8
  let w := bitsOf b.regs.dbgPaddr.toNat 26 6
  if r ≤ 4 && w < regionUnits r * 64 then some (regionFirst r * 4096 + 64 * w) else none

/-- A debug read of a word; one that returns no data leaves DBG_PDATA. (DESIGN CHOICE, log 39) -/
def dbgRead (b : Block) (o : Nat) : Block :=
  match palReadChk b o 64 with
  | (b, .error _) => b
  | (b, .ok d) =>
    { b with regs := { b.regs with dbgPdata := (List.range 8).foldl (fun t i => Tab.put 0 t i (fieldAt d (8 * i) 8)) [] } }

def dbgWrite (b : Block) (o : Nat) : Block :=
  palPut b o ((List.range 8).flatMap fun i => natLe 8 (b.regs.dbgPdata.get 0 i))

/-- A write of DBG_PCMD (R449). (DESIGN CHOICE, log 39) -/
def dbgCmd (f : Block → Nat → Block) (i : Nat) (w : CtlWrite) (_ao : AO) (b : Block) : Except Status Block :=
  if !wSets w i then .ok b
  else match dbgWord b with
    | none => .error .bounds
    | some o => .ok (f b o)

def execDbgPcmdRead (w : CtlWrite) (s : State) : Host.Outcome State Fault Refusal := lift (access 0x88008 w (dbgCmd dbgRead 0 w)) s
def execDbgPcmdWrite (w : CtlWrite) (s : State) : Host.Outcome State Fault Refusal :=
  lift (access 0x88008 w (dbgCmd dbgWrite 1 w)) s

/-- DBG_ATL (R448): HALT stops the Atelier pair, cleared it goes on. -/
def execDbgAtlHalt (w : CtlWrite) (s : State) : Host.Outcome State Fault Refusal :=
  lift (access 0x88100 w fun _ b =>
    .ok { b with regs := { b.regs with atlHalt := if w.strb.getLsbD 0 then w.data.getLsbD 0 else b.regs.atlHalt } }) s

end Sys2Proof.Machine
end

