-- ==== Sys2Proof/Machine/Services.lean ====
section
/-! DEFINITION. The services: SETUP_UPDATE (R87), telemetry and the log (R427, R428), and the security services of R381 with
their tokens (R382-R384, R386-R388, R392, R398, R401-R404, R408, R447). -/

namespace Sys2Proof.Machine

/-! ### Physical addresses as operands -/

/-- The local address a PA operand names: its chip ID is this chip's, 0xFFFF, or left 0. (DESIGN CHOICE, log 104) -/
def localPa (b : Block) (pa : Nat) : Option Nat :=
  if pa < 2 ^ 48 || isLocalChip b (bitsOf pa 63 48) then some (pa % 2 ^ 48) else none

/-- Reads the granules of a record on another chip, at a PA. -/
def readFar (b : Block) : List (Nat × Nat) → Except VaErr Bytes
  | [] => .ok []
  | (pa, n) :: t =>
    match recBytes b 256 0 pa n, readFar b t with
    | .error s, _ => .error (s, pa)
    | .ok _, .error e => .error e
    | .ok d, .ok r => .ok (d ++ r)

/-- Reads a record at a PA operand; one on another chip is read over a link. (DESIGN CHOICE, log 12) -/
def readPa (b : Block) (pa n : Nat) : Except VaErr Bytes :=
  match localPa b pa with
  | some o => readVa b 0 clsControl o n
  | none => readFar b (pieces (n / 256 + 2) pa n)

/-- The events of a record at a PA operand that was read well (R422). -/
def notePa (b : Block) (pa n : Nat) : Block :=
  match localPa b pa with
  | some o => palNote b 0 o n
  | none => b

/-! ### Tokens (R382-R384) -/

/-- The checks of R384 on the token at TOKPA for a command, by token type 1 or 2; no answer while its read is held, with the
address that waits. -/
def tokenOk (ao : AO) (b : Block) (c : Bytes) (ty : Nat) : Except Nat Bool :=
  let n := if ty = 1 then 4755 else 7347
  if b.rin.tokLen.toNat ≠ n then .ok false
  else match readPa b b.rin.tokPa.toNat n with
    | .error (.held, at_) => .error at_
    | .error _ => .ok false
    | .ok t =>
      let ident := if b.sec.identPub.isEmpty then List.replicate 32 0 else Crypto.sha3_256 b.sec.identPub
      let pub := if ty = 1 then b.boot.setupKey else sliceAt t 4755 2592
      let keyOk := ty == 1 || (match otpBody ao 0xA with | some p => p.take 32 == Crypto.sha3_256 pub | none => false)
      .ok <| fieldAt t 0 4 == 0x4C544B31 && fieldAt t 4 1 == ty && allZero (sliceAt t 5 11) && allZero (sliceAt t 112 16) &&
        sliceAt t 16 32 == b.sec.nonce && sliceAt t 48 32 == Crypto.sha3_256 c && sliceAt t 80 32 == ident && keyOk &&
        Config.mldsaVerify pub (t.take 128) (sliceAt t 128 4627)

/-- A security event with its record, for the two that have no source of their own (R409). (DESIGN CHOICE, log 35) -/
def securityRecord (b : Block) (st : Status) (vi : Nat) : Block := toAo (raise b 52 0 (status := st) (vi := vi)) .security

/-- Runs a command under a token: the nonce is drawn again whether the check passes or fails.
(DESIGN CHOICE, log 35; DEDUCED, log 42) -/
def withToken (ty : Nat) (k : Cmd) : Cmd := fun ao b c r =>
  match tokenOk ao b c ty with
  | .error at_ => (b, .lost .held at_)
  | .ok ok =>
    let (n, b) := drbg (notePa b b.rin.tokPa.toNat (if ty = 1 then 4755 else 7347)) 32
    let b : Block := { b with sec := { b.sec with nonce := n } }
    if ok then k ao b c r else (securityRecord b .permission r.vi, .now .permission 0 0)

/-- A Crypto Officer's command: the privileged mailbox and a type-1 token (R379). (DESIGN CHOICE, log 35; DEDUCED, log 42) -/
def byOfficer (k : Cmd) : Cmd := fun ao b c r =>
  match r.path with
  | .privileged => withToken 1 k ao b c r
  | _ => (b, .now .permission 0 0)

/-! ### SETUP_UPDATE (R87) -/

/-- First byte of a slot in the bootstrap region (R68). (DEDUCED, log 23) -/
def slotBase (slot : Nat) : Nat := if slot = 0 then 0x400000 else 0x800000

/-- Writes an image granule by granule through the channels its addresses steer to, as it stands (R87, R294); a channel that
is not to be had stops it with what is written. A whole granule written mends one that read badly. (DEDUCED, log 23) -/
def slotWrite : Nat → Nat → Bytes → Block → Block × Option (Status × Nat)
  | 0, _, _, b => (b, none)
  | _, _, [], b => (b, none)
  | fuel + 1, pa, d, b =>
    match channelOf b pa with
    | none => (b, some (.busRetryExhausted, pa))
    | some ch =>
      match (chanStatus b 256 ch (pa / 256)).or (domStatus b ch pa) with
      | some st => (b, some (st, pa))
      | none =>
        let b := memWrite b ch pa (d.take 256)
        let b : Block := if d.length < 256 then b else { b with badGran := b.badGran.put 0 (granKey ch (pa / 256)) 0 }
        slotWrite fuel (pa + 256) (d.drop 256) b

/-- How the read-back of a slot ends, when badly, and where (R87). -/
def slotReadBack (b : Block) (pa n : Nat) : Option (Status × Nat) :=
  (List.range (ceilDiv n 256)).findSome? fun i => (channelOf b (pa + 256 * i)).bind fun ch =>
    (badRead b ch (pa / 256 + i)).map fun st => (st, pa + 256 * i)

/-- (DEDUCED, log 23) -/
def runSetupUpdate : Cmd := fun _ b c r =>
  let pa := fieldAt c 16 8
  let len := fieldAt c 24 4
  guarded b (check0 b c r .vi0 [(16, 27)] (decide (4736 ≤ len) && decide (len ≤ 4194304)))
    (match readPa b pa len with
      | .error (s, va) => (b, .lost s va)
      | .ok img =>
        let b := notePa b pa len
        match validImage b.boot.setupKey img with
        | none => (b, .now .digestMismatch 0 0)
        | some _ =>
          if b.boot.active.isSome && !laterThan (fieldAt img 4 4) b.boot.seq then
            (securityRecord b .writeOnce r.vi, .now .writeOnce 0 0)
          else
            let slot := match b.boot.active with | some 0 => 1 | _ => 0
            match slotWrite (len / 256 + 1) (slotBase slot) img b with
            | (b, some (st, at_)) => (b, .lost st at_)
            | (b, none) => (b, match slotReadBack b (slotBase slot) len with
              | some (st, at_) => .lost st at_
              | none => .now .ok slot 0))

/-- (DESIGN CHOICE, log 43) -/
def cmdSetupUpdate : Cmd := byOfficer runSetupUpdate

def execSetupUpdate (src : CmdSrc) (s : State) : Host.Outcome State Fault Refusal := lift (serveRow 0x60 cmdSetupUpdate src) s

/-! ### Telemetry (R428) and the log (R427) -/

/-- Recovery counter and state of a unit. -/
def healthBytes (b : Block) (k : UnitKind) (i : Nat) : Bytes :=
  let h := b.health k i
  natLe 1 h.counter ++ natLe 1 (match h.state with | .inService => 0 | .fault => 1 | .fenced => 2)

def healthOf (b : Block) (k : UnitKind) (n : Nat) : Bytes := (List.range n).flatMap (healthBytes b k)

/-- A port's entry of group 6. -/
def portBytes (l : Link) (fenced : Bool) : Bytes :=
  let st := if fenced then 3 else if l.phase == .ready then 1 else if l.everReady then 2 else 0
  natLe 1 st ++ natLe 1 l.epoch ++ natLe 1 l.lanes ++ natLe 1 l.rate ++ natLe 4 l.latency ++ natLe 4 l.fecCount ++
    natLe 4 l.resent

/-- A statistics record (R240). -/
def statsBytes (x : Slot) : Bytes :=
  let s := x.stats
  natLe 4 s.amax ++ natLe 4 s.nsat ++ natLe 4 s.nquart ++ natLe 4 s.nelem ++ natLe 1 s.below ++ natLe 1 (codeOf 8 s.prop) ++
    natLe 1 (codeOf 8 x.canvas.shift) ++ natLe 1 0 ++ natLe 4 (s.steps % 2 ^ 32) ++ natLe 8 0

/-- The record of a source in the first-failure file: as it stands in the queue, else as it was sent. -/
def firstBytes (b : Block) (s : Nat) : Bytes := sliceAt (Tab.get [] b.flt.first s) 0 32

/-- The contents of a group for its reader. (DESIGN CHOICE, log 45) -/
def telemetry (b : Block) (vi g : Nat) : Except Status Bytes :=
  let ctxs := (List.range 256).filter fun c => (b.ctx c).st != .free && (b.ctx c).vi == vi
  let rings := b.pal.slots.filter fun e => e.2.alloc && e.2.use == 2 && e.2.vi == vi
  if 0xC000 ≤ g then
    let x := b.slot (g - 0xC000)
    if x.used && (vi == 0 || x.vi == vi) then .ok (statsBytes x) else .error .permission
  else if vi ≠ 0 && (decide (1 ≤ g) && decide (g ≤ 4) || (g == 6 && b.regs.hostcfg.getLsbD 2)) then .error .permission
  else match g with
    | 1 => .ok (natLe 8 b.flt.status.toNat ++ natLe 8 b.flt.mask.toNat ++
        (List.range 64).flatMap fun s => natLe 4 (b.flt.counts.get 0 s))
    | 2 => .ok (healthOf b .lane 64 ++ healthOf b .channel 24 ++ healthOf b .link 8 ++ healthOf b .core 192 ++
        healthOf b .decoder 128 ++ healthOf b .region 6)
    | 3 => .ok ((List.range 64).flatMap (firstBytes b))
    | 4 => .ok (natLe 4 b.flt.nextSeq ++ (b.flt.lost.take 8).flatMap (natLe 4 ·) ++ natLe 4 b.flt.queue.length ++
        natLe 8 (if b.flt.ringOn then b.flt.ringPa else 0))
    | 5 => .ok (sliceAt (natLe 2 ctxs.length ++ ctxs.flatMap fun c => natLe 1 c ++ natLe 1 (b.ctx c).epoch) 0 514)
    | 6 => .ok ((List.range 8).flatMap fun p => portBytes (b.link p) (b.isFenced .link p))
    | 7 => .ok (sliceAt (natLe 2 rings.length ++
        rings.flatMap fun e => natLe 4 (bufId e.1 e.2) ++ natLe 1 e.2.epoch ++ natLe 1 0) 0 6146)
    | _ => .error .bounds

/-- Writes a record of a command to its destination. -/
def writeRecord (b : Block) (vi va : Nat) (d : Bytes) : Block × Done :=
  match writeVa b vi clsControl va d with
  | .error (s, at_) => (b, .lost s at_)
  | .ok b => (b, .now .ok d.length 0)

def cmdTelemetryRead : Cmd := fun _ b c r =>
  guarded b (check0 b c r .any [(16, 17), (24, 31)] true)
    (match telemetry b r.vi (fieldAt c 16 2) with
      | .error s => (b, .now s 0 0)
      | .ok d => writeRecord b r.vi (fieldAt c 24 8) d)

def execTelemetryRead (src : CmdSrc) (s : State) : Host.Outcome State Fault Refusal :=
  lift (serveRow 0x70 cmdTelemetryRead src) s

/-- (DESIGN CHOICE, log 45) -/
def cmdLogConfigure : Cmd := fun _ b c r =>
  let pa := fieldAt c 16 8
  let f := fieldAt c 24 1
  guarded b (check0 b c r .vi0 [(16, 24)] (decide (f < 4) && (!bitOf f 0 || (pa % 32 == 0 && (localPa b pa).isSome))))
    ({ b with flt := { b.flt with ringPa := pa % 2 ^ 48, ringOn := bitOf f 0, ringIdx := 0, traceOn := bitOf f 1 } },
      .now .ok 0 0)

def execLogConfigure (src : CmdSrc) (s : State) : Host.Outcome State Fault Refusal :=
  lift (serveRow 0x71 cmdLogConfigure src) s

/-! ### SELFTEST, ATTEST, STATUS, RANDOM -/

/-- SELFTEST (R398): the step-4 tests again; Gesso cores that fail theirs are fenced, any other failure writes no completion
and enters the error state. -/
def cmdSelftest (t : TestIn) : Cmd := fun _ b c r =>
  guarded b (check0 b c r .vi0 [] true)
    (let b := wakeP2 b
     if t.passed then (fenceCores b t.badCores, .now .ok 0 0) else (enterError (raise b 61 0), .later))

def execSelftest (src : CmdSrc) (found : TestIn) (s : State) : Host.Outcome State Fault Refusal :=
  lift (serveRow 0x90 (cmdSelftest found) src) s

/-- The report of R403 up to its signature. -/
def report (ao : AO) (b : Block) (vi : Nat) (nonce : Bytes) : Bytes :=
  natLe 4 0x4C415431 ++ natLe 1 (lifeCycle ao) ++ natLe 1 b.boot.stage ++ natLe 2 b.setup.chipId ++
    natLe 4 b.boot.fwVersion ++ natLe 4 (if b.boot.active.isSome then b.boot.seq else 0) ++ sliceAt b.boot.fwDigest 0 32 ++
    sliceAt b.boot.payloadDigest 0 32 ++ nonce ++ natLe 1 vi ++ natLe 1 0 ++ natLe 2 (b.vinst vi).gen ++
    natLe 4 (otpCount ao 1 8) ++ List.replicate 40 0 ++ sliceAt b.sec.identPub 0 2592 ++ sliceAt b.sec.importPub 0 1568

def cmdAttest : Cmd := fun ao b c r =>
  guarded b (if inService ao then none else some .permission)
    (guarded b (check0 b c r .any [(16, 55)] true)
      (let (rnd, b) := drbg b 32
       let m := report ao b r.vi (sliceAt c 16 32)
       writeRecord b r.vi (fieldAt c 48 8) (m ++ sliceAt (Config.mldsaSign b.sec.identPriv m rnd) 0 4627)))

def execAttest (src : CmdSrc) (s : State) : Host.Outcome State Fault Refusal := lift (serveRow 0x91 cmdAttest src) s

def cmdStatus : Cmd := fun ao b c r =>
  guarded b (check0 b c r .any [] true)
    (b, .now .ok (lifeCycle ao + b.boot.stage * 2 ^ 8 + b2n b.sec.cert.isSome * 2 ^ 16 + b2n ao.viol * 2 ^ 17 +
      ao.secEvents * 2 ^ 32) 0)

def execStatus (src : CmdSrc) (s : State) : Host.Outcome State Fault Refusal := lift (serveRow 0x9B cmdStatus src) s

def cmdRandom : Cmd := fun _ b c r =>
  let n := fieldAt c 24 2
  guarded b (check0 b c r .any [(16, 25)] (decide (1 ≤ n) && decide (n ≤ 4096)))
    (let (d, b) := drbg b n
     writeRecord b r.vi (fieldAt c 16 8) d)

def execRandom (src : CmdSrc) (s : State) : Host.Outcome State Fault Refusal := lift (serveRow 0x95 cmdRandom src) s

/-! ### Key slots (R386-R388) -/

/-- The lowest free slot in [1, 255] within the issuer's quota. -/
def freeKey (b : Block) (vi : Nat) : Option Nat :=
  let held := (b.sec.keys.filter fun e => e.2.live && e.2.vi == vi).length
  if held < (b.vinst vi).tpl.keys then (List.range 256).find? fun i => i != 0 && !(b.keySlot i).live else none

/-- Puts a key into a slot for its owner. -/
def fillKey (b : Block) (i vi : Nat) (k : Bytes) (imported : Bool) : Block :=
  b.setKeySlot i { live := true, key := k, vi := vi, gen := (b.vinst vi).gen, imported := imported }

/-- KEY_GENERATE draws K1 and K2; equal halves are drawn again, the command waiting at its source (R386). (DEDUCED, log 44) -/
def cmdKeyGenerate : Cmd := fun _ b c r =>
  guarded b (check0 b c r .tenant [] true)
    (match freeKey b r.vi with
      | none => (b, .now .poolEmpty 0 0)
      | some i =>
        let (k, b) := drbg b 64
        if k.take 32 = k.drop 32 then (b, .redraw) else (fillKey b i r.vi k false, .now .ok i 0))

def execKeyGenerate (src : CmdSrc) (s : State) : Host.Outcome State Fault Refusal :=
  lift (serveRow 0x92 cmdKeyGenerate src) s

/-- The key an import record wraps for an instance (R388). -/
def unwrapKey (b : Block) (vi : Nat) (d : Bytes) : Except Status Bytes :=
  let who := natLe 1 vi ++ natLe 2 (b.vinst vi).gen
  let ss := Config.mlkemDecaps b.sec.importPriv (sliceAt d 0 1568)
  let wk := Crypto.shake256 (ss ++ [0x4B, 0x49, 0x4D, 0x50] ++ who) 32
  let ct := sliceAt d 1568 64
  let iv := List.replicate 12 0
  if Crypto.gcmTag wk iv who ct ≠ sliceAt d 1632 16 then .error .digestMismatch
  else
    let k := Crypto.gcmCrypt wk iv ct
    if k.take 32 = k.drop 32 then .error .badType else .ok k

def cmdKeyImport : Cmd := fun _ b c r =>
  guarded b (check0 b c r .tenant [(16, 23)] true)
    (match freeKey b r.vi with
      | none => (b, .now .poolEmpty 0 0)
      | some i =>
        match readVa b r.vi clsControl (fieldAt c 16 8) 1648 with
        | .error (s, va) => (b, .lost s va)
        | .ok d =>
          let b := palNote b r.vi (fieldAt c 16 8) 1648
          match unwrapKey b r.vi d with
          | .error s => (b, .now s 0 0)
          | .ok k => (fillKey b i r.vi k true, .now .ok i 0))

def execKeyImport (src : CmdSrc) (s : State) : Host.Outcome State Fault Refusal := lift (serveRow 0x93 cmdKeyImport src) s

/-- A slot as a target (R387); one of its own that is being destroyed does not exist for its owner. (DEDUCED, log 44) -/
def keyTarget (b : Block) (vi t : Nat) : Option Status :=
  let k := b.keySlot t
  if 256 ≤ t || !k.live then some .badHandle
  else if k.vi ≠ vi then some .permission
  else if k.revoked then some .badHandle else none

def cmdKeyDestroy : Cmd := fun _ b c r =>
  let t := cmdTarget c
  guarded b (check b c r .tenant (keyTarget b r.vi t) 0 [] true)
    (let b := b.setKeySlot t { b.keySlot t with revoked := true, owed := some r }
     let b := if (dirtyUnder b t).isEmpty then b else wakeP2 b
     (settleWrites b, .later))

def execKeyDestroy (src : CmdSrc) (s : State) : Host.Outcome State Fault Refusal := lift (serveRow 0x94 cmdKeyDestroy src) s

/-! ### IDENT_CERT_LOAD (R392) -/

def cmdIdentCertLoad : Cmd := fun ao b c r =>
  guarded b (check0 b c r .vi0 [(16, 23)] true)
    (match readVa b r.vi clsControl (fieldAt c 16 8) 4675 with
      | .error (s, va) => (b, .lost s va)
      | .ok d =>
        let b := palNote b r.vi (fieldAt c 16 8) 4675
        if b.sec.identPub.isEmpty || !certSigned b d b.sec.identPub then (b, .now .digestMismatch 0 0)
        else if fieldAt d 4 2 ≠ b.setup.chipId then (b, .now .route 0 0)
        else
          let b : Block := { b with sec := { b.sec with cert := some d } }
          ((List.range 8).foldl (startSession ao) b, .now .ok 0 0))

def execIdentCertLoad (src : CmdSrc) (s : State) : Host.Outcome State Fault Refusal :=
  lift (serveRow 0x96 cmdIdentCertLoad src) s

/-! ### ZEROISE, LIFECYCLE_ADVANCE, FW_VERSION_RAISE, DEBUG_UNLOCK -/

/-- ZEROISE (R408): no completion; the start runs a destructive march. -/
def runZeroise : Cmd := fun _ b c r =>
  guarded b (check0 b c r .vi0 [] true)
    (let b := orderStart (toAo (zeroSsps b) .zeroised)
     ({ b with boot := { b.boot with destructive := true } }, .later))

def cmdZeroise : Cmd := byOfficer runZeroise

def execZeroise (src : CmdSrc) (s : State) : Host.Outcome State Fault Refusal := lift (serveRow 0x97 cmdZeroise src) s

/-- The transitions of R400. -/
def advances : Nat → List Nat
  | 0 => [1, 5] | 1 => [2, 5] | 2 => [3, 4, 5] | 3 => [4, 5] | 4 => [5] | _ => []

/-- Programs DEVICE_SEED where the step to PROVISIONED needs it (R401). -/
def programSeed (ao : AO) (b : Block) : Block :=
  if otpProgrammed ao.shadow 13 9 then b
  else
    let (d, b) := drbg b 32
    (bitsFrom 13 (chunksLe 4 8 d ++ [Crypto.crc32 d])).foldl (fun b i => toAo b (.fuse i)) b

def runAdvance : Cmd := fun ao b c r =>
  let t := fieldAt c 16 1
  guarded b (check0 b c r .vi0 [(16, 16)] ((advances (lifeCycle ao)).contains t))
    (if lifeCycle ao = 1 && seedBad ao then (b, .now .uncorrectable 0 0)
     else
       let b := if lifeCycle ao = 1 && t = 2 then programSeed ao b else b
       (orderStart (zeroSsps (toAo b (.fuse (t - 1)))), .later))

def cmdLifecycleAdvance : Cmd := byOfficer runAdvance

def execLifecycleAdvance (src : CmdSrc) (s : State) : Host.Outcome State Fault Refusal :=
  lift (serveRow 0x98 cmdLifecycleAdvance src) s

/-- FW_VERSION_RAISE (R404): the lowest unprogrammed bits, up to the count. -/
def runRaise : Cmd := fun ao b c r =>
  let v := fieldAt c 16 4
  let n := otpCount ao 9 4
  guarded b (check0 b c r .vi0 [(16, 19)] (decide (v ≤ b.boot.fwVersion) && decide (v ≤ 128)))
    (let free := (List.range 128).filter fun i => !ao.fuses.contains (32 * 9 + i)
     ((free.take (v - n)).foldl (fun b i => toAo b (.fuse (32 * 9 + i))) b, .now .ok (max n v) 0))

def cmdFwVersionRaise : Cmd := byOfficer runRaise

def execFwVersionRaise (src : CmdSrc) (s : State) : Host.Outcome State Fault Refusal :=
  lift (serveRow 0x99 cmdFwVersionRaise src) s

/-- Whether DEBUG_POLICY and HOSTCFG let a debug token open the window (R435, R441, R447). -/
def unlockAllowed (ao : AO) (b : Block) (p : Bytes) : Bool :=
  !b.regs.hostcfg.getLsbD 0 &&
    ((lifeCycle ao == 2 && bitOf (fieldAt p 34 1) 0) || (lifeCycle ao == 3 && bitOf (fieldAt p 34 1) 1))

def runUnlock : Cmd := fun ao b c r =>
  match otpBody ao 0xA with
  | none => (b, .now .permission 0 0)
  | some p =>
    if !unlockAllowed ao b p then (b, .now .permission 0 0)
    else guarded b (check0 b c r .vi0 [] true)
      (let ms := fieldAt p 32 2
       ({ b with regs := { b.regs with dbgUnlocked := true, dbgUntil := if ms = 0 then none else some (ao.aotime.toNat + ms * perMs)
                                       dbgMask := fieldAt p 40 8 } }, .now .ok 0 0))

/-- DEBUG_UNLOCK: VI 0 with a type-2 token. -/
def cmdDebugUnlock : Cmd := fun ao b c r => if r.vi ≠ 0 then (b, .now .permission 0 0) else withToken 2 runUnlock ao b c r

def execDebugUnlock (src : CmdSrc) (s : State) : Host.Outcome State Fault Refusal :=
  lift (serveRow 0x9A cmdDebugUnlock src) s

end Sys2Proof.Machine
end

