-- ==== Sys2Proof/Machine/CommandMsg.lean ====
section
/-! DEFINITION. COMMAND (R91, R334): a Rinlin command received over MGMT. -/

namespace Sys2Proof.Machine

/-- The Atelier's handler of an opcode; a reserved one is NOP's handler, which refuses it. SELFTEST belongs to VI 0, for
which no template admits a message, so its outcome does not arise here. -/
def handlerOf (op : Nat) : Cmd :=
  match op with
  | 0x10 => cmdSqCreate | 0x11 => cmdSqDestroy | 0x12 => cmdCqCreate | 0x13 => cmdCqDestroy
  | 0x14 => cmdTrackerAlloc | 0x15 => cmdTrackerFree | 0x20 => cmdCanvasCreate | 0x21 => cmdCanvasDestroy
  | 0x30 => cmdProgramSubmit | 0x31 => cmdChainSubmit | 0x32 => cmdContextResume | 0x33 => cmdContextAbort
  | 0x34 => cmdContextInspect | 0x40 => cmdPoolAlloc | 0x41 => cmdPoolFree | 0x50 => cmdInstanceCreate
  | 0x51 => cmdInstanceReset | 0x52 => cmdInstanceDestroy | 0x60 => cmdSetupUpdate | 0x70 => cmdTelemetryRead
  | 0x71 => cmdLogConfigure | 0x80 => cmdStreamOpen | 0x81 => cmdStreamClose | 0x90 => cmdSelftest { passed := true, badCores := [] }
  | 0x91 => cmdAttest | 0x92 => cmdKeyGenerate | 0x93 => cmdKeyImport | 0x94 => cmdKeyDestroy
  | 0x95 => cmdRandom | 0x96 => cmdIdentCertLoad | 0x97 => cmdZeroise | 0x98 => cmdLifecycleAdvance
  | 0x99 => cmdFwVersionRaise | 0x9A => cmdDebugUnlock | 0x9B => cmdStatus
  | _ => cmdNop

/-- Whether a message for an instance is executed (R91, R435). -/
def admits (b : Block) (p v : Nat) : Bool :=
  (b.link p).sess.established && (b.vinst v).live && (b.vinst v).tpl.remote && !b.regs.hostcfg.getLsbD 1

/-- The oldest COMMAND of a port's inbox is executed for the instance it names and answered along MGMT. -/
def command (p : Nat) (ao : AO) (b : Block) : Block :=
  match takeMsg b p mtCommand with
  | none => b
  | some ((src, m), b') =>
    if !atelierRuns b then b
    else
      let c := m.take 64
      let v := fieldAt m 64 1
      let r := replyOf (.mgmt src (fieldAt m 66 2) v) v c
      if !admits b p v then complete b' r .permission 0 0
      else if (b.vinst v).stage ≠ 0 then complete b' r .instanceReset 0 0
      else match handlerOf (fieldAt c 0 1) ao b' c r with
        | (_, .lost .held va) => pursue b 256 v va
        | (b'', .lost st va) => lostCommand b'' r st va
        | (b'', .now st res det) => endCommand b'' r st res det
        | (b'', .later) => recForget b'' 256
        | (_, .stay) => b
        | (b'', .redraw) => { b with sec := b''.sec, free := b''.free }

def execCommand (port : Nat) (s : State) : Host.Outcome State Fault Refusal := lift (command port) s

end Sys2Proof.Machine
end

