-- ==== Sys2Proof/Machine/Dispatch.lean ====
section
/-! DEFINITION. One arm per command, each a direct call of its meaning. -/

namespace Sys2Proof.Machine

def exec (i : Instr) (s : State) : Host.Outcome State Fault Refusal :=
  match i with
  | .coldStart k => Sys2Proof.Machine.execColdStart k s
  | .warmStart k => Sys2Proof.Machine.execWarmStart k s
  | .islandReset island release => Sys2Proof.Machine.execIslandReset island release s
  | .readyLocal => Sys2Proof.Machine.execReadyLocal s
  | .mcReadCredit ch => Sys2Proof.Machine.execMcReadCredit ch s
  | .mcWriteCredit ch => Sys2Proof.Machine.execMcWriteCredit ch s
  | .mcReadResponse ch tag resp data par chk => Sys2Proof.Machine.execMcReadResponse ch tag resp data par chk s
  | .mcWriteResponse ch tag resp => Sys2Proof.Machine.execMcWriteResponse ch tag resp s
  | .tagTimeout ch write tag => Sys2Proof.Machine.execTagTimeout ch write tag s
  | .capIVld ch cap => Sys2Proof.Machine.execCapIVld ch cap s
  | .channelModeFix ch => Sys2Proof.Machine.execChannelModeFix ch s
  | .channelNegotiationTimeout ch => Sys2Proof.Machine.execChannelNegotiationTimeout ch s
  | .capIVldLoss ch => Sys2Proof.Machine.execCapIVldLoss ch s
  | .channelWaitRetryTick ch => Sys2Proof.Machine.execChannelWaitRetryTick ch s
  | .thermChange ch therm => Sys2Proof.Machine.execThermChange ch therm s
  | .streamIngressBeat port beat => Sys2Proof.Machine.execStreamIngressBeat port beat s
  | .streamEgressBeat port => Sys2Proof.Machine.execStreamEgressBeat port s
  | .drq line => Sys2Proof.Machine.execDrq line s
  | .pdReq d => Sys2Proof.Machine.execPdReq d s
  | .pdAck d => Sys2Proof.Machine.execPdAck d s
  | .drainBoundExpiry d => Sys2Proof.Machine.execDrainBoundExpiry d s
  | .pdReqRelease d => Sys2Proof.Machine.execPdReqRelease d s
  | .trnDone port => Sys2Proof.Machine.execTrnDone port s
  | .rxLockLoss port => Sys2Proof.Machine.execRxLockLoss port s
  | .retrain port => Sys2Proof.Machine.execRetrain port s
  | .fecUncorr port lane => Sys2Proof.Machine.execFecUncorr port lane s
  | .trainingTimeout port => Sys2Proof.Machine.execTrainingTimeout port s
  | .fencedPortRetry port => Sys2Proof.Machine.execFencedPortRetry port s
  | .capabilityResend port => Sys2Proof.Machine.execCapabilityResend port s
  | .idMismatchRepeat port => Sys2Proof.Machine.execIdMismatchRepeat port s
  | .flitGroup port group => Sys2Proof.Machine.execFlitGroup port group s
  | .linkEgressGroup port => Sys2Proof.Machine.execLinkEgressGroup port s
  | .linkBlockIdleClose port => Sys2Proof.Machine.execLinkBlockIdleClose port s
  | .write port => Sys2Proof.Machine.execWrite port s
  | .read port => Sys2Proof.Machine.execRead port s
  | .rdata port => Sys2Proof.Machine.execRdata port s
  | .ack port => Sys2Proof.Machine.execAck port s
  | .redAddmod port => Sys2Proof.Machine.execRedAddmod port s
  | .redFp32 port => Sys2Proof.Machine.execRedFp32 port s
  | .redBf16 port => Sys2Proof.Machine.execRedBf16 port s
  | .redMax port => Sys2Proof.Machine.execRedMax port s
  | .redMin port => Sys2Proof.Machine.execRedMin port s
  | .fadd port => Sys2Proof.Machine.execFadd port s
  | .swatch port => Sys2Proof.Machine.execSwatch port s
  | .keepalive port => Sys2Proof.Machine.execKeepalive port s
  | .keepaliveSend port => Sys2Proof.Machine.execKeepaliveSend port s
  | .keepaliveLoss port => Sys2Proof.Machine.execKeepaliveLoss port s
  | .capability port => Sys2Proof.Machine.execCapability port s
  | .sessionInit port => Sys2Proof.Machine.execSessionInit port s
  | .sessionResp port => Sys2Proof.Machine.execSessionResp port s
  | .sessionFin port => Sys2Proof.Machine.execSessionFin port s
  | .sessionTimeout port => Sys2Proof.Machine.execSessionTimeout port s
  | .sessionRetry port => Sys2Proof.Machine.execSessionRetry port s
  | .slip port => Sys2Proof.Machine.execSlip port s
  | .slipQuantum group => Sys2Proof.Machine.execSlipQuantum group s
  | .abort port => Sys2Proof.Machine.execAbort port s
  | .command port => Sys2Proof.Machine.execCommand port s
  | .completion port => Sys2Proof.Machine.execCompletion port s
  | .linkTimeout port rix => Sys2Proof.Machine.execLinkTimeout port rix s
  | .collectiveTimeout ctx => Sys2Proof.Machine.execCollectiveTimeout ctx s
  | .creditStall port vc dl => Sys2Proof.Machine.execCreditStall port vc dl s
  | .registerWrite addr w => Sys2Proof.Machine.execRegisterWrite addr w s
  | .submissionTail addr w => Sys2Proof.Machine.execSubmissionTail addr w s
  | .completionHead addr w => Sys2Proof.Machine.execCompletionHead addr w s
  | .hostcfg w => Sys2Proof.Machine.execHostcfg w s
  | .fltStatus w => Sys2Proof.Machine.execFltStatus w s
  | .otpPgo w => Sys2Proof.Machine.execOtpPgo w s
  | .otpProgramDone readbackOk => Sys2Proof.Machine.execOtpProgramDone readbackOk s
  | .targetP0 w => Sys2Proof.Machine.execTargetP0 w s
  | .targetP1 w => Sys2Proof.Machine.execTargetP1 w s
  | .targetP2 w => Sys2Proof.Machine.execTargetP2 w s
  | .targetP3 w => Sys2Proof.Machine.execTargetP3 w s
  | .powerStateEntry => Sys2Proof.Machine.execPowerStateEntry s
  | .powerTransitionDone => Sys2Proof.Machine.execPowerTransitionDone s
  | .close w => Sys2Proof.Machine.execClose w s
  | .debugUnlockExpiry => Sys2Proof.Machine.execDebugUnlockExpiry s
  | .dbgPcmdRead w => Sys2Proof.Machine.execDbgPcmdRead w s
  | .dbgPcmdWrite w => Sys2Proof.Machine.execDbgPcmdWrite w s
  | .dbgAtlHalt w => Sys2Proof.Machine.execDbgAtlHalt w s
  | .nop src => Sys2Proof.Machine.execNop src s
  | .sqCreate src => Sys2Proof.Machine.execSqCreate src s
  | .sqDestroy src => Sys2Proof.Machine.execSqDestroy src s
  | .cqCreate src => Sys2Proof.Machine.execCqCreate src s
  | .cqDestroy src => Sys2Proof.Machine.execCqDestroy src s
  | .trackerAlloc src => Sys2Proof.Machine.execTrackerAlloc src s
  | .trackerFree src => Sys2Proof.Machine.execTrackerFree src s
  | .canvasCreate src => Sys2Proof.Machine.execCanvasCreate src s
  | .canvasDestroy src => Sys2Proof.Machine.execCanvasDestroy src s
  | .programSubmit src => Sys2Proof.Machine.execProgramSubmit src s
  | .chainSubmit src => Sys2Proof.Machine.execChainSubmit src s
  | .contextResume src => Sys2Proof.Machine.execContextResume src s
  | .contextAbort src => Sys2Proof.Machine.execContextAbort src s
  | .contextInspect src => Sys2Proof.Machine.execContextInspect src s
  | .poolAlloc src => Sys2Proof.Machine.execPoolAlloc src s
  | .poolFree src => Sys2Proof.Machine.execPoolFree src s
  | .instanceCreate src => Sys2Proof.Machine.execInstanceCreate src s
  | .instanceReset src => Sys2Proof.Machine.execInstanceReset src s
  | .instanceDestroy src => Sys2Proof.Machine.execInstanceDestroy src s
  | .setupUpdate src => Sys2Proof.Machine.execSetupUpdate src s
  | .telemetryRead src => Sys2Proof.Machine.execTelemetryRead src s
  | .logConfigure src => Sys2Proof.Machine.execLogConfigure src s
  | .streamOpen src => Sys2Proof.Machine.execStreamOpen src s
  | .streamClose src => Sys2Proof.Machine.execStreamClose src s
  | .selftest src found => Sys2Proof.Machine.execSelftest src found s
  | .attest src => Sys2Proof.Machine.execAttest src s
  | .keyGenerate src => Sys2Proof.Machine.execKeyGenerate src s
  | .keyImport src => Sys2Proof.Machine.execKeyImport src s
  | .keyDestroy src => Sys2Proof.Machine.execKeyDestroy src s
  | .random src => Sys2Proof.Machine.execRandom src s
  | .identCertLoad src => Sys2Proof.Machine.execIdentCertLoad src s
  | .zeroise src => Sys2Proof.Machine.execZeroise src s
  | .lifecycleAdvance src => Sys2Proof.Machine.execLifecycleAdvance src s
  | .fwVersionRaise src => Sys2Proof.Machine.execFwVersionRaise src s
  | .debugUnlock src => Sys2Proof.Machine.execDebugUnlock src s
  | .status src => Sys2Proof.Machine.execStatus src s
  | .move ctx => Sys2Proof.Machine.execMove ctx s
  | .gather ctx => Sys2Proof.Machine.execGather ctx s
  | .scatter ctx => Sys2Proof.Machine.execScatter ctx s
  | .maskmove ctx => Sys2Proof.Machine.execMaskmove ctx s
  | .expand ctx => Sys2Proof.Machine.execExpand ctx s
  | .automorph ctx => Sys2Proof.Machine.execAutomorph ctx s
  | .rnscast ctx => Sys2Proof.Machine.execRnscast ctx s
  | .reduce ctx => Sys2Proof.Machine.execReduce ctx s
  | .corner ctx => Sys2Proof.Machine.execCorner ctx s
  | .loop ctx => Sys2Proof.Machine.execLoop ctx s
  | .endloop ctx => Sys2Proof.Machine.execEndloop ctx s
  | .waitFlag ctx => Sys2Proof.Machine.execWaitFlag ctx s
  | .waitRequestLine ctx => Sys2Proof.Machine.execWaitRequestLine ctx s
  | .waitQueueLevel ctx => Sys2Proof.Machine.execWaitQueueLevel ctx s
  | .waitSatisfied ctx => Sys2Proof.Machine.execWaitSatisfied ctx s
  | .flagPoll ctx => Sys2Proof.Machine.execFlagPoll ctx s
  | .waitTimeout ctx => Sys2Proof.Machine.execWaitTimeout ctx s
  | .signalFlag ctx => Sys2Proof.Machine.execSignalFlag ctx s
  | .signalTracker ctx => Sys2Proof.Machine.execSignalTracker ctx s
  | .signalShift ctx => Sys2Proof.Machine.execSignalShift ctx s
  | .fence ctx => Sys2Proof.Machine.execFence ctx s
  | .fenceComplete ctx => Sys2Proof.Machine.execFenceComplete ctx s
  | .flush ctx => Sys2Proof.Machine.execFlush ctx s
  | .pred ctx => Sys2Proof.Machine.execPred ctx s
  | .chain ctx => Sys2Proof.Machine.execChain ctx s
  | .endProgram ctx => Sys2Proof.Machine.execEndProgram ctx s
  | .drainComplete ctx => Sys2Proof.Machine.execDrainComplete ctx s
  | .unitAdmission quadrant => Sys2Proof.Machine.execUnitAdmission quadrant s
  | .burstGrant point => Sys2Proof.Machine.execBurstGrant point s
  | .walkComplete walk => Sys2Proof.Machine.execWalkComplete walk s
  | .ringSlotHandover ctx => Sys2Proof.Machine.execRingSlotHandover ctx s
  | .unitCommit ctx seq unit => Sys2Proof.Machine.execUnitCommit ctx seq unit s
  | .halt ctx => Sys2Proof.Machine.execHalt ctx s
  | .windowBoundary island => Sys2Proof.Machine.execWindowBoundary island s
  | .tamperEvent t => Sys2Proof.Machine.execTamperEvent t s
  | .detectorWarning w => Sys2Proof.Machine.execDetectorWarning w s
  | .islandClockLoss island => Sys2Proof.Machine.execIslandClockLoss island s
  | .obsSel v => Sys2Proof.Machine.execObsSel v s
  | .detection d => Sys2Proof.Machine.execDetection d s
  | .quietTimer kind idx => Sys2Proof.Machine.execQuietTimer kind idx s
  | .fltNHoldExpiry => Sys2Proof.Machine.execFltNHoldExpiry s
  | .recordWrite ringOk => Sys2Proof.Machine.execRecordWrite ringOk s
  | .crossCheck c => Sys2Proof.Machine.execCrossCheck c s
  | .crossCheckTimeout quadrant => Sys2Proof.Machine.execCrossCheckTimeout quadrant s
  | .scrub region word found => Sys2Proof.Machine.execScrub region word found s
  | .probe receiver step endStop => Sys2Proof.Machine.execProbe receiver step endStop s
  | .drbgReseed => Sys2Proof.Machine.execDrbgReseed s
  | .healthTestFailure => Sys2Proof.Machine.execHealthTestFailure s
  | .lvAliveToggle port => Sys2Proof.Machine.execLvAliveToggle port s
  | .openWriteBoundExpiry w => Sys2Proof.Machine.execOpenWriteBoundExpiry w s
  | .portNotReadyTimeout ctx => Sys2Proof.Machine.execPortNotReadyTimeout ctx s

end Sys2Proof.Machine
end

