-- ==== Sys2Proof/Machine/Step.lean ====
section
/-! DEFINITION. One step: the command at the front of the queue, or one cycle of the always-on clock. -/

namespace Sys2Proof.Machine

/-- The state with the queue's rest and one command less. -/
def State.withPending (s : State) (l : List Instr) : State := { s with pending := l }

/-- An empty queue lets one AO cycle pass (R432). (DESIGN CHOICE, log 6) -/
def idle (s : State) : State := tick s

/-- Takes the command at the front of the queue and runs it with the queue's rest. (DESIGN CHOICE, log 1, 6, 88) -/
def step (s : State) : Host.Outcome State Fault Refusal :=
  match s.pending with
  | [] => .next (idle s)
  | c :: rest => exec c (s.withPending rest)

/-- The state with the command a table word spells put in front; unchanged, as no word spells one. (DESIGN CHOICE, log 7) -/
def State.withFetchWord (s : State) (nbits w : Nat) : State :=
  match decodeTableWord nbits w with
  | some c => s.withPending (c :: s.pending)
  | none => s

end Sys2Proof.Machine
end

