-- ==== Sys2Proof/Machine/Outputs.lean ====
section
/-! DEFINITION. What the outside reads without a row of the table: the read data of the control port (R52, R54, R92, R382,
R416, R430-R435, R440, R442, R446, R448, R460) and the observation gate (R62, R461, R462). A read changes no state. -/

namespace Sys2Proof.Machine

/-! ### Fields of the read-only registers -/

/-- A number as a 64-bit register. -/
def word64 (n : Nat) : Word64 := BitVec.ofNat 64 n

/-- GSTATUS (R433). -/
def gstatus (ao : AO) (b : Block) : Word64 :=
  word64 (b.boot.stage % 16 + lifeCycle ao * 2 ^ 8 + b2n ao.zeroised * 2 ^ 16 + b2n b.sec.cert.isSome * 2 ^ 17 +
    b2n ao.viol * 2 ^ 18 + b2n (windowOpen ao b false) * 2 ^ 19 + b2n b.boot.warm * 2 ^ 20)

/-- A record in OTP_STATUS: active generation + 1, and frozen (R440). -/
def otpCoded (ao : AO) (code : Nat) : Nat :=
  (match otpActive ao code with | some g => g + 1 | none => 0) + 8 * b2n (otpFrozen ao.inUse code)

/-- OTP_STATUS: what the last start sensed (R440). -/
def otpStatus (ao : AO) : Word64 :=
  word64 ((List.range 6).foldl (fun n i => n + otpCoded ao (5 + i) * 2 ^ (4 * i)) 0 +
    b2n (otpProgrammed ao.inUse 13 9) * 2 ^ 24 + b2n (seedIn ao ao.inUse).isSome * 2 ^ 25 + b2n (!ao.badWords.isEmpty) * 2 ^ 26)

/-- SETUP_INFO (R432). -/
def setupInfo (b : Block) : Word64 :=
  word64 ((if b.boot.active.isSome then b.boot.seq else 0) + b2n b.boot.slotA * 2 ^ 32 + b2n b.boot.slotB * 2 ^ 33 +
    b2n b.boot.active.isSome * 2 ^ 34 + b.boot.active.getD 0 * 2 ^ 35)

/-- FLT_OUT: mirrors of the fault outputs (R60, R432). -/
def fltOut (b : Block) : Word64 := word64 (b.islands.safe.toNat + fltSev b * 2 ^ 40 + b2n (fltN b) * 2 ^ 43)

/-- PSTATE (R451). -/
def pstate (b : Block) : Word64 :=
  word64 (b.power.state + b2n b.power.busy.isSome * 4 + b2n b.power.pending.isSome * 8 + b2n b.power.auto * 16)

/-- OTP_PSTAT (R442). -/
def otpPstat (b : Block) : Word64 :=
  let r := b.regs
  word64 (b2n r.otpBusy + b2n r.otpDone * 2 + b2n r.otpFail * 4 + r.otpGen % 4 * 16 + r.otpCode % 65536 * 2 ^ 16)

/-- DBG_ARB of a context: its counter and mark at its quadrant's arbiter, whether it holds a lock on either path, and its
state (R448). (DEDUCED, log 90) -/
def dbgArb (b : Block) (c : Nat) : Word64 :=
  let q := quadOfCtx c
  let e := (b.arbAt (arbCtx q)).reqs.get {} c
  let mine := [false, true].any fun w => match (b.arbAt (arbPath q w)).lock with | some (o, _) => o == c | none => false
  word64 ((e.ctr % 65536).toNat + b2n e.marked * 2 ^ 16 + b2n mine * 2 ^ 17 + stateCode (b.ctx c).st * 2 ^ 24)

/-- DBG_CHB of a channel (R363, R448). -/
def dbgChb (b : Block) (n : Nat) : Word64 :=
  let c := b.chan n
  word64 (c.budget % 4096 + c.used % 4096 * 2 ^ 12 + c.tokR % 4096 * 2 ^ 24 + c.tokW % 4096 * 2 ^ 36 + c.tokX % 4096 * 2 ^ 48)

/-- DBG_XING of a receiver; reserved indices read 0 (R460). -/
def dbgXing (b : Block) (i : Nat) : Word64 :=
  let x := b.xing.get {} i
  if i < 148 then word64 (x.tap % 256 + x.ivl % 16 * 2 ^ 8 + x.probes % 256 * 2 ^ 16 + b2n x.stop * 2 ^ 24) else 0

/-! ### The register map as it reads -/

/-- The global range (R432). -/
def readGlobal (ao : AO) (b : Block) (a : Nat) : Word64 :=
  match a / 8 with
  | 0x0 => 0x0000010000244B4C
  | 0x1 => gstatus ao b
  | 0x2 => word64 ao.secEvents
  | 0x3 => ao.violInfo
  | 0x4 => word64 (b.boot.fwVersion + otpCount ao 9 4 * 2 ^ 32)
  | 0x5 => setupInfo b
  | 0x6 => word64 (if b.boot.active.isSome then b.setup.chipId else 0xFFFF)
  | 0x7 => otpStatus ao
  | 0x8 => b.regs.hostcfg
  | 0x9 => word64 (otpCount ao 1 8)
  | 0xA => b.flt.status
  | 0xB => b.flt.mask
  | 0xC => fltOut b
  | 0xD => ao.aotime
  | 0xE => b.power.ctl
  | 0xF => pstate b
  | _ => 0

/-- The OTP programming registers (R442); OTP_PGO is write-only. -/
def readOtp (b : Block) (a : Nat) : Word64 :=
  if a = 0x100 then b.regs.otpPrec
  else if a = 0x110 then otpPstat b
  else if 0x200 ≤ a then word64 (b.regs.otpBuf.get 0 ((a - 0x200) / 8))
  else 0

/-- A mailbox's registers (R92); GO is write-only. -/
def readMbox (b : Block) (m o : Nat) : Word64 :=
  let x := b.mbox m
  if o < 0x40 then word64 (fieldAt x.cmd o 8)
  else if o < 0x60 then word64 (fieldAt x.cpl (o - 0x40) 8)
  else if o = 0x68 then word64 (b2n x.busy + 2 * b2n x.done)
  else 0

/-- The privileged mailbox with its token area (R92, R382). -/
def readPriv (b : Block) (o : Nat) : Word64 :=
  if o < 0x100 then readMbox b 256 o
  else if o < 0x120 then word64 (fieldAt b.sec.nonce (o - 0x100) 8)
  else if o = 0x120 then b.rin.tokPa
  else if o = 0x128 then b.rin.tokLen
  else 0

/-- The debug window (R448); CLOSE and DBG_PCMD are write-only. -/
def readDebug (ao : AO) (b : Block) (o : Nat) : Word64 :=
  if o = 0 then word64 (2 * b2n (windowOpen ao b false) + dbgRemain ao b * 2 ^ 32)
  else if 0x100 ≤ o ∧ o < 0x900 then dbgArb b ((o - 0x100) / 8)
  else if 0x1000 ≤ o ∧ o < 0x10C0 then dbgChb b ((o - 0x1000) / 8)
  else if 0x2000 ≤ o ∧ o < 0x2600 then dbgXing b ((o - 0x2000) / 8)
  else if o = 0x8000 then b.regs.dbgPaddr
  else if 0x8040 ≤ o ∧ o < 0x8080 then word64 (b.regs.dbgPdata.get 0 ((o - 0x8040) / 8))
  else if o = 0x8100 then word64 (3 * b2n b.regs.atlHalt)
  else 0

/-- Where the port serves less, a read of anything but the global range meets a closed port (R73, R399, R414, R448, R454). -/
def readClosed (b : Block) (a vi : Nat) : Bool :=
  let global := decide (a < globalEnd)
  if b.boot.stage = 0xF || b.boot.resetChip then !global
  else if errorState b then !(global || (inPriv a && decide (a < 0x1100) && vi == 0))
  else if b.power.state = 3 then !global
  else b.regs.atlHalt && !(global || inDebug a)

/-- Whether a read is refused (R54, R430, R431, R446): a doorbell read takes in both doorbells of its 8 bytes, an instance under
reset has no mailbox (R115). (DEDUCED, log 91) -/
def readCheck (ao : AO) (b : Block) (a vi : Nat) : Option Status :=
  if readClosed b a vi then some .domainOff
  else if inMbox a && (a - 0x40000) / 256 ≠ vi then some .permission
  else if inBell a && !(bellOwned b vi ((a - 0x10000) / 4) && bellOwned b vi ((a - 0x10000) / 4 + 1)) then some .permission
  else if (inPriv a || inOtp a || inDebug a) && vi ≠ 0 then some .permission
  else if inDebug a && !windowOpen ao b (decide (0x88000 ≤ a)) then some .permission
  else if (inMbox a || inBell a) && (b.vinst vi).stage ≠ 0 then some .instanceReset
  else none

/-- A read of the control port at an 8-byte aligned offset: its data, or the status that refuses it. A doorbell (R95) and an
offset not listed read 0 (R8, R430). (DEDUCED, log 91) -/
def portRead (ao : AO) (b : Block) (a vi : Nat) : Except Status Word64 :=
  match readCheck ao b a vi with
  | some st => .error st
  | none => .ok
    (if a < globalEnd then readGlobal ao b a
     else if inOtp a then readOtp b a
     else if inPriv a then readPriv b (a - 0x1000)
     else if inMbox a then readMbox b ((a - 0x40000) / 256) (a % 256)
     else if inDebug a then readDebug ao b (a - 0x80000)
     else 0)

/-! ### The observation bus (R62, R461, R462) -/

/-- Groups with SSP-bearing or raw entropy signals. -/
def obsSecret (g : Nat) : Bool := decide (44 ≤ g) && decide (g ≤ 49)

/-- Whether the life-cycle gate lets a group through; a group that is not open carries 0. (DESIGN CHOICE, log 89) -/
def obsOpen (ao : AO) (b : Block) (g : Nat) : Bool :=
  if g = 1 then b.flt.traceOn && lifeCycle ao != 5
  else decide (2 ≤ g) && decide (g ≤ 49) &&
    match lifeCycle ao with
    | 0 => true
    | 1 => true
    | 3 => b.regs.dbgUnlocked && hasBit b.regs.dbgMask g && !obsSecret g
    | 4 => true
    | _ => false

/-- The trace words of the last record, in the order obs carries them while group 1 is selected and open (R427).
(DESIGN CHOICE, log 89) -/
def obsTrace (ao : AO) (b : Block) : List Nat :=
  if b.obsSel = 1 && obsOpen ao b 1 then (List.range 8).map fun i => fieldAt b.flt.trace (4 * i) 4 else []

/-- The 32 bits of obs at the `k`-th sample after the last record's first word (R60, R62): the trace words, then 0; a free value
for the other groups while they are open; 0 for a group that is not. (DESIGN CHOICE, log 89) -/
def obs (ao : AO) (b : Block) (k : Nat) : BitVec 32 :=
  if b.obsSel = 1 then BitVec.ofNat 32 ((obsTrace ao b).getD k 0)
  else if obsOpen ao b b.obsSel then Config.obsBits b.obsSel (b.free + k)
  else 0

end Sys2Proof.Machine
end

