-- ==== Sys2Proof/Machine/Sparse.lean ====
section
/-! DEFINITION. Sparse collective payloads (R257, R258): the form a sender's program writes, the receiver's check, and what
combining two payloads gives. No row calls these: the writes of a payload are COLL writes like any other, and the receiving
program combines them (R347). (DEDUCED, log 92) -/

namespace Sys2Proof.Machine

/-- A sparse payload: log2 of the block extents, number of blocks, element type, and the occupied blocks by rising bit number,
each with the codes of its elements. -/
structure Sparse where
  lb : List Nat
  nbits : Nat
  type : Nat
  blocks : Tab (List Nat)
  deriving DecidableEq, Repr

/-- Pads bytes with zeros to a multiple of 256. -/
def padTo256 (d : Bytes) : Bytes := d ++ List.replicate (ceilDiv d.length 256 * 256 - d.length) 0

/-- Element codes packed one after the other, the first in the lowest nibbles. -/
def packCodes (nibs : Nat) (cs : List Nat) : Bytes :=
  natLe (ceilDiv (nibs * cs.length) 2) (cs.foldr (fun c a => c + a * 2 ^ (4 * nibs)) 0)

/-- Bit word `w` of a payload's record. -/
def Sparse.word (s : Sparse) (w : Nat) : Nat :=
  s.blocks.foldl (fun a e => if e.1 / 64 = w then a + 2 ^ (e.1 % 64) else a) 0

/-- The bitmap record: mode PACK, fill 0, the extents, the bits; padded. -/
def Sparse.record (s : Sparse) : Bytes :=
  padTo256 (natLe 8 (1 + (List.range 5).foldl (fun a d => a + s.lb.getD d 0 * 2 ^ (8 + 4 * d)) 0) ++ natLe 8 s.nbits ++
    natLe 16 0 ++ (List.range (ceilDiv s.nbits 64)).flatMap fun w => natLe 8 (s.word w))

/-- The payload: the record, then the occupied blocks. -/
def Sparse.payload (s : Sparse) : Bytes :=
  s.record ++ padTo256 (packCodes (nibsOf s.type) (s.blocks.flatMap (·.2)))

/-- The receiver's check of a payload for a box of elements of a type. -/
def payloadCheck (ty : Nat) (box : List Nat) (d : Bytes) : Option Status :=
  match headerOf (chunksLe 8 4 d) with
  | .error _ => some .bounds
  | .ok m =>
    let n := ceilDiv m.nbits 64
    let m := { m with words := chunksLe 8 n (d.drop 32) }
    let area := ceilDiv (m.below m.nbits * m.blockSize * nibsOf ty) 2
    if m.mode ≠ 1 || m.nbits ≠ (blocksOf m box).foldl (· * ·) 1 ||
        d.length ≠ ceilDiv (32 + 8 * n) 256 * 256 + ceilDiv area 256 * 256 then some .bounds
    else none

/-- Two payloads combined: the union of their bitmaps; a block of one alone passes unchanged, one of both is combined element
by element in the collective's mode, an element's modulus being `q` of its block and place. -/
def Sparse.merge (mode : Nat) (q : Nat → Nat → Nat) (s t : Sparse) : Sparse :=
  { s with blocks := t.blocks.foldl (fun l e =>
      match l.find? fun x => x.1 == e.1 with
      | none => Tab.insert l e.1 e.2
      | some x => Tab.insert l e.1 ((List.range x.2.length).map fun i =>
          combine mode s.type (x.2.getD i 0) (e.2.getD i 0) (q e.1 i))) s.blocks }

end Sys2Proof.Machine
end

