-- ==== Sys2Proof/Safety.lean ====
section
/-! DEFINITION. What claims speak of: a command's next state, the invariants, and a Rinlin command taken from its source. -/

namespace Sys2Proof.Machine

/-- The state after a command whose meaning leaves the block part as `b`: its control events have reached AO (R15), the
waiting commands are untouched. -/
def State.after (s : State) (b : Block) : State := { s with ao := b.ev.foldl AO.apply s.ao, b := { b with ev := [] } }

/-- A run is safe while no command is answered by a stop. -/
def Answers (o : Host.Outcome State Fault Refusal) : Prop := ∃ t, o = .next t

/-- Once programmed, an OTP bit stays programmed (R436). -/
def FusesKept (s t : State) : Prop := ∀ i, s.ao.fuses.contains i = true → t.ao.fuses.contains i = true

/-- Every OTP bit that sensing shows is a programmed one. -/
def ShadowTrue (s : State) : Prop := ∀ i, s.ao.shadow.contains i = true → s.ao.fuses.contains i = true

/-- The first violation stays as it was reported (R434). -/
def ViolationKept (s t : State) : Prop := s.ao.viol = true → t.ao.viol = true ∧ t.ao.violInfo = s.ao.violInfo

/-- COLD_START, which alone clears what rst_ao_n clears. -/
def isCold : Instr → Bool
  | .coldStart _ => true
  | _ => false

/-- A start. -/
def isStart : Instr → Bool
  | .coldStart _ => true
  | .warmStart _ => true
  | _ => false

/-- The block after the check of a token of type `ty`: its record is read, the nonce of R382 drawn again.
(DEDUCED, log 42) -/
def newNonce (b : Block) (ty : Nat) : Block :=
  let d := drbg (notePa b b.rin.tokPa.toNat (if ty = 1 then 4755 else 7347)) 32
  { d.2 with sec := { d.2.sec with nonce := d.1 } }

/-- A context goes on to its next instruction: what was read for the last one is of no more use, and it fetches on (R145). -/
def goOn (b : Block) (c : Nat) : Block := startFetch (recForget b c) c

/-- A context begins to halt with a status (R176). -/
def haltNow (b : Block) (c : Nat) (st : Status) : Block := haltBegin (recForget b c) c st 0

/-- The Rinlin rows whose checks come in the plain order of R104: constructor, opcode, and the first failing check of a
command by its issuer, target and operands (R103, R381). -/
def rowChecks (ao : AO) (b : Block) (c : Bytes) (r : Reply) : List ((CmdSrc → Instr) × Nat × Option Status) :=
  let t := cmdTarget c
  let serves := fun (k : Option Status) => if inService ao then k else some Status.permission
  [(.sqCreate, 0x10, check0 b c r .any [(16, 27)] (fieldAt c 16 8 % 4096 == 0 && decide (4 ≤ fieldAt c 24 1) &&
     decide (fieldAt c 24 1 ≤ 16) && decide (fieldAt c 25 1 ≤ 1))),
   (.sqDestroy, 0x11, check b c r .any (sqTarget b r.vi t) 0 [] true),
   (.cqCreate, 0x12, check0 b c r .any [(16, 26)] (fieldAt c 16 8 % 4096 == 0 && decide (4 ≤ fieldAt c 24 1) &&
     decide (fieldAt c 24 1 ≤ 16) && decide (fieldAt c 25 1 ≤ 1) && decide (fieldAt c 26 1 ≤ 63))),
   (.cqDestroy, 0x13, check b c r .any (cqTarget b r.vi t) 0 [] true),
   (.trackerAlloc, 0x14, check0 b c r .any [(16, 27)] (fieldAt c 16 8 % 8 == 0 && decide (1 ≤ fieldAt c 24 4) &&
     decide (fieldAt c 24 4 ≤ 65536))),
   (.trackerFree, 0x15, if trackerRows b r.vi t (fieldAt c 16 4) = none ∨ cmdGen c ≠ (b.vinst r.vi).gen then
     check b c r .any (trackerRows b r.vi t (fieldAt c 16 4)) 0 [(16, 19)] true else none),
   (.canvasCreate, 0x20, check0 b c r .any [(16, 23)] (fieldAt c 16 8 % 8 == 0)),
   (.canvasDestroy, 0x21, check b c r .any (handleTarget b r.vi t) 0 [] true),
   (.programSubmit, 0x30, check0 b c r .any [(16, 26)] (fieldAt c 16 8 % 32 == 0 && decide (1 ≤ fieldAt c 24 1) &&
     decide (fieldAt c 25 1 < 32) && (decide (fieldAt c 26 1 ≤ 3) || fieldAt c 26 1 == 0xFF))),
   (.chainSubmit, 0x31, check0 b c r .any [(16, 24)] (decide (2 ≤ fieldAt c 24 1) && decide (fieldAt c 24 1 ≤ 8))),
   (.contextResume, 0x32, check b c r .any (ctxTarget b r.vi t) (b.ctx t).epoch [] ((b.ctx t).st == .halted)),
   (.contextAbort, 0x33, check b c r .any (ctxTarget b r.vi t) (b.ctx t).epoch [] true),
   (.contextInspect, 0x34, check b c r .any (ctxTarget b r.vi t) (b.ctx t).epoch [(16, 23)] true),
   (.poolAlloc, 0x40, check0 b c r .any [(16, 19)] (decide (1 ≤ fieldAt c 16 2) &&
     (decide (fieldAt c 18 1 ≤ 4) || fieldAt c 18 1 == 0xFF) && decide (fieldAt c 19 1 ≤ 2))),
   (.poolFree, 0x41, if poolRows b r.vi (t % 2 ^ 32) = none ∨ cmdGen c ≠ (b.vinst r.vi).gen then
     check b c r .any (poolRows b r.vi (t % 2 ^ 32)) (if (b.pslot (t % 65536)).use = 2 then (b.pslot (t % 65536)).epoch else 0) []
       (decide (t < 2 ^ 32)) else none),
   (.instanceCreate, 0x50, serves (check b c r .vi0 (if t = 0 || (b.vinst t).live then some .badHandle else none) 0
     [(16, 16), (24, 31)] (decide (t < 256) && decide (fieldAt c 16 1 < b.setup.templates.length) &&
       fieldAt c 24 8 % 2048 == 0 && bitsOf (fieldAt c 24 8) 63 48 == 0xFFFF))),
   (.instanceReset, 0x51, check b c r .vi0 (viTarget b t) 0 [] true),
   (.instanceDestroy, 0x52, check b c r .vi0 (viTarget b t) 0 [] true),
   (.telemetryRead, 0x70, check0 b c r .any [(16, 17), (24, 31)] true),
   (.logConfigure, 0x71, check0 b c r .vi0 [(16, 24)] (decide (fieldAt c 24 1 < 4) &&
     (!bitOf (fieldAt c 24 1) 0 || (fieldAt c 16 8 % 32 == 0 && (localPa b (fieldAt c 16 8)).isSome)))),
   (.streamOpen, 0x80, check0 b c r .any [(16, 17), (24, 31)] (decide (fieldAt c 16 1 < 8) && decide (fieldAt c 17 1 ≤ 1))),
   (.streamClose, 0x81, check b c r .any (streamTarget b r.vi t) 0 [] true),
   (fun src => .selftest src { passed := true, badCores := [] }, 0x90, check0 b c r .vi0 [] true),
   (.attest, 0x91, serves (check0 b c r .any [(16, 55)] true)),
   (.keyGenerate, 0x92, check0 b c r .tenant [] true),
   (.keyImport, 0x93, check0 b c r .tenant [(16, 23)] true),
   (.keyDestroy, 0x94, check b c r .tenant (keyTarget b r.vi t) 0 [] true),
   (.random, 0x95, check0 b c r .any [(16, 25)] (decide (1 ≤ fieldAt c 24 2) && decide (fieldAt c 24 2 ≤ 4096))),
   (.identCertLoad, 0x96, check0 b c r .vi0 [(16, 23)] true),
   (.status, 0x9B, check0 b c r .any [] true)]

end Sys2Proof.Machine
end

