-- ==== Sys2Proof/Certificates/Slice0/Obligations.lean ====
section
/-! DEFINITION. The statements for the provers. Each says of a command, or of every state, what the cited rules say; where
a clause rests on a choice of the model its docstring names the log entry. -/

open Sys2Proof Sys2Proof.Machine

/-! ### The machine as a whole -/

/-- A step takes the command at the front of the queue and runs it with the queue's rest (the block's own form of one
step; spec/95_what_each_step_holds.md: a row is one whole step). -/
def Obligations.StepRunsFront : Prop :=
  ∀ (c : Instr) (s : State), step (s.withPending (c :: s.pending)) = exec c s

/-- With no command waiting a step is one cycle of the always-on clock: AOTIME counts (R432), the count bit a tamper event owes
is programmed (R405) and each fall of pd_req that waits is answered (R376); where neither is due nothing else changes.
That an idle step is one such cycle, and that these two happen in it, is the model's choice (log entries 6 and 75).
Every command is answered by a next state: the block has no fault and no refusal; what it turns away it answers with
a status (R54, R104, R117).
No command touches the queue of waiting commands, and no control event is left between commands: each has reached the AO
island when its command ends (R15). -/
def Obligations.StepAndQueue : Prop :=
  (∀ s : State, s.pending = [] →
     step s = .next (takeEvents { s with ao := { s.ao.countTamper with aotime := s.ao.aotime + 1 }, b := answerFalls s.b }) ∧
     (s.ao.countDue = false → (∀ e ∈ s.b.pd, e.2.ack = true → e.2.req = true) → s.b.ev = [] →
       step s = .next { s with ao := { s.ao with aotime := s.ao.aotime + 1 } })) ∧
  (∀ (a : AO) (i : Nat), a.countDue = true → otpLowest a.fuses 1 8 = some i →
     a.countTamper.countDue = false ∧ a.countTamper.fuses.contains i = true) ∧
  (∀ (c : Instr) (s : State), Answers (exec c s)) ∧
  (∀ (c : Instr) (s t : State), exec c s = .next t → t.pending = s.pending ∧ (s.b.ev = [] → t.b.ev = []))

/-- Before its first start the block is in reset: no island runs, the boot stage is 1, no channel, link, queue, context or
canvas exists, no fault is latched, nothing waits.
The invariant of ShadowShowsFuses holds at reset. -/
def Obligations.ResetState : Prop :=
  (State.reset.pending = [] ∧ State.reset.ao.on = false ∧ State.reset.ao.viol = false ∧
   (∀ i, State.reset.b.islands.out.get false i = false) ∧ State.reset.b.boot.stage = 1 ∧
   (∀ n, (State.reset.b.chan n).service = .reset ∧ (State.reset.b.chan n).rcred = 0 ∧ (State.reset.b.chan n).wcred = 0) ∧
   (∀ p, (State.reset.b.link p).phase = .reset) ∧ (∀ c, (State.reset.b.ctx c).st = .free) ∧
   (∀ i, (State.reset.b.sq i).live = false ∧ (State.reset.b.cq i).live = false) ∧
   (∀ n, (State.reset.b.slot n).used = false) ∧ State.reset.b.flt.status = 0 ∧ State.reset.b.flt.mask = 0 ∧
   State.reset.b.power.state = 0 ∧ Memory.wf State.reset.b.mem = true ∧ Memory.wf State.reset.b.pal.mem = true) ∧
  (ShadowTrue State.reset)

/-- R436: no step ever returns an OTP bit to 0. -/
def Obligations.FusesNeverCleared : Prop := ∀ s t : State, step s = .next t → FusesKept s t

/-- Sensing never shows a bit that is not programmed, and every step keeps that. -/
def Obligations.ShadowShowsFuses : Prop := ∀ s t : State, ShadowTrue s → step s = .next t → ShadowTrue t

/-- R434: the first refused write under a lock sets viol and loads VIOL_INFO; later ones count in SEC_EVENTS alone; only a
cold start clears them; STATUS reports viol in bit 17. -/
def Obligations.ViolationReport : Prop :=
  (∀ (s : State) (a : Nat) (w : CtlWrite) (st : Status), (st = .locked ∨ st = .writeOnce) → s.b.ev = [] →
    let t := s.after (refusePort s.b a w st)
    t.ao.viol = true ∧ t.ao.secEvents = min (s.ao.secEvents + 1) (2 ^ 32 - 1) ∧
    t.ao.violInfo = (if s.ao.viol then s.ao.violInfo
      else BitVec.ofNat 64 (a % 2 ^ 20 + w.vi % 256 * 2 ^ 20 + st.code % 65536 * 2 ^ 32))) ∧
  (∀ (c : Instr) (s t : State), exec c s = .next t → isCold c = false → ViolationKept s t) ∧
  (∀ (s t : State) (k : StartIn), exec (.coldStart k) s = .next t →
    ∃ (a : AO) (l : List AoEvent), a.viol = false ∧ a.violInfo = 0 ∧ t.ao = l.foldl AO.apply a) ∧
  (∀ (ao : AO) (b : Block) (c : Bytes) (r : Reply), check0 b c r .any [] true = none → b.boot.stage < 256 →
    ∃ res, cmdStatus ao b c r = (b, .now .ok res 0) ∧ res.testBit 17 = ao.viol)

/-- The frame of the AO island: no command but COLD_START moves AOTIME, its reset or the words it sensed badly.
Security events never go back except at a cold start (R409). -/
def Obligations.AlwaysOnFrame : Prop :=
  (∀ (c : Instr) (s t : State), exec c s = .next t → isCold c = false →
     t.ao.on = s.ao.on ∧ t.ao.aotime = s.ao.aotime ∧ t.ao.badWords = s.ao.badWords) ∧
  (∀ (c : Instr) (s t : State), exec c s = .next t → isCold c = false → s.ao.secEvents ≤ 2 ^ 32 - 1 →
     s.ao.secEvents ≤ t.ao.secEvents ∧ t.ao.secEvents ≤ 2 ^ 32 - 1)

/-! ### Memory -/

/-- What is written behind a channel or into the Palette reads back, every other byte stays, and every operation that writes
the memory or the Palette keeps its canonical form: the raw writes, a masked one, zeroing, a start's clearing and the
Atelier's writes.
An Atelier write through a trusted channel within one granule reads back as written (R295, R389), in the channel the
address steers to. -/
def Obligations.MemoryReadsBack : Prop :=
  (∀ (b : Block) (ch pa o : Nat) (d : Bytes),
     memRead (memWrite b ch pa d) ch pa d.length = d ∧
     (∀ i, (i < memKey ch pa ∨ memKey ch pa + d.length ≤ i) →
       Tab.get memDefault (memWrite b ch pa d).mem i = Tab.get memDefault b.mem i) ∧
     palRead (palPut b o d) o d.length = d ∧
     (∀ i, (i < o ∨ o + d.length ≤ i) → Tab.get memDefault (palPut b o d).pal.mem i = Tab.get memDefault b.pal.mem i)) ∧
  (∀ (b : Block) (ch pa o n : Nat) (d m : Bytes), Memory.wf b.mem = true → Memory.wf b.pal.mem = true →
     Memory.wf (memWrite b ch pa d).mem = true ∧ Memory.wf (palPut b o d).pal.mem = true ∧
     Memory.wf (palMerge b o d m).pal.mem = true ∧ Memory.wf (zeroPal b o n).pal.mem = true ∧
     (∀ cold, Memory.wf (cleared cold b).mem = true ∧ Memory.wf (cleared cold b).pal.mem = true) ∧
     (∀ ksel fuel b', localWrite b ksel fuel pa d = .ok b' → Memory.wf b'.mem = true) ∧
     (∀ fuel, Memory.wf (slotWrite fuel pa d b).1.mem = true)) ∧
  (∀ (b : Block) (ksel pa ch : Nat) (d : Bytes),
     channelOf b pa = some ch → (b.chan ch).service = .inService → untrusted b ch = false → domStatus b ch pa = none →
     badRead b ch (pa / 256) = none → 0 < d.length → pa % 256 + d.length ≤ 256 →
     ∃ b', localWrite b ksel 2 pa d = .ok b' ∧ localRead b' ksel 256 2 pa d.length = .ok d)

/-- Once the entries of a fenced channel are rewritten none of the 4,096 names it, while any channel is in service (R295). -/
def Obligations.SteeringLeavesFencedChannel : Prop :=
  ∀ (b : Block) (c h : Nat), c < 24 → h < 4096 → (∃ n ∈ inServiceChans b, n ≠ c) →
    steerOf (rewriteSteering b c) h ≠ c

/-! ### Starts and islands -/

/-- COLD_START (R64, R65): OTP is sensed, the AO state a cold start clears is cleared, every island is released, nothing of
the Palette outlives it (R2), and the steps of the start run; a programming job under way is cut short first, and a count bit
still due is programmed.
WARM_START (R64): with AO and CT out of reset the steps run again on the AO shadow, and the Palette keeps its bytes until
the march (R67); otherwise nothing happens. A start-up that a tamper event cut goes on at this row from step 2, cold where
it was cold, the fault collector as it stands (R73; that the row WARM_START stands for it is the model's choice, log
entry 32). -/
def Obligations.Starts : Prop :=
  (∀ (k : StartIn) (s : State),
     let s1 := takeEvents { s with ao := s.ao.countTamper, b := cutJob s.b }
     let bad := (k.badWords.filter (· < 1024)).eraseDups
     let ao : AO := { on := true, fuses := s1.ao.fuses, shadow := s1.ao.fuses, inUse := s1.ao.fuses, badWords := bad }
     let b := bad.foldl (fun b w => raise b 58 0 (detail := w))
       { cleared true s1.b with islands := { out := (List.range 38).map fun i => (i, true) } }
     exec (.coldStart k) s = .next (takeEvents { s1 with ao := ao, b := bootSteps 2 k ao b }) ∧
     (cleared true s1.b).pal = {} ∧ (cleared false s1.b).pal.mem = s1.b.pal.mem) ∧
  (∀ (k : StartIn) (s : State),
     (s.ao.on = true ∧ s.b.islands.out.get false 37 = true →
       let s1 := takeEvents { s with ao := s.ao.countTamper, b := cutJob s.b }
       let ao := { s1.ao with inUse := s1.ao.shadow }
       (s.b.boot.again = false → exec (.warmStart k) s =
         .next (takeEvents { s1 with ao := ao, b := bootSteps (marchMode false s.b) k ao (cleared false s1.b) })) ∧
       (s.b.boot.again = true →
         let b : Block := { cleared (!s.b.boot.warm) s1.b with flt := { s1.b.flt with units := [] } }
         exec (.warmStart k) s =
           .next (takeEvents { s1 with ao := ao, b := bootSteps (marchMode (!s.b.boot.warm) s.b) k ao b }))) ∧
     ((s.ao.on = false ∨ s.b.islands.out.get false 37 = false) → exec (.warmStart k) s = .next s))

/-- How a start's steps end (R65, R66, R73, R397, R399, R439): a ZEROISED life cycle, a failed test, a bad seed or firmware
that is not valid ends it at the stage the spec gives; while M0 does not serve it the start waits (log entry 16); with
everything good it goes on to the negotiation of step 7 with the firmware's version and the DRBG running. -/
def Obligations.BootStepsEnd : Prop :=
  ∀ (mode : Nat) (k : StartIn) (ao : AO) (b : Block),
    (lifeCycle ao = 5 → (bootSteps mode k ao b).boot.stage = 0xF) ∧
    (lifeCycle ao ≠ 5 → k.kat2 = false → (bootSteps mode k ao b).boot.stage = 0xE ∧
      (bootSteps mode k ao b).sec.keys = [] ∧ ∀ n, ((bootSteps mode k ao b).chan n).service = .reset) ∧
    (lifeCycle ao ≠ 5 → k.kat2 = true → k.health = false → (bootSteps mode k ao b).boot.stage = 0xE) ∧
    (lifeCycle ao ≠ 5 → k.kat2 = true → k.health = true → (inService ao && seedBad ao) = true →
      (bootSteps mode k ao b).boot.stage = 0xF) ∧
    (lifeCycle ao ≠ 5 → k.kat2 = true → k.health = true → (inService ao && seedBad ao) = false →
      (bootReady b = false → (bootSteps mode k ao b).boot.stage = 3 ∧ (bootSteps mode k ao b).boot.stalled = some (mode, k)) ∧
      (bootReady b = true → firmware ao b = none → (bootSteps mode k ao b).boot.stage = 0xF) ∧
      (∀ fw, bootReady b = true → firmware ao b = some fw →
        ((k.kat4 && k.pairwise) = false → (bootSteps mode k ao b).boot.stage = 0xE) ∧
        (k.kat4 = true → k.pairwise = true →
          (march mode (repairRows ao) ((k.badRows.filter fun e => decide (e.1 < 6) && decide (e.2 < rowCount e.1)).eraseDups)
            b).2 = false →
          ∃ b1, bootSteps mode k ao b = beginNegotiation b1 ∧ b1.boot.fwVersion = fw.version ∧ b1.boot.fwDigest = fw.digest ∧
            b1.sec.drbgOn = true ∧ b1.boot.destructive = false)))

/-- ISLAND_RESET (R33, R34): the island's reset line alone moves; a quadrant's release in service opens its two stream
ports, a channel's begins its negotiation and a link's its training, unless the clamp of P2 or P3, RESET_CHIP or an ordered
start holds them; a reset puts the island's interface at its reset
values: a channel's with its accesses failed, a link's, a quadrant's, and CT's, which takes the whole block along and owes
a warm start (R64); Gesso's takes its streams; with rst_ao_n low nothing is released.
READY_LOCAL (R88): once step 6 has ended and every channel is in service or fenced the block takes commands, its stream
ports open, instance 0 lives, a nonce is drawn and flt_n is released; before it the row changes nothing. -/
def Obligations.IslandsAndReadiness : Prop :=
  (∀ (s : State) (i : Nat), s.ao.on = true → i < 38 → s.b.islands.out.get false i = false → s.b.boot.stalled = none →
     let b1 : Block := { s.b with islands :=
       { s.b.islands with out := s.b.islands.out.put false i true, win := s.b.islands.win.put 0 i 0 } }
     let late := s.b.power.state ≠ 3 ∧ s.b.boot.resetChip = false ∧ s.b.boot.startPending = false
     (i < 4 → s.b.boot.stage = 8 → late → quadUp b1 i = true → exec (.islandReset i true) s = .next (s.after
       ([2 * i, 2 * i + 1].foldl (fun b p => b.setSport p { b.sport p with ready := true }) b1))) ∧
     (5 ≤ i → i < 29 → (s.b.boot.stage = 7 ∨ s.b.boot.stage = 8) → s.b.isFenced .channel (i - 5) = false →
       hasBit s.b.setup.populated (i - 5) = true → late → exec (.islandReset i true) s = .next (s.after
         (b1.setChan (i - 5) { (b1.chan (i - 5)).refill s.b.setup.pct with
           service := .offered, capO := BitVec.ofNat 64 (capWord b1 (i - 5)), capOVld := true }))) ∧
     (29 ≤ i → i < 37 → (s.b.boot.stage = 7 ∨ s.b.boot.stage = 8) → s.b.islands.safe.getLsbD i = false → late →
       exec (.islandReset i true) s = .next (s.after (startTraining b1 (i - 29)))) ∧
     (¬late ∨ s.b.boot.stage < 7 ∨ i = 4 ∨ i = 37 ∨ (i < 4 ∧ quadUp b1 i = false) →
       exec (.islandReset i true) s = .next (s.after b1))) ∧
  (∀ (s : State) (i : Nat), s.ao.on = true → i < 38 → s.b.islands.out.get false i = true →
     let b1 : Block := { s.b with islands :=
       { s.b.islands with out := s.b.islands.out.put false i false, win := s.b.islands.win.put 0 i 0 } }
     (i < 4 → exec (.islandReset i false) s = .next (s.after (resetQuad b1 i))) ∧
     (i = 4 → ∃ t, exec (.islandReset i false) s = .next t ∧ t.b.islands = b1.islands ∧
       ∀ c, ∀ e ∈ (t.b.ctx c).execs, e.streams = []) ∧
     (5 ≤ i → i < 29 →
       let b2 := b1.setChan (i - 5)
         { service := if (s.b.chan (i - 5)).service = .fenced then .fenced else .reset, therm := (s.b.chan (i - 5)).therm }
       let b3 := dropPoints { b2 with islands := { b2.islands with alive := b2.islands.alive.erase (i - 5) } }
         [arbChan (i - 5) false, arbChan (i - 5) true]
       exec (.islandReset i false) s = .next (s.after (settleWrites
         ((chanAccs (s.b.chan (i - 5))).foldl (fun b a => failAcc b a .busRetryExhausted) b3)))) ∧
     (29 ≤ i → i < 37 → ∃ t, exec (.islandReset i false) s = .next t ∧
       (t.b.link (i - 29)).phase = (if (s.b.link (i - 29)).phase = .fenced then .fenced else .reset) ∧
       (t.b.link (i - 29)).laneEn = 0 ∧ (t.b.link (i - 29)).trnReq = false ∧ (t.b.link (i - 29)).sess = {} ∧
       (t.b.link (i - 29)).replay = [] ∧ (t.b.link (i - 29)).egress = []) ∧
     (i = 37 → ∃ t, exec (.islandReset i false) s = .next t ∧ t.b.boot.startPending = true ∧ t.b.regs = {} ∧ t.b.ctxs = [] ∧
       t.b.links = [] ∧ t.b.sports = [] ∧ t.b.rin.sqs = [] ∧ t.b.islands.out = b1.islands.out ∧ t.b.mem = s.b.mem)) ∧
  (∀ (s : State) (i : Nat) (r : Bool), s.ao.on = false → s.b.ev = [] → exec (.islandReset i r) s = .next s) ∧
  (∀ s : State, s.b.boot.stage = 7 → s.b.boot.startPending = false → s.b.power.state ≠ 3 → s.b.boot.resetChip = false →
     (∀ n < 24, (s.b.chan n).service = .inService ∨ (s.b.chan n).service = .fenced) →
     ∃ t, exec .readyLocal s = .next t ∧ t.b.boot.stage = 8 ∧ t.b.flt.resetHold = false ∧
       t.b.sec.nonce = (drbg s.b 32).1 ∧ (t.b.vinst 0).live = true ∧
       (∀ p < 8, s.b.islands.out.get false (quadOfPort p) = true → (t.b.sport p).ready = true) ∧
       (∀ n, t.b.chan n = s.b.chan n) ∧ t.b.mem = s.b.mem) ∧
  (∀ s : State, mayBeReady s.b = false → s.b.ev = [] → exec .readyLocal s = .next s)

/-! ### Memory channels -/

/-- R38: a returned credit adds one to its counter up to 255; at 255 it is discarded and logged as a port protocol error
(source 37), the channel unchanged. A channel that is not up takes none (log entry 5: the model's choice). Both rows keep every
counter of every channel at 255 or less. -/
def Obligations.CreditsReturned : Prop :=
  (∀ (s : State) (n : Nat), chanUp s.b n = false →
    exec (.mcReadCredit n) s = .next (s.after s.b) ∧ exec (.mcWriteCredit n) s = .next (s.after s.b)) ∧
  (∀ (s t : State) (n : Nat), (∀ m, (s.b.chan m).rcred ≤ 255 ∧ (s.b.chan m).wcred ≤ 255) →
    exec (.mcReadCredit n) s = .next t ∨ exec (.mcWriteCredit n) s = .next t →
    ∀ m, (t.b.chan m).rcred ≤ 255 ∧ (t.b.chan m).wcred ≤ 255) ∧
  ∀ (s : State) (n : Nat), chanUp s.b n = true →
    ((s.b.chan n).rcred ≠ 255 → exec (.mcReadCredit n) s =
      .next (s.after (s.b.setChan n { s.b.chan n with rcred := (s.b.chan n).rcred + 1 }))) ∧
    ((s.b.chan n).wcred ≠ 255 → exec (.mcWriteCredit n) s =
      .next (s.after (s.b.setChan n { s.b.chan n with wcred := (s.b.chan n).wcred + 1 }))) ∧
    ((s.b.chan n).rcred = 255 → exec (.mcReadCredit n) s = .next (s.after (raise s.b 37 n))) ∧
    ((s.b.chan n).wcred = 255 → exec (.mcWriteCredit n) s = .next (s.after (raise s.b 37 n)))

/-- R41: an OK read beat with good parity frees its tag and goes to its reader; one that poisons the data fails the
access with UNCORRECTABLE; one for a tag that is not outstanding is a protocol error; one for a quarantined tag frees it.
R41: an OK write answer frees its tag, lands the data and tells the owner; a RETRY sends the access again under its tag,
ahead of what waits on its path; a tag that is not outstanding is a protocol error.
R42: a tag that times out is quarantined, source 36 is raised and its access goes on as after ERROR, on a new tag. -/
def Obligations.ChannelResponses : Prop :=
  (∀ (s : State) (n tag resp : Nat) (data : Bytes) (par : List Bool) (chk : Bytes), takesResponses s.b n = true →
     ((s.b.chan n).rquar.contains tag = true → exec (.mcReadResponse n tag resp data par chk) s =
       .next (s.after (s.b.setChan n { s.b.chan n with rquar := (s.b.chan n).rquar.filter (· != tag) }))) ∧
     ((s.b.chan n).rquar.contains tag = false → ((s.b.chan n).rtags.find? fun e => e.1 == tag) = none →
       exec (.mcReadResponse n tag resp data par chk) s = .next (s.after (raise s.b 37 n (detail := tag)))) ∧
     (∀ i a, (s.b.chan n).rquar.contains tag = false → ((s.b.chan n).rtags.find? fun e => e.1 == tag) = some (i, a) →
       let freed := s.b.setChan n { s.b.chan n with rtags := Tab.erase (s.b.chan n).rtags tag }
       (sym8 freed n = false → parityOf data = par →
         exec (.mcReadResponse n tag 0 data par chk) s = .next (s.after (settleWrites (granRead freed a data)))) ∧
       (sym8 freed n = false → exec (.mcReadResponse n tag 1 data par chk) s =
         .next (s.after (settleWrites (tryAgain freed a (some tag))))) ∧
       (a.owner ≠ .discard → exec (.mcReadResponse n tag 3 data par chk) s =
         .next (s.after (settleWrites (failAcc (raiseFail freed a .uncorrectable) a .uncorrectable)))) ∧
       (sym8 freed n = false → parityOf data ≠ par → a.owner ≠ .discard →
         exec (.mcReadResponse n tag 0 data par chk) s =
           .next (s.after (settleWrites (failAcc (raiseFail freed a .parity) a .parity)))))) ∧
  (∀ (s : State) (n tag : Nat), takesResponses s.b n = true → (s.b.chan n).wquar.contains tag = false →
     (∀ i a, ((s.b.chan n).wtags.find? fun e => e.1 == tag) = some (i, a) →
       let freed := s.b.setChan n { s.b.chan n with wtags := Tab.erase (s.b.chan n).wtags tag }
       exec (.mcWriteResponse n tag 0) s = .next (s.after (settleWrites (writeDone (commitWrite freed a) a))) ∧
       exec (.mcWriteResponse n tag 1) s = .next (s.after (settleWrites (tryAgain freed a (some tag))))) ∧
     (((s.b.chan n).wtags.find? fun e => e.1 == tag) = none →
       exec (.mcWriteResponse n tag 0) s = .next (s.after (raise s.b 37 n (detail := tag))))) ∧
  (∀ (s : State) (n tag i : Nat) (a : Acc),
     (((s.b.chan n).rtags.find? fun e => e.1 == tag) = some (i, a) →
       exec (.tagTimeout n false tag) s = .next (s.after (settleWrites (tryAgain
         (raise (s.b.setChan n { s.b.chan n with rtags := Tab.erase (s.b.chan n).rtags tag
                                                 rquar := (s.b.chan n).rquar ++ [tag] })
           36 n (vi := a.vi) (ctx := (a.owner.ctx).getD 256) (detail := a.gran * 256)) a none)))) ∧
     (((s.b.chan n).wtags.find? fun e => e.1 == tag) = some (i, a) →
       exec (.tagTimeout n true tag) s = .next (s.after (settleWrites (tryAgain
         (raise (s.b.setChan n { s.b.chan n with wtags := Tab.erase (s.b.chan n).wtags tag
                                                 wquar := (s.b.chan n).wquar ++ [tag] })
           36 n (vi := a.vi) (ctx := (a.owner.ctx).getD 256) (detail := a.gran * 256)) a none))))) ∧
  (∀ (b : Block) (a a' : Acc) (tag : Option Nat), retryAcc b a = some a' → (b.chan a'.ch).service = .inService →
     a'.retries = a.retries + 1 ∧
     (a'.reads = true → tryAgain b a tag = b.setChan a'.ch
       { b.chan a'.ch with rwait := { a' with tag := tag } :: (b.chan a'.ch).rwait }) ∧
     (a'.reads = false → tryAgain b a tag = b.setChan a'.ch
       { b.chan a'.ch with wwait := { a' with tag := tag } :: (b.chan a'.ch).wwait }))

/-- R75 to R78: the partner's word is taken while the channel is offered; the mode both words allow is fixed, quarantined
tags are released and the channel is in service; with no common mode, or no word in time, it is fenced: its outputs at their
reset values, its entries rewritten, its waiting requests steered afresh (R295); the word's loss
takes a channel out of service with source 38, and each access that waits has met its first RETRY, one more at each tick; an
access within a row counts from where it first finds the channel lost (log entry 93).
R76: a mode is one both words offer.
R43, R364: a recognised thermal state is taken; a further critical channel raises source 40. -/
def Obligations.ChannelNegotiation : Prop :=
  (∀ (s : State) (n : Nat),
     (∀ cap, ((s.b.chan n).service = .offered ∨ (s.b.chan n).service = .lost) →
       exec (.capIVld n cap) s = .next (s.after (s.b.setChan n { s.b.chan n with capI := some cap }))) ∧
     (∀ w m, (s.b.chan n).capI = some w → ((s.b.chan n).service = .offered ∨ (s.b.chan n).service = .lost) →
       chooseMode (s.b.chan n).capO.toNat w.toNat = some m →
       ∃ t, exec (.channelModeFix n) s = .next t ∧ (t.b.chan n).service = .inService ∧ (t.b.chan n).mode = some m ∧
         (t.b.chan n).rquar = [] ∧ (t.b.chan n).wquar = [] ∧ ∀ i, i ≠ n → t.b.chan i = s.b.chan i) ∧
     (∀ w, (s.b.chan n).capI = some w → (s.b.chan n).service = .offered →
       chooseMode (s.b.chan n).capO.toNat w.toNat = none →
       exec (.channelModeFix n) s = .next (s.after (raiseOwn (fenceChan s.b n) n))) ∧
     ((s.b.chan n).service = .offered → (s.b.chan n).capI = none →
       exec (.channelNegotiationTimeout n) s = .next (s.after (raiseOwn (fenceChan s.b n) n))) ∧
     ((s.b.chan n).service = .inService → exec (.capIVldLoss n) s = .next (s.after (settleWrites
       (countWaiting n (raise (s.b.setChan n { s.b.chan n with capI := none, service := .lost }) 38 n))))) ∧
     ((s.b.chan n).service = .lost → exec (.channelWaitRetryTick n) s = .next (s.after (settleWrites
       (countWaiting n (s.b.setChan n { s.b.chan n with
         found := (s.b.chan n).found.map fun e => (e.1, e.2.1, e.2.2 + 1) })))))) ∧
  (∀ (b : Block) (r n g k : Nat), (b.chan n).service = .lost →
     ((b.chan n).found = [(r, g, k)] → chanStatus b r n g = some (if rowLimit b r ≤ k then .busRetryExhausted else .held)) ∧
     ((b.chan n).found = [] → chanStatus b r n g = some (if rowLimit b r ≤ 1 then .busRetryExhausted else .held))) ∧
  (∀ (b : Block) (n : Nat) (a a' : Acc), (b.chan n).rwait = [a] → (b.chan n).wwait = [] → retryAcc b a = some a' →
     a'.reads = true → ((countWaiting n b).chan n).rwait = [a'] ∧ ((countWaiting n b).chan n).wwait = [] ∧
       ((countWaiting n b).chan n).service = (b.chan n).service) ∧
  (∀ (b : Block) (n : Nat), (b.chan n).service ≠ .fenced → ∃ b0, fenceChan b n = resteer b0 n ∧
     (b0.chan n).service = .fenced ∧ (b0.chan n).capOVld = false ∧ (b0.chan n).capO = 0 ∧
     (b0.chan n).rqOut = none ∧ (b0.chan n).wqOut = none ∧ (b0.health .channel n).state = .fenced ∧
     b0.islands.alive.get false n = false) ∧
  (∀ (own peer : Nat) (m : ChanMode), chooseMode own peer = some m →
     peer % 16 = 1 ∧ (m.trusted = true → bitOf own 24 = true ∧ bitOf peer 24 = true) ∧ m.tagMax ≤ 511 ∧
     m.tagMax ≤ bitsOf peer 40 32 ∧ (m.run = 16 ∨ m.run = 4 ∨ m.run = 1) ∧ (m.drainable = true → bitOf peer 20 = true)) ∧
  (∀ (s : State) (n : Nat) (m : ChanMode) (t : BitVec 2),
     n < 24 → s.b.boot.stalled = none → (s.b.chan n).mode = some m → m.therm = true → (s.b.chan n).therm ≠ t →
     (t ≠ 3 → exec (.thermChange n t) s = .next (s.after (s.b.setChan n { s.b.chan n with therm := t }))) ∧
     (t = 3 → anyCritical s.b = true → exec (.thermChange n t) s =
       .next (s.after (raise (s.b.setChan n { s.b.chan n with therm := 3, budget := 0 }) 40 n))))

/-! ### Stream ports, request lines, power domains -/

/-- R45, R46, R108: a good beat goes to the execution that waits for it on a lane; one that no lane waits for is not taken:
ready is 0; a beat for no open number raises source 51 and is dropped; a bad beat is taken and halts its execution with the
status R46 gives, and one of a stream that nothing consumes is logged with that status.
R45, R47, R108: the oldest egress beat leaves and counts for its execution; eoc closes its number; the last beat of a
context's output carries eoc where its context is on its way to CHAIN with EOC, and waits while that may still come
(log entry 63). -/
def Obligations.StreamBeats : Prop :=
  (∀ (s : State) (p : Nat) (x : Beat), quadUp s.b (quadOfPort p) = true → readyLocal s.b = true →
     (((s.b.sport p).openNos.find? fun o => o.1 == x.cid && !o.2.egress) = none →
       exec (.streamIngressBeat p x) s = .next (s.after
         (raise (s.b.setSport p { s.b.sport p with ready := true }) 51 p (detail := x.cid)))) ∧
     (∀ k o, ((s.b.sport p).openNos.find? fun o => o.1 == x.cid && !o.2.egress) = some (k, o) →
       (∀ c e, consumer s.b p x.cid = some (c, e) → ingressOpen s.b p e = true → laneWaits s.b c e = true →
         beatFault o x = none →
         let d := x.data.take (Beat.count x)
         let b1 := s.b.setSport p { s.b.sport p with
           openNos := if x.eoc then (s.b.sport p).openNos.filter fun q => q.1 != x.cid
             else Tab.insert (s.b.sport p).openNos x.cid { o with inbuf := d.drop (wants s.b c e), bad := false }
           ready := true }
         exec (.streamIngressBeat p x) s = .next (s.after
           (tryUnits (giveStream b1 c p e.seq (d.take (wants s.b c e))) c))) ∧
       (∀ c e, consumer s.b p x.cid = some (c, e) → (ingressOpen s.b p e && laneWaits s.b c e) = false →
         beatFault o x = none →
         exec (.streamIngressBeat p x) s = .next (s.after (s.b.setSport p { s.b.sport p with ready := false }))) ∧
       (∀ st, beatFault o x = some st →
         let b1 := s.b.setSport p { s.b.sport p with
           openNos := if x.eoc then (s.b.sport p).openNos.filter fun q => q.1 != x.cid
             else Tab.insert (s.b.sport p).openNos x.cid { o with bad := true }
           ready := true }
         (∀ c e, consumer b1 p x.cid = some (c, e) → exec (.streamIngressBeat p x) s = .next (s.after
           (haltBegin (raise b1 51 p (status := st) (vi := o.vi) (ctx := c) (detail := x.cid)) c st 0 0 (some e.seq)))) ∧
         (consumer b1 p x.cid = none → exec (.streamIngressBeat p x) s = .next (s.after
           (raise b1 51 p (status := st) (vi := o.vi) (detail := x.cid))))))) ∧
  (∀ (s : State) (p : Nat) (o : OutBeat) (rest : List OutBeat),
     (s.b.sport p).out = o :: rest → domainOfPort s.b p = none → quadUp s.b (quadOfPort p) = true →
     (o.last = false ∨ o.beat.eoc = true ∨ eocOpen s.b o.ctx = false) →
     let o' := eocOn s.b o rest
     exec (.streamEgressBeat p) s = .next (s.after (releaseLanes (modExec
       (s.b.setSport p { s.b.sport p with
         out := rest
         openNos := if o'.beat.eoc then (s.b.sport p).openNos.filter fun q => q.1 != o'.beat.cid else (s.b.sport p).openNos })
       o'.ctx o'.seq fun e => { e with sent := e.sent + Beat.count o'.beat }) o'.ctx))) ∧
  (∀ (b : Block) (o : OutBeat) (rest : List OutBeat),
     (lastOut b o rest = false → eocOn b o rest = o ∧ eocWaits b o rest = false) ∧
     (lastOut b o rest = true → eocNext b o.ctx = some true → (eocOn b o rest).beat.eoc = true))

/-- R70: a pd_req that arrives before step 6 has ended is acknowledged at once; while CT is clamped nothing samples it. -/
def Obligations.EarlyDomainAcknowledged : Prop :=
  ∀ (s : State) (d : Nat), d < 16 → s.b.boot.stage < 7 →
    (s.b.pdom d).req = false → (s.b.pdom d).ack = false → (s.b.pdom d).drain = false →
    (ctUp s.b = true → exec (.pdReq d) s = .next (s.after ((s.b.setPdom d { req := true, ack := false, drain := true }).setPdom d
      { req := true, ack := true, drain := false }))) ∧
    (ctUp s.b = false → exec (.pdReq d) s = .next (s.after s.b))

/-- R58, R371, R372, R375: a request of a defined domain in service begins its drain: the tags of partners without the
handshake are retired at once (R76), its dirty lines written back; drained, it is acknowledged; at the bound it is
acknowledged all the same with source 41; its release lets the work go on. A pd_req that falls during the drain is remembered,
the drain completes and pd_ack rises, and then the fall is answered (R58, R376): in the next cycle of the always-on clock in
which no command waits, which is the model's choice (log entry 75).
R56, R57: a request on a line is held and not acknowledged yet; every other line and every context stays. -/
def Obligations.DomainsAndRequestLines : Prop :=
  (∀ (s : State) (d : Nat), d < 16 →
     ((domainRec s.b d).isSome = true → 7 ≤ s.b.boot.stage → s.b.boot.stage ≠ 0xF → s.b.power.state ≠ 3 → ctUp s.b = true →
       (s.b.pdom d).req = false → (s.b.pdom d).ack = false → (s.b.pdom d).drain = false →
       let b1 := s.b.setPdom d { req := true, ack := false, drain := true }
       exec (.pdReq d) s = .next (s.after (settleWrites (drainLines (retireUndrained b1 d) d)))) ∧
     ((s.b.pdom d).drain = true → domainDrained s.b d = true →
       exec (.pdAck d) s = .next (s.after (settleWrites (ackDomain (retireTags s.b d (tagsIn s.b d)) d)))) ∧
     ((s.b.pdom d).drain = true → domainDrained s.b d = false → exec (.pdAck d) s = .next (s.after (drainLines s.b d))) ∧
     ((s.b.pdom d).drain = true →
       let b := dropDirty (retireTags s.b d (tagsIn s.b d)) d
       exec (.drainBoundExpiry d) s =
         .next (s.after (settleWrites (ackDomain (raise ((portsOf b d).foldl dropBeats b) 41 d) d)))) ∧
     ((s.b.pdom d).drain = true → exec (.pdReqRelease d) s =
       .next (s.after (s.b.setPdom d { s.b.pdom d with req := false }))) ∧
     ((s.b.pdom d).drain = false → (s.b.pdom d).ack = true →
       exec (.pdReqRelease d) s = .next (s.after
         (let b := s.b.setPdom d {}
          let b := b.ctxs.foldl (fun b e => releaseLanes (flushOuts b e.1) e.1) b
          settleWrites (b.rin.cqs.foldl (fun b e => drainWaiting e.1 (e.2.waiting.length) b) b)))) ∧
     ((s.b.pdom d).drain = false → (s.b.pdom d).ack = false →
       exec (.pdAck d) s = .next (s.after s.b) ∧ exec (.drainBoundExpiry d) s = .next (s.after s.b) ∧
       exec (.pdReqRelease d) s = .next (s.after s.b)) ∧
     (∀ b : Block, ackDomain b d = b.setPdom d { b.pdom d with drain := false, ack := true }) ∧
     (s.pending = [] → s.b.pd = [(d, { req := false, ack := true, drain := false })] → step s = .next (takeEvents
       { s with ao := { s.ao.countTamper with aotime := s.ao.aotime + 1 }, b := resumeDomain s.b d }))) ∧
  (∀ (s : State) (i : Nat), i < 64 → s.b.islands.out.get false (i / 16) = true →
     ∃ t, exec (.drq i) s = .next t ∧ (t.b.line i).held = true ∧ (t.b.line i).ack = false ∧
       (t.b.line i).pacing = (s.b.line i).pacing ∧ (∀ j, j ≠ i → t.b.line j = s.b.line j) ∧ t.b.ctxs = s.b.ctxs)

/-! ### Link ports -/

/-- R49 to R51, R80: a trained port begins the capability exchange; loss of lock lowers trn_req; RETRAIN raises it again;
each uncorrectable FEC word is counted and raises source 43.
R80, R81: a training that times out halves the lanes, and fences the port at one lane; a port fenced so is tried again, one
the collector holds in safe state is not (R419);
the capability flit is sent again until the peer answers, and after an ID mismatch the exchange runs again. -/
def Obligations.LinkTraining : Prop :=
  (∀ (s : State) (p lane : Nat),
     ((s.b.link p).phase = .training → (s.b.link p).trnReq = true →
       exec (.trnDone p) s = .next (s.after (sendCapability (s.b.setLink p { s.b.link p with phase := .exchange }) p))) ∧
     ((s.b.link p).trnReq = true → exec (.rxLockLoss p) s =
       .next (s.after (s.b.setLink p { s.b.link p with phase := .training, trnReq := false, peerCap := none }))) ∧
     ((s.b.link p).phase = .training → (s.b.link p).trnReq = false → exec (.retrain p) s =
       .next (s.after (s.b.setLink p { s.b.link p with phase := .training, trnReq := true }))) ∧
     ((s.b.link p).phase ≠ .reset → exec (.fecUncorr p lane) s = .next (s.after
       (raise (s.b.setLink p { s.b.link p with fecCount := min ((s.b.link p).fecCount + 1) (2 ^ 32 - 1) }) 43 p)))) ∧
  (∀ (s : State) (p : Nat),
     ((s.b.link p).phase = .training → (s.b.link p).trnReq = true →
       (2 ≤ (s.b.link p).lanes → ∃ t, exec (.trainingTimeout p) s = .next t ∧
         (t.b.link p).lanes = (s.b.link p).lanes / 2 ∧ (t.b.link p).narrow = (s.b.link p).lanes / 2 ∧
         (t.b.link p).trnReq = false ∧ (t.b.link p).phase = .training) ∧
       ((s.b.link p).lanes ≤ 1 → ∃ t, exec (.trainingTimeout p) s = .next t ∧ (t.b.link p).phase = .fenced ∧
         (t.b.link p).laneEn = 0 ∧ (t.b.link p).trnReq = false ∧ t.b.islands.alive.get false (40 + p) = false ∧
         t.b.isFenced .link p = true)) ∧
     ((s.b.link p).phase = .training → (s.b.link p).trnReq = true → (s.b.link p).encoder = none →
       (ringGiveBack s.b p).1 = [] → s.b.held = [] → s.b.heldFlits = [] → (∀ q, (s.b.link q).encoder = none) →
       ∃ t, exec (.trainingTimeout p) s = .next t ∧ ∀ q, q ≠ p → t.b.link q = s.b.link q) ∧
     ((s.b.link p).phase = .fenced →
       (s.b.islands.safe.getLsbD (29 + p) = false →
         exec (.fencedPortRetry p) s = .next (s.after (startTraining s.b p))) ∧
       (s.b.islands.safe.getLsbD (29 + p) = true → exec (.fencedPortRetry p) s = .next (s.after s.b))) ∧
     ((s.b.link p).phase = .exchange → (s.b.link p).peerCap = none →
       exec (.capabilityResend p) s = .next (s.after (sendCapability s.b p))) ∧
     ((s.b.link p).phase = .exchange → (s.b.link p).mismatch = true →
       exec (.idMismatchRepeat p) s = .next (s.after
         (sendCapability (s.b.setLink p { s.b.link p with mismatch := false, peerCap := none }) p))))

/-- R322, R323, R326: a group with a bad CRC is dropped, NAKed and raises source 42; a good one in the clear that is next
in order is acknowledged, its credits are taken and its flits delivered in order; a repeated one is dropped. -/
def Obligations.FlitGroupReceived : Prop :=
  ∀ (s : State) (p : Nat) (g : Bytes),
    portOn (s.b.link p) = true → islandUp s.b (29 + p) = true → g.length = groupSize →
    (crcsOk g = false → exec (.flitGroup p g) s =
      .next (s.after (raise (s.b.setLink p { s.b.link p with nak := true }) 42 p))) ∧
    (crcsOk g = true → (s.b.link p).sess.secret = [] → allZero (sliceAt (trailerOf g) 0 16) = true →
      let t := trailerOf g
      let seq := fieldAt t 48 4 % 2 ^ 31
      let l := ackIn (s.b.link p) t
      (seq = l.seqRx →
        let l' := creditIn { l with seqRx := (seq + 1) % 2 ^ 31, nak := false } t
        let fs := ((List.range 4).map fun i =>
          parseFlit (sliceAt (g.take 1088) (272 * i) 272) (fieldAt t (56 + 2 * i) 2)).filter fun f => f.op != 0
        exec (.flitGroup p g) s = .next (s.after (fs.foldl (flitIn p) (s.b.setLink p l')))) ∧
      ((seq + 1) % 2 ^ 31 = l.seqRx → exec (.flitGroup p g) s = .next (s.after (s.b.setLink p l))))

/-- R317, R325, R326: a port sends a new group while fewer than 56 are unacknowledged, and a group asked for again bit for
bit; idle input closes the open link block: its record leaves as one SWATCH request that its writes await (R272), then the end
records that are due leave and what waited behind them goes.
A new group takes the next sequence number, is kept for replay, returns every credit owed and carries this side's
acknowledgement; without a MGMT flit it holds the first four flits granted a slot, or the first three where 1,023 groups have
left without an IDLE flit, and none while it goes in the clear (R322, R325, R326, R391, R459). -/
def Obligations.FlitGroupSent : Prop :=
  (∀ (s : State) (p : Nat),
     (portOn (s.b.link p) = true → islandUp s.b (29 + p) = true →
       ((s.b.link p).resendAt = none → (s.b.link p).replay.length < 56 →
         ∃ t, exec (.linkEgressGroup p) s = .next t ∧ t.b.link p = newGroup s.ao s.b (s.b.link p) ∧
           (∀ q, q ≠ p → t.b.link q = s.b.link q) ∧ t.b.mem = s.b.mem ∧ t.b.ctxs = s.b.ctxs ∧ t.b.flt = s.b.flt) ∧
       ((s.b.link p).resendAt = none → 56 ≤ (s.b.link p).replay.length → s.b.ev = [] →
         exec (.linkEgressGroup p) s = .next s) ∧
       (∀ n e, (s.b.link p).resendAt = some n → ((s.b.link p).replay.find? fun x => x.1 == n) = some e →
         (s.b.link p).resends.get 0 n < 7 →
         ∃ t, exec (.linkEgressGroup p) s = .next t ∧ (t.b.link p).txOut = e.2 ∧
           (t.b.link p).resends.get 0 n = (s.b.link p).resends.get 0 n + 1 ∧
           (t.b.link p).replay = (s.b.link p).replay ∧ t.b.mem = s.b.mem ∧ t.b.ctxs = s.b.ctxs)) ∧
     (∀ k a rest, (s.b.link p).encoder = some k → k.accs = a :: rest →
       exec (.linkBlockIdleClose p) s = .next (s.after (releaseAll (endDone (sendRemote
         (s.b.setLink p { s.b.link p with encoder := some { k with data := [], accs := [] } })
         { acc := a, chip := k.chip, op := opSwatch, group := groupOf s.b (a.gran * 256), also := rest
           record := blockRecord k }) p)))) ∧
     (∀ k, (s.b.link p).encoder = some k → k.accs = [] →
       exec (.linkBlockIdleClose p) s = .next (s.after (releaseAll (endDone s.b p)))) ∧
     ((s.b.link p).encoder = none → exec (.linkBlockIdleClose p) s = .next (s.after (releaseAll s.b)))) ∧
  (∀ (ao : AO) (b : Block) (l : Link),
     (newGroup ao b l).replay = l.replay ++ [(l.seqTx, (newGroup ao b l).txOut)] ∧
     (newGroup ao b l).seqTx = (l.seqTx + 1) % 2 ^ 31 ∧ (newGroup ao b l).owe = [] ∧
     (newGroup ao b l).seqRx = l.seqRx ∧
     (mgmtNext l = none →
       let n := if !l.sendsKeyed then 0 else if 1023 ≤ l.busyGroups then 3 else 4
       (newGroup ao b l).staged = l.staged.drop n ∧
       (newGroup ao b l).busyGroups = (if (l.staged.take n).length = 4 then l.busyGroups + 1 else 0) ∧
       (newGroup ao b l).txOut = sealGroup
         (if l.sendsKeyed then some (groupKey l true l.sess.txGen l.seqTx) else none)
         (l.staged.take n) ((List.range 8).flatMap fun c => natLe 2 (min (l.owe.get 0 c) 65535)) l.seqTx
         ((l.seqRx + 2 ^ 31 - 1) % 2 ^ 31) l.nak))

/-- R81, R329: a port that goes down loses its buffers, its replay and its session, its role epoch moves on, and source 45
is raised; the writes its encoder held, or that were on the ring to it, go again on the present route (the model's choice, log
entry 82), and what was held with them. -/
def Obligations.LinkGoesDown : Prop :=
  ∀ (b : Block) (p : Nat), ∃ d,
    linkDown b p = releaseAll (((match (b.link p).encoder with | some k => k.accs.map fun a => (a, k.chip) | none => []) ++
      (ringGiveBack b p).1).foldl (fun b a => sendWrite b a.1 a.2) d) ∧
    (d.link p).phase = .down ∧ (d.link p).trnReq = false ∧ (d.link p).epoch = ((b.link p).epoch + 1) % 256 ∧
    (d.link p).replay = [] ∧ (d.link p).egress = [] ∧ (d.link p).ingress = [] ∧ (d.link p).sess = {} ∧
    (d.link p).reqs = (b.link p).reqs ∧ (∃ x, d.flt.pins = b.flt.pins ++ [x] ∧ x.src = 45 ∧ x.unit = p) ∧
    (∀ q, q ≠ p → d.link q = b.link q)

/-- R337, R338: a complete WRITE or FADD message is taken and each operand is checked and presented in its stream's turn,
or refused; each valid entry of a READ likewise; an operand of an unordered stream is presented at once, one that fails a
check is answered with its status; a message not of its form breaks the protocol (source 48).
R219 to R221, R339: a complete float or integer reduction whose operands all fit their type is
a read-modify-write of each operand's granule in order; one not of the message's form is a protocol error.
R219, R321, R339: a modular reduction takes its moduli from the MODQ flit that ends it; a message without that
flit is a protocol error. -/
def Obligations.RemoteMemory : Prop :=
  (∀ (s : State) (p : Nat) (fs : List Flit) (b : Block),
     (takeMessage s.b p opWrite = some (fs, b) →
       (∀ l, items opWrite fs = some l →
         exec (.write p) s = .next (s.after (l.foldl (serveItem p fun _ => none) b))) ∧
       (items opWrite fs = none → exec (.write p) s = .next (s.after (protoError b p)))) ∧
     (∀ f t, fs = f :: t → takeMessage s.b p opRead = some (fs, b) →
       exec (.read p) s = .next (s.after
         ((((List.range 16).map fun i => fieldAt f.payload (16 * i) 16).filter fun e => bitOf e 72).foldl
           (serveRead p f) b))) ∧
     (∀ f o n, takeMessage s.b p opFadd = some (fs, b) →
       items opFadd fs = some [{ f := f, mask := maskIn o n }] → enabledSpan (maskIn o n) = (o, n) →
       ((n == 1 || n == 4 || n == 8) && o % n == 0 &&
         ((List.range n).all fun j => (maskIn o n).getD (o + j) 0 == 0xFF)) = true →
       exec (.fadd p) s = .next (s.after (serveItem p (fun _ => some (.addFlag o n (fieldAt f.payload o n))) b
         { f := f, mask := maskIn o n })))) ∧
  (∀ (s : State) (p mode : Nat) (fs : List Flit) (b : Block) (c : Instr),
     (c, mode) ∈ [(Instr.redFp32 p, 1), (Instr.redBf16 p, 2), (Instr.redMax p, 3), (Instr.redMin p, 4)] →
     takeMessage s.b p (5 + mode) = some (fs, b) →
     (∀ l, items (5 + mode) fs = some l → (l.all fun i => (redItem mode [] i).isSome) = true →
       exec c s = .next (s.after ((l.filterMap (redItem mode [])).foldl
         (fun b (i, r) => serveItem p (fun _ => some r) b i) b))) ∧
     (items (5 + mode) fs = none → exec c s = .next (s.after (protoError b p)))) ∧
  (∀ (s : State) (p : Nat) (ops : List Flit) (m : Bytes) (b : Block) (fs : List Flit),
     takeMessage s.b p 5 = some (fs, b) →
     (splitModq 0 fs = none → exec (.redAddmod p) s = .next (s.after (protoError b p))) ∧
     (splitModq 0 fs = some (ops, m) → ∀ i r, items 5 ops = some [i] → redItem 0 m i = some (i, r) →
       exec (.redAddmod p) s = .next (s.after (serveItem p (fun _ => some r) b i)))) ∧
  (∀ (b : Block) (p : Nat) (rmw : Item → Option Rmw) (i : Item),
     let x := enabledSpan i.mask
     let st := remoteCheck b i.f i.f.vi i.f.ksel (i.f.addr * 256 + x.1) x.2
     (st = none → bitOf i.f.aux 8 = true →
       serveItem p rmw b i = presentRemote b (remoteWrite p none true i.f i.mask i.f.payload (rmw i))) ∧
     (∀ e, st = some e → serveItem p rmw b i =
       sendAnswer b { port := p, rix := i.f.rix, chip := i.f.src, status := e, data := none })) ∧
  (∀ (b : Block) (p : Nat) (f : Flit) (e : Nat),
     let st := remoteCheck b f (bitsOf e 63 56) (bitsOf e 71 64) (bitsOf e 39 0 * 256) 256
     (st = none → bitOf f.aux 8 = true → serveRead p f b e = presentRemote b
       (mkAcc (.remote p (bitsOf e 55 40) f.src none true) false (bitsOf e 39 0) 0 256 (bitsOf e 39 0 * 256)
         (bitsOf e 63 56) (bitsOf e 71 64) [] [])) ∧
     (∀ x, st = some x → serveRead p f b e =
       sendAnswer b { port := p, rix := bitsOf e 55 40, chip := f.src, status := x, data := some [] }))

/-- R273, R274: a codebook record loads the port's store, a block record is decoded with it, checked and its granules
presented in order, or is refused with BOUNDS when there is no store; the end record releases the store; any other is refused
with BOUNDS. A block record waits while no decoder of its quadrant has room for its vectors in the window (R266), and takes it.
R321, R330: an RDATA flit ends the read it names, its data going back to its quadrant or into the write that merges it (R142),
or with the status it carries; an ACK entry ends its request likewise, and one that names no open request breaks the protocol;
a request that times out goes out again when it is a write, a read or a SWATCH, but for a write that a reset or an abort waits
for (R115, R178), and an arithmetic one fails with LINK_DOWN. -/
def Obligations.RecordsAndAnswers : Prop :=
  (∀ (s : State) (p : Nat) (f : Flit) (t : List Flit) (b : Block),
     takeMessage s.b p opSwatch = some (f :: t, b) → swatchWaits s.b p = false →
     let served := match linkDec b p f with | some d => countVectors b d (recordVecs f) | none => b
     let w := fieldAt f.payload 8 8
     (∀ cb, cb = 8 ∨ cb = 12 → w = 1 + cb * 2 ^ 8 → 16 + 8 * 2 ^ cb ≤ f.payload.length →
       exec (.swatch p) s =
         .next (s.after (b.setLink p { b.link p with store := some (cb, sliceAt f.payload 16 (8 * 2 ^ cb)) }))) ∧
     (w % 16 = 2 → (b.link p).store = none → exec (.swatch p) s = .next (s.after (refuse b p f.rix f.src true .bounds))) ∧
     (∀ cb book d, w % 16 = 2 → (b.link p).store = some (cb, book) → bitsOf w 7 5 = 0 → w / 2 ^ 27 = 0 →
       bitsOf w 26 20 ≠ 0 → bitsOf w 26 20 ≤ 64 → 16 + bitsOf w 26 20 * 64 ≤ f.payload.length →
       decodeStored cb book (bitOf w 4) (bitsOf w 19 8 + 1) (sliceAt f.payload 16 (bitsOf w 26 20 * 64)) = some d →
       let key := (streamOf f).getD (2 ^ 40 + f.src * 2 ^ 16 + f.rix)
       let l := swatchAccs p (some key) f (f.addr * 256 + fieldAt f.payload 0 8 % 256) d
       let st := l.findSome? fun a => remoteCheck b f f.vi f.ksel (a.gran * 256 + a.off) a.len
       (st = none → exec (.swatch p) s = .next (s.after (presentIn served (some key) l))) ∧
       (∀ e, st = some e → exec (.swatch p) s = .next (s.after (refuse b p f.rix f.src true e)))) ∧
     (w % 16 = 3 → exec (.swatch p) s = .next (s.after (b.setLink p { b.link p with store := none }))) ∧
     (w % 16 = 0 → exec (.swatch p) s = .next (s.after (refuse b p f.rix f.src true .bounds)))) ∧
  (∀ (s : State) (p : Nat),
     (swatchWaits s.b p = true → exec (.swatch p) s = .next (s.after s.b)) ∧
     (∀ f b, takeMessage s.b p opRdata = some ([f], b) →
       let q := f.rix / 8192
       let found := (b.link q).reqs.find? fun e => e.1 == f.rix % 8192
       (found = none → exec (.rdata p) s = .next (s.after (settleWrites (protoError b p)))) ∧
       (∀ i r, found = some (i, r) → r.op = opRead → r.acc.owner ≠ .discard →
         let gone := b.setLink q { b.link q with reqs := (b.link q).reqs.filter fun e => e.1 != i }
         (f.aux = 0 → r.acc.write = false →
           exec (.rdata p) s = .next (s.after (settleWrites (releaseAll (readBack gone (quadOfPort p) r.acc f.payload))))) ∧
         (f.aux = 0 → r.acc.write = true → exec (.rdata p) s =
           .next (s.after (settleWrites (releaseAll (sendWrite gone (r.acc.combine f.payload) r.chip))))) ∧
         (f.aux ≠ 0 → exec (.rdata p) s =
           .next (s.after (settleWrites (releaseAll (failAcc gone r.acc (statusOf f.aux)))))))) ∧
     (∀ f b e, takeMessage s.b p opAck = some ([f], b) →
       (((List.range 32).map fun i => fieldAt f.payload (8 * i) 8).filter fun e => bitOf e 32) = [e] →
       let q := bitsOf e 15 0 / 8192
       let found := (b.link q).reqs.find? fun x => x.1 == bitsOf e 15 0 % 8192
       (found = none → exec (.ack p) s = .next (s.after (settleWrites (protoError b p)))) ∧
       (∀ i r, found = some (i, r) → r.op ≠ opRead →
         let gone := b.setLink q { b.link q with reqs := (b.link q).reqs.filter fun x => x.1 != i }
         (bitsOf e 31 16 = 0 →
           exec (.ack p) s = .next (s.after (settleWrites (releaseAll ((r.acc :: r.also).foldl writeDone gone))))) ∧
         (bitsOf e 31 16 ≠ 0 → exec (.ack p) s = .next (s.after (settleWrites (releaseAll
           ((r.acc :: r.also).foldl (fun b a => failAcc b a (statusOf (bitsOf e 31 16))) gone))))))) ∧
     (∀ f b, takeMessage s.b p opAck = some ([f], b) →
       exec (.ack p) s = .next (s.after (settleWrites
         ((((List.range 32).map fun i => fieldAt f.payload (8 * i) 8).filter fun e => bitOf e 32).foldl (ackEntry p) b)))) ∧
     (∀ rix i r, ((s.b.link p).reqs.find? fun e => e.1 == rix) = some (i, r) → r.acc.owner ≠ .discard →
       let gone := s.b.setLink p { s.b.link p with reqs := (s.b.link p).reqs.filter fun e => e.1 != i }
       (r.op ≠ opRead → r.op ≠ opWrite → r.op ≠ opSwatch →
         exec (.linkTimeout p rix) s = .next (s.after (settleWrites (releaseAll (failAcc gone r.acc .linkDown))))) ∧
       (r.op = opWrite ∨ r.op = opRead ∨ r.op = opSwatch → timeBound gone r.acc = true →
         exec (.linkTimeout p rix) s = .next (s.after (settleWrites (releaseAll
           ((r.acc :: r.also).foldl (fun b a => failAcc b a .linkDown) gone))))) ∧
       (∀ a, r.op = opWrite ∨ r.op = opRead ∨ r.op = opSwatch → timeBound gone r.acc = false → retryAcc gone r.acc = some a →
         exec (.linkTimeout p rix) s = .next (s.after (settleWrites (releaseAll (sendRemote gone { r with acc := a })))))))

/-- R328, R333, R354: a keep-alive is sent while the port is on, one received leaves its time for the echo and
its HELD bit (and, with no echo in it, the latency as it was), their loss takes the port down; so does a class that waits without credit unless the peer is HELD. -/
def Obligations.KeepAlives : Prop :=
  ∀ (s : State) (p : Nat),
    (portOn (s.b.link p) = true → exec (.keepaliveSend p) s =
      .next (s.after (sendNeighbour s.b p mtKeepalive (keepaliveBody s.ao s.b (s.b.link p))))) ∧
    (∀ src m b, takeMsg s.b p mtKeepalive = some ((src, m), b) →
      ∃ t, exec (.keepalive p) s = .next t ∧ (t.b.link p).kaEcho = fieldAt m 0 8 ∧ (t.b.link p).kaAt = timeNs s.ao ∧
        (t.b.link p).peerHeld = bitOf (fieldAt m 20 1) 0 ∧
        (fieldAt m 8 8 = 0 → (t.b.link p).latency = (b.link p).latency)) ∧
    (portOn (s.b.link p) = true → exec (.keepaliveLoss p) s = .next (s.after (linkDown s.b p))) ∧
    (∀ vc dl, portOn (s.b.link p) = true → (s.b.link p).outQ (flitClass vc dl) ≠ [] →
      (s.b.link p).credit (flitClass vc dl) = 0 →
      ((s.b.link p).peerHeld = false → exec (.creditStall p vc dl) s = .next (s.after (linkDown s.b p))) ∧
      ((s.b.link p).peerHeld = true → s.b.ev = [] → exec (.creditStall p vc dl) s = .next s))

/-- R80, R340, R391 to R394: a capability word that agrees with the port's settings opens the session phase, one of the
wrong chip is an ID mismatch; each session message is checked and moves the session on, or fails it; a session that takes
too long raises source 47 and is tried again.
A port is ready and in service, and what waited for a port goes out (R80, R89; that a port fenced by its training is then in
service is the model's choice, log entry 31). -/
def Obligations.Sessions : Prop :=
  (∀ (s : State) (p : Nat),
     (∀ src m b, takeMsg s.b p mtCapability = some ((src, m), b) → (b.link p).phase = .exchange →
       (b.link p).peerCap = none → bitOf (fieldAt m 0 8) 12 = true →
       (b.boot.active.isSome = true → b.setup.neighbours.getD p 0xFFFF ≠ 0xFFFF →
         b.setup.neighbours.getD p 0xFFFF ≠ bitsOf (fieldAt m 0 8) 31 16 →
         exec (.capability p) s = .next (s.after
           (raise (b.setLink p { b.link p with peerCap := some (fieldAt m 0 8), mismatch := true }) 49 p (status := .route)))) ∧
       (b.boot.active = none → lanesFrom (bitsOf (fieldAt m 0 8) 7 4) (b.link p).narrow = some (b.link p).lanes →
         bitsOf (fieldAt m 0 8) 9 9 = 1 → (b.link p).rate = 1 → (b.link p).fec = 0 →
         exec (.capability p) s = .next (s.after
           (startSession s.ao (b.setLink p { b.link p with peerCap := some (fieldAt m 0 8), phase := .session }) p)))) ∧
     (∀ src m b, takeMsg s.b p mtInit = some ((src, m), b) → (b.link p).phase = .session →
       (b.link p).sess.established = false → (b.link p).sess.waitRetry = false → isInitiator b (b.link p) = false →
       (∃ w, (b.link p).peerCap = some w ∧ bitsOf w 31 16 ≠ b.setup.chipId) → inService s.ao = true → b.sec.cert.isSome = true →
       ∃ t, exec (.sessionInit p) s = .next t ∧
         (if certOk b (b.link p) (sliceAt m 0 4675) (sliceAt m 4675 2592) then
           (t.b.link p).sess.started = true ∧ (t.b.link p).sess.initMsg = mgmtBytes mtInit m ∧
           (t.b.link p).sess.established = false
         else (t.b.link p).sess = { waitRetry := true })) ∧
     (∀ src m b, takeMsg s.b p mtResp = some ((src, m), b) → (b.link p).phase = .session →
       (b.link p).sess.established = false → (b.link p).sess.started = true → isInitiator b (b.link p) = true →
       let tr := transcriptOf b p (b.link p) (b.link p).sess.initMsg (mgmtBytes mtResp m)
       let good := certOk b (b.link p) (sliceAt m 0 4675) (sliceAt m 4675 2592) &&
         Config.mldsaVerify (sliceAt m 4675 2592) tr (sliceAt m 8867 4627)
       exec (.sessionResp p) s = .next (s.after (sessionResp p s.ao s.b)) ∧
       (if good then ∃ b0, sessionResp p s.ao s.b = enterReady b0 p ∧ (b0.link p).sess.established = true ∧
           (b0.link p).sess.secret = Config.mlkemDecaps (b.link p).sess.dk (sliceAt m 7267 1568) ∧
           (b0.link p).sess.dk = [] ∧ (b0.link p).epoch = ((b.link p).epoch + 1) % 256
         else sessionResp p s.ao s.b = sessionFailed b p)) ∧
     (∀ src m b, takeMsg s.b p mtFin = some ((src, m), b) → (b.link p).phase = .session →
       (b.link p).sess.established = false → (b.link p).sess.started = true → isInitiator b (b.link p) = false →
       let x := (b.link p).sess
       exec (.sessionFin p) s = .next (s.after
         (if Config.mldsaVerify (sliceAt x.initMsg (8 + 4675) 2592)
             (Crypto.sha3_256 (x.transcript ++ sliceAt x.respMsg (8 + 8867) 4627)) m
           then enterReady (b.setLink p { b.link p with epoch := ((b.link p).epoch + 1) % 256
                                                        sess := { x with established := true } }) p
           else sessionFailed b p))) ∧
     ((s.b.link p).phase = .session → (s.b.link p).sess.started = true → (s.b.link p).sess.established = false →
       exec (.sessionTimeout p) s = .next (s.after
         (raise (s.b.setLink p { s.b.link p with sess := { waitRetry := true } }) 47 p (status := .route)))) ∧
     ((s.b.link p).phase = .session → (s.b.link p).sess.waitRetry = true →
       exec (.sessionRetry p) s = .next (s.after (startSession s.ao (s.b.setLink p { s.b.link p with sess := {} }) p)))) ∧
  (∀ (b : Block) (p : Nat), ∃ b0, enterReady b p = releaseAll b0 ∧ (b0.link p).phase = .ready ∧
     (b0.link p).everReady = true ∧ b0.isFenced .link p = false ∧ (∀ q, q ≠ p → b0.link q = b.link q) ∧ b0.ctxs = b.ctxs ∧ b0.mem = b.mem)

/-- R335, R349 to R351: SLIP moves its group's time base on and goes on its way, an ABORT of the current epoch ends the
collective, one of another epoch is dropped, one of an unknown group is logged; a critical channel slips a group's quantum.
A slip adds to the group's sum, and an end moves its epoch on.
R91, R334: a COMMAND for an instance that takes remote commands is run by its opcode's handler and answered along
MGMT, any other is refused with PERMISSION; a COMPLETION is delivered with its sender. -/
def Obligations.ManagementMessages : Prop :=
  (∀ (s : State) (p : Nat),
     (∀ src m b r, takeMsg s.b p mtSlip = some ((src, m), b) → b.setup.groups[fieldAt m 0 1]? = some r →
       (r.topo ≠ 1 ∨ fieldAt m 2 2 ≠ b.setup.chipId) →
       exec (.slip p) s = .next (s.after (applySlip (groupSend b (fieldAt m 0 1) mtSlip m (some p)) (fieldAt m 0 1) (fieldAt m 4 4)))) ∧
     (∀ g r, anyCritical s.b = true → s.b.setup.groups[g]? = some r → participants s.b g ≠ [] →
       exec (.slipQuantum g) s = .next (s.after
         (applySlip (groupSend s.b g mtSlip (slipBody g s.b.setup.chipId r.quantum) none) g r.quantum))) ∧
     (∀ src m b r, takeMsg s.b p mtAbort = some ((src, m), b) → b.setup.groups[fieldAt m 0 1]? = some r →
       (fieldAt m 1 1 ≠ (b.grp (fieldAt m 0 1)).epoch → exec (.abort p) s = .next (s.after b)) ∧
       (fieldAt m 1 1 = (b.grp (fieldAt m 0 1)).epoch → (r.topo ≠ 1 ∨ fieldAt m 2 2 ≠ b.setup.chipId) →
         exec (.abort p) s = .next (s.after
           (groupSend (endGroup (raise b 50 (fieldAt m 0 1) (status := statusOf (fieldAt m 4 2))) (fieldAt m 0 1))
             (fieldAt m 0 1) mtAbort m (some p))))) ∧
     (∀ src m b, takeMsg s.b p mtAbort = some ((src, m), b) → b.setup.groups[fieldAt m 0 1]? = none →
       exec (.abort p) s = .next (s.after (raise b 49 p (status := .route))))) ∧
  (∀ (b : Block) (g us : Nat) (r : GroupCfg), b.setup.groups[g]? = some r → participants b g = [] →
     applySlip b g us = b.setGrp g { b.grp g with slip := (b.grp g).slip + us } ∧
     endGroup b g = b.setGrp g { b.grp g with epoch := ((b.grp g).epoch + 1) % 256 }) ∧
  (∀ (s : State) (p : Nat),
     (∀ src m b, takeMsg s.b p mtCommand = some ((src, m), b) → atelierRuns s.b = true →
       let v := fieldAt m 64 1
       let r := replyOf (.mgmt src (fieldAt m 66 2) v) v (m.take 64)
       (admits s.b p v = false → exec (.command p) s = .next (s.after (complete b r .permission 0 0))) ∧
       (admits s.b p v = true → (s.b.vinst v).stage = 0 → ∀ b' st res det,
         handlerOf (fieldAt (m.take 64) 0 1) s.ao b (m.take 64) r = (b', .now st res det) →
         exec (.command p) s = .next (s.after (endCommand b' r st res det)))) ∧
     (∀ m b, takeMsg s.b p mtCompletion = some (m, b) →
       exec (.completion p) s = .next (s.after { b with received := b.received ++ [m] })))

/-! ### The control port -/

/-- R53, R54, R92: an admitted write of a register without a row of its own reaches the register and answers OK; a mailbox
command word is taken while the mailbox is idle, its doorbell sets BUSY, and a busy mailbox refuses with QUEUE_FULL.
R94, R95, R97, R100, R101: an admitted doorbell write whose first word is a tail, or a head, moves the queue it names: a tail
of a NORMAL queue, a tail and with it the fill of a DIRECT one, a head that makes room for what waits; every word is checked
before any takes effect. -/
def Obligations.RegisterWrites : Prop :=
  (∀ (s : State) (a : Nat) (w : CtlWrite), ctUp s.b = true → a % 8 = 0 → a < 2 ^ 20 → w.vi < 256 →
     portCheck s.ao s.b a w = none →
     (a = 0x58 → exec (.registerWrite a w) s =
       .next (s.after (respond { s.b with flt := { s.b.flt with mask := wOver w s.b.flt.mask } } .ok))) ∧
     (inMbox a = true → a % 256 < 0x40 → (s.b.mbox w.vi).busy = false → exec (.registerWrite a w) s =
       .next (s.after (respond (s.b.setMbox w.vi { s.b.mbox w.vi with
         cmd := patchAt (s.b.mbox w.vi).cmd (a % 256)
           (natLe 8 (wOver w (BitVec.ofNat 64 (fieldAt (s.b.mbox w.vi).cmd (a % 256) 8))).toNat) }) .ok))) ∧
     (inMbox a = true → a % 256 = 0x60 → wSets w 0 = true → (s.b.mbox w.vi).busy = false → exec (.registerWrite a w) s =
       .next (s.after (respond (s.b.setMbox w.vi { s.b.mbox w.vi with busy := true }) .ok))) ∧
     (inMbox a = true → a % 256 = 0x60 → (s.b.mbox w.vi).busy = true → exec (.registerWrite a w) s =
       .next (s.after (refusePort s.b a w .queueFull))) ∧
     (a = 0x1120 → exec (.registerWrite a w) s =
       .next (s.after (respond { s.b with rin := { s.b.rin with tokPa := wOver w s.b.rin.tokPa } } .ok)))) ∧
  (∀ (s : State) (a : Nat) (w : CtlWrite), inBell a = true → ctUp s.b = true → a % 8 = 0 → a < 2 ^ 20 → w.vi < 256 →
     portCheck s.ao s.b a w = none →
     (((wBells w a).findSome? fun e => bellCheck s.b e.1 e.2) = none →
       (firstKind a w = false → exec (.submissionTail a w) s =
         .next (s.after (respond ((wBells w a).foldl ringBell s.b) .ok))) ∧
       (firstKind a w = true → exec (.completionHead a w) s =
         .next (s.after (respond ((wBells w a).foldl ringBell s.b) .ok)))) ∧
     (∀ st, ((wBells w a).findSome? fun e => bellCheck s.b e.1 e.2) = some st →
       (firstKind a w = false → exec (.submissionTail a w) s = .next (s.after (refusePort s.b a w st))) ∧
       (firstKind a w = true → exec (.completionHead a w) s = .next (s.after (refusePort s.b a w st))))) ∧
  (∀ (b : Block) (i d : Nat),
     (bitOf d 31 = false → (b.sq i).direct = false →
       ringBell b (i, d) = b.setSq i { b.sq i with tail := bitsOf d 15 0 }) ∧
     (bitOf d 31 = false → (b.sq i).direct = true → ringBell b (i, d) = wakeP2 (b.setSq i { b.sq i with
       fill := (bitsOf d 15 0 + (b.sq i).size - (b.sq i).head) % (b.sq i).size, tail := bitsOf d 15 0 })) ∧
     (bitOf d 31 = true → let q := bitsOf d 27 16
       ringBell b (i, d) = settleWrites
         (drainWaiting q (b.cq q).waiting.length (b.setCq q { b.cq q with head := bitsOf d 15 0 }))))

/-- R431: what the table of R430 does not admit for the issuing instance is refused with PERMISSION: a global, OTP, debug or
privileged register written by another than VI 0, another instance's mailbox, and a doorbell of a queue that is not the
issuer's. The access leaves everything but its response as it was; a read of another
instance's mailbox, of a doorbell of a queue that is not the reader's, or by another than VI 0 of a privileged, OTP or debug
register is refused alike. -/
def Obligations.AccessRefusedByInstance : Prop :=
  (∀ (ao : AO) (b : Block) (a : Nat) (w : CtlWrite) (k : AO → Block → Except Status Block),
     ctUp b = true → a % 8 = 0 → a < 2 ^ 20 → w.vi < 256 → portClosed b a w = false →
     (w.strb = 0x0F ∨ w.strb = 0xF0 ∨ w.strb = 0xFF) →
     ((w.vi ≠ 0 ∧ (a < 0x400 ∨ inPriv a = true ∨ inDebug a = true)) ∨ (inMbox a = true ∧ (a - 0x40000) / 256 ≠ w.vi) ∨
       (inBell a = true ∧ ∃ e ∈ wBells w a, (b.sq e.1).usable = false ∨ (b.sq e.1).vi ≠ w.vi)) →
     access a w k ao b = respond b .permission) ∧
  (∀ (ao : AO) (b : Block) (a vi : Nat), readClosed b a vi = false →
     ((vi ≠ 0 ∧ (inPriv a = true ∨ inOtp a = true ∨ inDebug a = true)) ∨ (inMbox a = true ∧ (a - 0x40000) / 256 ≠ vi) ∨
       (inBell a = true ∧ ∃ i, (i = (a - 0x10000) / 4 ∨ i = (a - 0x10000) / 4 + 1) ∧
         ((b.sq i).usable = false ∨ (b.sq i).vi ≠ vi))) →
     portRead ao b a vi = .error .permission)

/-- R74: before READY_LOCAL doorbell and mailbox writes are refused with DOMAIN_OFF, and no state changes: nothing but the
response does. (The privileged mailbox serves STATUS in the error state, R399.) -/
def Obligations.MailboxBeforeReady : Prop :=
  ∀ (s : State) (a : Nat) (w : CtlWrite), ctUp s.b = true → a % 8 = 0 → a < 2 ^ 20 → w.vi < 256 →
    readyLocal s.b = false →
    ((inMbox a = true ∨ inPriv a = true ∧ errorState s.b = false) → exec (.registerWrite a w) s = .next (s.after (respond s.b .domainOff))) ∧
    (inBell a = true → firstKind a w = false → exec (.submissionTail a w) s = .next (s.after (respond s.b .domainOff))) ∧
    (inBell a = true → firstKind a w = true → exec (.completionHead a w) s = .next (s.after (respond s.b .domainOff)))

/-- R55, R101: ctl_irq[g] is up exactly while a live completion queue of group g with its interrupt on holds an entry its head
has not passed, and 0 while CT is clamped (R34); an entry written moves the tail on by one, at once on this chip and when its
WRITE is answered on another; a kind-1 doorbell sets the head, and CQ_CREATE names the group. -/
def Obligations.CompletionInterrupt : Prop :=
  (∀ (b : Block) (g : Nat),
    (ctUp b = true → (ctlIrq b g = true ↔
      ∃ e ∈ b.rin.cqs, e.2.live = true ∧ e.2.irq = true ∧ e.2.group = g ∧ e.2.head ≠ e.2.tail)) ∧
    (ctUp b = false → ctlIrq b g = false)) ∧
  (∀ (b b' : Block) (i : Nat) (c : Cpl),
    writeVa b (b.cq i).vi clsControl ((b.cq i).base + 32 * (b.cq i).tail) (c.bytes (b.cq i).phase) (some i) = .ok b' →
    (((openReqs b').any fun r => entryOf r.acc.owner == some i) = false →
      ((writeEntry b i c).cq i).tail = ((b.cq i).tail + 1) % (b.cq i).size ∧ ((writeEntry b i c).cq i).out = false) ∧
    (((openReqs b').any fun r => entryOf r.acc.owner == some i) = true →
      ((writeEntry b i c).cq i).tail = (b.cq i).tail ∧ ((writeEntry b i c).cq i).out = true)) ∧
  (∀ (b : Block) (i : Nat), (b.cq i).live = true → (b.cq i).out = true → (b.cq i).waiting = [] →
    ((entryDone b i).cq i).tail = ((b.cq i).tail + 1) % (b.cq i).size) ∧
  (∀ (b : Block) (c x : Nat), (b.cq c).waiting = [] → ringHead b c x = settleWrites (b.setCq c { b.cq c with head := x })) ∧
  (∀ (ao : AO) (b b' : Block) (c : Bytes) (r : Reply) (i : Nat), cmdCqCreate ao b c r = (b', .now .ok i 0) →
    (b'.cq i).group = fieldAt c 26 1 ∧ (b'.cq i).group ≤ 63 ∧ (b'.cq i).live = true ∧ (b'.cq i).head = (b'.cq i).tail)

/-- R416, R435, R446, R447: FLT_STATUS clears the bits written as 1; HOSTCFG takes its policy bits and lock, refuses with LOCKED
once locked and closes the debug window with dbg_block; CLOSE and the end of the unlock time close the debug window.
R446, R448, R449: DBG_PCMD moves a 64-byte Palette word to or from DBG_PDATA (a word that reads badly raises its region's source, and at ABORT_TASK
or above leaves DBG_PDATA: the model's choice, log entry 39), a word that does not exist is refused with BOUNDS; DBG_ATL stops the
Atelier. -/
def Obligations.GlobalAndDebugRegisters : Prop :=
  (∀ (s : State) (w : CtlWrite), ctUp s.b = true → w.vi < 256 →
     (portCheck s.ao s.b 0x50 w = none → exec (.fltStatus w) s = .next (s.after (respond
       { s.b with flt := { s.b.flt with status := s.b.flt.status &&& ~~~(w.data &&& wMask w) } } .ok))) ∧
     (portCheck s.ao s.b 0x40 w = none →
       let v := wOver w s.b.regs.hostcfg &&& 0x8000000000000007
       let b : Block := { s.b with regs := { s.b.regs with hostcfg := v } }
       exec (.hostcfg w) s = .next (s.after (respond (if v.getLsbD 0 then closeWindow b else b) .ok))) ∧
     (portClosed s.b 0x40 w = false → w.vi = 0 → w.strb = 0xFF → s.b.regs.hostcfg.getLsbD 63 = true →
       exec (.hostcfg w) s = .next (s.after (refusePort s.b 0x40 w .locked))) ∧
     (portCheck s.ao s.b 0x80000 w = none → wSets w 0 = true →
       exec (.close w) s = .next (s.after (respond (closeWindow s.b) .ok))) ∧
     (s.b.regs.dbgUnlocked = true → s.b.regs.dbgUntil.isSome = true →
       exec .debugUnlockExpiry s = .next (s.after (closeWindow s.b)))) ∧
  (∀ (s : State) (w : CtlWrite), ctUp s.b = true → w.vi < 256 →
     (∀ o, portCheck s.ao s.b 0x88008 w = none → dbgWord s.b = some o →
       (wSets w 0 = true → badIn s.b o 64 = false → exec (.dbgPcmdRead w) s = .next (s.after (respond { s.b with regs :=
         { s.b.regs with dbgPdata :=
           (List.range 8).foldl (fun t i => Tab.put 0 t i (fieldAt (palRead s.b o 64) (8 * i) 8)) [] } } .ok))) ∧
       (wSets w 0 = true → badIn s.b o 64 = true → 5 ≤ severityOf s.b (palSource o) →
         exec (.dbgPcmdRead w) s = .next (s.after (respond (raise s.b (palSource o) (regionOf (o / 4096))
           (status := .uncorrectable) (detail := o)) .ok))) ∧
       (wSets w 0 = true → badIn s.b o 64 = true → severityOf s.b (palSource o) < 5 →
         let b := raise s.b (palSource o) (regionOf (o / 4096)) (detail := o)
         exec (.dbgPcmdRead w) s = .next (s.after (respond { b with regs :=
         { b.regs with dbgPdata :=
           (List.range 8).foldl (fun t i => Tab.put 0 t i (fieldAt (palRead s.b o 64) (8 * i) 8)) [] } } .ok))) ∧
       (wSets w 1 = true → exec (.dbgPcmdWrite w) s = .next (s.after (respond (palPut s.b o
         ((List.range 8).flatMap fun i => natLe 8 (s.b.regs.dbgPdata.get 0 i))) .ok)))) ∧
     (portCheck s.ao s.b 0x88008 w = none → dbgWord s.b = none → wSets w 0 = true →
       exec (.dbgPcmdRead w) s = .next (s.after (refusePort s.b 0x88008 w .bounds))) ∧
     (portCheck s.ao s.b 0x88100 w = none → w.strb.getLsbD 0 = true →
       exec (.dbgAtlHalt w) s = .next (s.after (respond { s.b with regs := { s.b.regs with atlHalt := w.data.getLsbD 0 } } .ok))))

/-- R8, R54, R378, R416, R430 to R434: the global range reads for every instance in every state; GSTATUS shows the boot stage, the
life cycle, zeroised, cert, viol, dbg_open and warm in their bits, FLT_STATUS the latched sources; the privileged mailbox, OTP and debug registers
give no data to another instance than VI 0, nor a mailbox to another than its own; a doorbell reads 0 to its owner (R95); and no
register shows a key slot, the handle key or a private key. That a read is a function no row calls is the model's choice (log
entry 91). -/
def Obligations.RegisterReads : Prop :=
  ∀ (ao : AO) (b : Block) (a vi : Nat),
    (a < 0x100 → portRead ao b a vi = .ok (readGlobal ao b a)) ∧
    (b.boot.stage < 16 → lifeCycle ao < 8 →
      (readGlobal ao b 0x8).toNat = b.boot.stage + lifeCycle ao * 2 ^ 8 + b2n ao.zeroised * 2 ^ 16 +
        b2n b.sec.cert.isSome * 2 ^ 17 + b2n ao.viol * 2 ^ 18 + b2n (windowOpen ao b false) * 2 ^ 19 +
        b2n b.boot.warm * 2 ^ 20) ∧
    readGlobal ao b 0x50 = b.flt.status ∧
    ((vi ≠ 0 ∧ (inPriv a = true ∨ inOtp a = true ∨ inDebug a = true)) ∨ (inMbox a = true ∧ (a - 0x40000) / 256 ≠ vi) ∨
      (inBell a = true ∧ bellOwned b vi ((a - 0x10000) / 4) = false) → ∃ st, portRead ao b a vi = .error st) ∧
    (inBell a = true → readClosed b a vi = false → bellOwned b vi ((a - 0x10000) / 4) = true →
      bellOwned b vi ((a - 0x10000) / 4 + 1) = true → (b.vinst vi).stage = 0 → portRead ao b a vi = .ok 0) ∧
    (∀ keys hk ip mp, portRead ao { b with sec := { b.sec with
        keys := keys, handleKey := hk, identPriv := ip, importPriv := mp } } a vi = portRead ao b a vi)

/-- R442 to R445: with its checks passed a programming job takes the lowest unprogrammed generation and sets BUSY; a check
that fails is reported with FAIL; a job that ends well shows DONE and its generation and programs its bits, one that reads
back wrong ends with FAIL and UNCORRECTABLE. -/
def Obligations.OtpProgramming : Prop :=
  ∀ (s : State),
    (∀ w n body, ctUp s.b = true → w.vi < 256 → portCheck s.ao s.b 0x108 w = none → s.b.regs.otpBusy = false →
      wSets w 0 = true → otpCheck s.ao s.b s.b.regs.otpPrec.toNat = .ok (n, body) →
      ∃ t g ws, exec (.otpPgo w) s = .next t ∧ t.b.regs.otpBusy = true ∧ t.b.regs.otpDone = false ∧
        t.b.regs.otpFail = false ∧ t.b.regs.otpJob = some (s.b.regs.otpPrec.toNat, g, ws) ∧
        (([0, 1, 2, 3].find? fun g =>
          !otpProgrammed s.ao.shadow (genWord s.b.regs.otpPrec.toNat g) n).getD 0) = g ∧
        ws = chunksLe 4 (n - 1) ((otpBufBytes s.b).take body) ++ [Crypto.crc32 ((otpBufBytes s.b).take body)]) ∧
    (∀ w st, ctUp s.b = true → w.vi < 256 → portCheck s.ao s.b 0x108 w = none → s.b.regs.otpBusy = false →
      wSets w 0 = true → otpCheck s.ao s.b s.b.regs.otpPrec.toNat = .error st →
      exec (.otpPgo w) s = .next (s.after (respond
        { s.b with regs := { s.b.regs with otpDone := true, otpFail := true, otpCode := st.code } } .ok))) ∧
    (∀ code g ws, s.b.regs.otpJob = some (code, g, ws) →
      (∃ t, exec (.otpProgramDone true) s = .next t ∧ t.b.regs.otpJob = none ∧ t.b.regs.otpBusy = false ∧
        t.b.regs.otpDone = true ∧ t.b.regs.otpFail = false ∧ t.b.regs.otpGen = g ∧
        (∀ i ∈ bitsFrom (genWord code g) ws, t.ao.fuses.contains i = true ∧ t.ao.shadow.contains i = true)) ∧
      (∃ t, exec (.otpProgramDone false) s = .next t ∧ t.b.regs.otpJob = none ∧ t.b.regs.otpBusy = false ∧
        t.b.regs.otpDone = true ∧ t.b.regs.otpFail = true ∧ t.b.regs.otpCode = Status.uncorrectable.code))

/-- R450 to R455: a write whose target field names the row's state is taken by PSTATE_CTL; P0 and P1 begin at once, P2 and
P3 wait for their condition and begin when it holds; the end of a transition puts P0 or P1 in force, or P2 while its
condition still holds, with every stream port closed and no request line acknowledged (R34), or P3 likewise, with every port
clamped and no heartbeat. -/
def Obligations.PowerStates : Prop :=
  ∀ (s : State),
    (∀ (c : Instr) (w : CtlWrite) (t : Nat),
      (c, t) ∈ [(Instr.targetP0 w, 0), (Instr.targetP1 w, 1), (Instr.targetP2 w, 2), (Instr.targetP3 w, 3)] →
      ctUp s.b = true → w.vi < 256 → portCheck s.ao s.b 0x70 w = none → (wOver w s.b.power.ctl).toNat % 4 = t →
      s.b.power.busy = none → s.b.power.state ≠ t → (t ≤ 1 ∨ s.b.power.state ≠ 3) →
      let p := { s.b.power with ctl := wOver w s.b.power.ctl &&& 0x7 }
      exec c s = .next (s.after (respond { s.b with power :=
        if t ≤ 1 then { p with busy := some t, pending := none } else { p with pending := some t } } .ok))) ∧
    (∀ t, s.b.power.pending = some t → s.b.power.busy = none → quietFor s.b t = true →
      exec .powerStateEntry s = .next (s.after { s.b with power := { s.b.power with busy := some t, pending := none } })) ∧
    (∀ t, s.b.power.busy = some t → s.b.power.deferred = none → t ≤ 1 → s.b.power.state ≤ 1 →
      exec .powerTransitionDone s = .next (s.after { s.b with power := { s.b.power with state := t, busy := none, deferred := none } })) ∧
    (s.b.power.busy = some 2 → s.b.power.deferred = none → quietFor s.b 2 = true →
      ∃ t, exec .powerTransitionDone s = .next t ∧ t.b.power.state = 2 ∧ t.b.power.busy = none ∧
        (∀ p < 8, (t.b.sport p).ready = false) ∧ (∀ i < 64, (t.b.line i).ack = false) ∧ t.b.mem = s.b.mem) ∧
    (s.b.power.busy = some 3 → s.b.power.deferred = none → quietFor s.b 3 = true →
      ∃ t, exec .powerTransitionDone s = .next t ∧ t.b.power.state = 3 ∧ t.b.power.busy = none ∧ t.b.islands.alive = [] ∧
        (∀ p < 8, (t.b.sport p).ready = false) ∧ (∀ i < 64, (t.b.line i).ack = false) ∧
        (∀ n, (t.b.chan n).service = .fenced ∨ (t.b.chan n).service = .reset) ∧
        (∀ n, (t.b.chan n).capOVld = false ∧ (t.b.chan n).rtags = [] ∧ (t.b.chan n).wtags = []) ∧
        (∀ p, (t.b.link p).laneEn = 0 ∧ (t.b.link p).trnReq = false))

/-! ### Rinlin commands

Each statement takes the command as its source gives it: `fetch s.b src op = .command b c r kept` says that the source (an
instance mailbox, the privileged mailbox or the head of the submission queue whose turn it is) holds the command bytes c for
that row, that b is the block after the fetch, r the reply its completion needs, and kept the block where the command stays at
its source. The checks of R104 passing is `check … = none`; `endCommand` ends a command as CommandPath says, `lostCommand` one
that an access to a record fails. -/

/-- R90, R93, R98: the fetch from a BUSY mailbox marks the command taken and changes nothing else; from a NORMAL queue whose
turn it is among instances and queues it moves the head past the entry, and the turn passes.
A command whose own writes have all been answered completes at once (R305).
R90, R93, R106: a completion reaches the mailbox its command came from: BUSY falls, DONE rises, the 32 bytes are
written unless the command is QUIET and ends OK. -/
def Obligations.CommandPath : Prop :=
  (∀ (b : Block) (op : Nat),
     (∀ v, atelierRuns b = true → (b.mbox v).busy = true → (b.mbox v).taken = false → rowTakes op (b.mbox v).cmd = true →
       (b.vinst v).stage = 0 →
       fetch b (.mailbox v) op = .command (b.setMbox v { b.mbox v with taken := true }) (b.mbox v).cmd
         (replyOf (.mailbox v) v (b.mbox v).cmd) b) ∧
     (∀ i b' c r kept, fetch b (.queue i) op = .command b' c r kept →
       (b.sq i).direct = false ∧ (b.sq i).head ≠ (b.sq i).tail ∧ turnOf b = some i ∧
       (b'.sq i).head = ((b.sq i).head + 1) % (b.sq i).size ∧ (b'.sq i).started = (b.sq i).started + 1 ∧
       (∀ j, j ≠ i → b'.sq j = b.sq j) ∧ b'.rin.lastVi = (b.sq i).vi ∧ b'.rin.lastSq.get 32767 (b.sq i).vi = i ∧
       (∀ j, kept.sq j = b.sq j) ∧ kept.rin.lastVi = (b.sq i).vi ∧ b'.rin.cqs = b.rin.cqs ∧ b'.mem = b.mem)) ∧
  (∀ (b : Block) (r : Reply) (st : Status) (res det : Nat), jobOpen b b.rin.nextJob = false →
     finishRow b r st res det = settleAll (endStarted (deliver b r st res det) r)) ∧
  (∀ (b : Block) (r : Reply) (st : Status) (res det v : Nat), r.path = .mailbox v →
     let d := deliver b r st res det
     (d.mbox v).busy = false ∧ (d.mbox v).done = true ∧
     (d.mbox v).cpl = (if r.quiet && st == .ok then (b.mbox v).cpl
       else (Cpl.bytes { status := st.code, tag := r.tag, opcode := r.opcode, sq := 0xFFFF, result := res, detail := det
                         sqHead := 0 } false)) ∧
     (d.mbox v).cmd = (b.mbox v).cmd ∧ (∀ u, u ≠ v → d.mbox u = b.mbox u) ∧ d.rin.sqs = b.rin.sqs ∧ d.mem = b.mem)

/-- R104: checks 2 to 6 in their order, the first failing one decides.
R104: a command one of whose checks fails ends with that check's status and no other effect, on every row whose checks
come in that order (`rowChecks`; the services under a token are OfficerServices'); a reserved opcode is BAD_OPCODE. -/
def Obligations.CommandChecks : Prop :=
  (∀ (b : Block) (c : Bytes) (r : Reply) (who : Issuer) (target : Option Status) (epoch : Nat) (used : List (Nat × Nat))
     (operands : Bool) (st : Status),
     (check b c r who target epoch used operands = some st ↔
       (who.ok r.vi = false ∧ st = .permission) ∨
       (who.ok r.vi = true ∧ cmdGen c ≠ (b.vinst r.vi).gen ∧ st = .instanceReset) ∨
       (who.ok r.vi = true ∧ cmdGen c = (b.vinst r.vi).gen ∧ target = some st) ∨
       (who.ok r.vi = true ∧ cmdGen c = (b.vinst r.vi).gen ∧ target = none ∧ cmdEpoch c ≠ epoch ∧ st = .staleRole) ∨
       (who.ok r.vi = true ∧ cmdGen c = (b.vinst r.vi).gen ∧ target = none ∧ cmdEpoch c = epoch ∧
         (reservedOk c used && operands) = false ∧ st = .bounds))) ∧
  (∀ (s : State) (src : CmdSrc) (b kept : Block) (c : Bytes) (r : Reply) (st : Status),
     fetch s.b src 1 = .command b c r kept →
     (listedOpcodes.contains (fieldAt c 0 1) = false →
       exec (.nop src) s = .next (s.after (endCommand b r .badOpcode 0 0))) ∧
     (listedOpcodes.contains (fieldAt c 0 1) = true → check0 b c r .any [] true = some st →
       exec (.nop src) s = .next (s.after (endCommand b r st 0 0)))) ∧
  (∀ (s : State) (src : CmdSrc) (b kept : Block) (c : Bytes) (r : Reply) (st : Status),
     ∀ e ∈ rowChecks s.ao b c r, fetch s.b src e.2.1 = .command b c r kept → e.2.2 = some st →
       exec (e.1 src) s = .next (s.after (endCommand b r st 0 0)))

/-- NOP, STATUS, RANDOM and SELFTEST (R103, R381, R395, R398): a passed NOP and SELFTEST end OK; STATUS reports the life cycle,
the boot stage, the certificate, viol and SEC_EVENTS; RANDOM writes its free bytes at the address given; SELFTEST wakes the quadrants and fences the
cores that failed theirs, and a failure of another test enters the error state without a completion.
R427, R428: TELEMETRY_READ writes the group's contents at the address given; LOG_CONFIGURE sets the ring and the trace (that a
PA may leave its chip ID 0 is the model's choice, log entry 104). -/
def Obligations.PlainServices : Prop :=
  (∀ (s : State) (src : CmdSrc) (b kept : Block) (c : Bytes) (r : Reply),
     (fetch s.b src 0x01 = .command b c r kept → listedOpcodes.contains (fieldAt c 0 1) = true → check0 b c r .any [] true = none →
       exec (.nop src) s = .next (s.after (endCommand b r .ok 0 0))) ∧
     (fetch s.b src 0x9B = .command b c r kept → check0 b c r .any [] true = none →
       exec (.status src) s = .next (s.after (endCommand b r .ok (lifeCycle s.ao + b.boot.stage * 2 ^ 8 +
         b2n b.sec.cert.isSome * 2 ^ 16 + b2n s.ao.viol * 2 ^ 17 + s.ao.secEvents * 2 ^ 32) 0))) ∧
     (∀ b', fetch s.b src 0x95 = .command b c r kept →
       check0 b c r .any [(16, 25)] (decide (1 ≤ fieldAt c 24 2) && decide (fieldAt c 24 2 ≤ 4096)) = none →
       writeVa (drbg b (fieldAt c 24 2)).2 r.vi clsControl (fieldAt c 16 8) (drbg b (fieldAt c 24 2)).1 = .ok b' →
       exec (.random src) s = .next (s.after (endCommand b' r .ok (fieldAt c 24 2) 0))) ∧
     (fetch s.b src 0x90 = .command b c r kept → check0 b c r .vi0 [] true = none →
       ∀ cores, exec (.selftest src { passed := true, badCores := cores }) s =
           .next (s.after (endCommand (fenceCores (wakeP2 b) cores) r .ok 0 0)) ∧
         exec (.selftest src { passed := false, badCores := cores }) s =
           .next (s.after (recForget (enterError (raise (wakeP2 b) 61 0)) 256)))) ∧
  (∀ (b : Block) (c : Nat), c < 192 → fenceCores b [c] = raise (b.setHealth .core c { state := .fenced }) 61 c) ∧
  (∀ (s : State) (src : CmdSrc) (b kept : Block) (c : Bytes) (r : Reply),
     (∀ d b', fetch s.b src 0x70 = .command b c r kept → check0 b c r .any [(16, 17), (24, 31)] true = none →
       telemetry b r.vi (fieldAt c 16 2) = .ok d → writeVa b r.vi clsControl (fieldAt c 24 8) d = .ok b' →
       exec (.telemetryRead src) s = .next (s.after (endCommand b' r .ok d.length 0))) ∧
     (fetch s.b src 0x71 = .command b c r kept →
       check0 b c r .vi0 [(16, 24)] (decide (fieldAt c 24 1 < 4) &&
         (!bitOf (fieldAt c 24 1) 0 || (fieldAt c 16 8 % 32 == 0 && (localPa b (fieldAt c 16 8)).isSome))) = none →
       exec (.logConfigure src) s = .next (s.after (endCommand { b with flt := { b.flt with
         ringPa := fieldAt c 16 8 % 2 ^ 48, ringOn := bitOf (fieldAt c 24 1) 0, ringIdx := 0
         traceOn := bitOf (fieldAt c 24 1) 1 } } r .ok 0 0))))

/-- R96: SQ_CREATE and CQ_CREATE take a free number within the quota and answer with it; that it is the lowest is the model's
choice (log entry 105).
R105: a queue being destroyed is out of use, its unstarted entries answered, and its destruction ends when the
started commands have; a completion queue takes its submission queues with it. -/
def Obligations.QueueCommands : Prop :=
  (∀ (s : State) (src : CmdSrc) (b kept : Block) (c : Bytes) (r : Reply) (i : Nat),
     (fetch s.b src 0x10 = .command b c r kept →
       check0 b c r .any [(16, 27)] (fieldAt c 16 8 % 4096 == 0 && decide (4 ≤ fieldAt c 24 1) &&
         decide (fieldAt c 24 1 ≤ 16) && decide (fieldAt c 25 1 ≤ 1)) = none →
       bindCq b r.vi (fieldAt c 26 2) = none → lowestIn b.rin.sqs.keys 32768 = some i →
       (b.rin.sqs.filter fun e => e.2.live && e.2.vi == r.vi).length < quotaOf b r.vi (·.sq) 32768 →
       exec (.sqCreate src) s = .next (s.after (endCommand (b.setSq i
         { live := true, vi := r.vi, base := fieldAt c 16 8, k := fieldAt c 24 1, direct := fieldAt c 25 1 == 1
           cq := fieldAt c 26 2 }) r .ok i 0))) ∧
     (fetch s.b src 0x12 = .command b c r kept →
       check0 b c r .any [(16, 26)] (fieldAt c 16 8 % 4096 == 0 && decide (4 ≤ fieldAt c 24 1) &&
         decide (fieldAt c 24 1 ≤ 16) && decide (fieldAt c 25 1 ≤ 1) && decide (fieldAt c 26 1 ≤ 63)) = none →
       lowestIn b.rin.cqs.keys 4096 = some i →
       (b.rin.cqs.filter fun e => e.2.live && e.2.vi == r.vi).length < quotaOf b r.vi (·.cq) 4096 →
       exec (.cqCreate src) s = .next (s.after (endCommand (b.setCq i
         { live := true, vi := r.vi, base := fieldAt c 16 8, k := fieldAt c 24 1, irq := fieldAt c 25 1 == 1
           group := fieldAt c 26 1 }) r .ok i 0)))) ∧
  (∀ (s : State) (src : CmdSrc) (b kept : Block) (c : Bytes) (r : Reply),
     (fetch s.b src 0x11 = .command b c r kept → check b c r .any (sqTarget b r.vi (cmdTarget c)) 0 [] true = none →
       exec (.sqDestroy src) s = .next (s.after (recForget (settleAll (killSq b (cmdTarget c) (some r))) 256))) ∧
     (fetch s.b src 0x13 = .command b c r kept → check b c r .any (cqTarget b r.vi (cmdTarget c)) 0 [] true = none →
       let bound := (b.rin.sqs.filter fun e => e.2.live && e.2.cq == cmdTarget c && !e.2.dying).map (·.1)
       let b' := bound.foldl (fun b i => killSq b i none) b
       exec (.cqDestroy src) s = .next (s.after (recForget
         (settleAll (b'.setCq (cmdTarget c) { b'.cq (cmdTarget c) with dying := true, owed := some r })) 256))) ∧
     (∀ i o, ((killSq b i o).sq i).dying = true ∧ ((killSq b i o).sq i).owed = o ∧
       ((b.sq i).direct = true ∨ (b.sq i).head = (b.sq i).tail →
         killSq b i o = b.setSq i { b.sq i with dying := true, owed := o })))

/-- R107: trackers are taken at the first fit and freed by their owner; a free of trackers that are not allocated is
DOUBLE_FREE, of another's NOT_OWNER, each with an event of source 53.
R112 to R114, R464: POOL_ALLOC takes the lowest fitting run of units of a bank within the quota; POOL_FREE by its owner
marks the buffer freeing and frees it once nobody names it; a refused free leaves the pool and raises source 53. -/
def Obligations.TrackersAndBuffers : Prop :=
  (∀ (s : State) (src : CmdSrc) (b kept : Block) (c : Bytes) (r : Reply),
     (fetch s.b src 0x14 = .command b c r kept →
       check0 b c r .any [(16, 27)] (fieldAt c 16 8 % 8 == 0 && decide (1 ≤ fieldAt c 24 4) &&
         decide (fieldAt c 24 4 ≤ 65536)) = none →
       let n := fieldAt c 24 4
       let first := firstFit n (b.rin.trackers.map (·.1)) 0
       first + n ≤ trackerSpace →
       (b.rin.trackers.filter fun e => e.2.vi == r.vi).length + n ≤ quotaOf b r.vi (·.trackers) trackerSpace →
       exec (.trackerAlloc src) s = .next (s.after (endCommand
         { b with rin := { b.rin with trackers := addTrackers b.rin.trackers first n r.vi (fieldAt c 16 8) } } r .ok first 0))) ∧
     (fetch s.b src 0x15 = .command b c r kept → cmdGen c = (b.vinst r.vi).gen →
       (trackerRows b r.vi (cmdTarget c) (fieldAt c 16 4) = none →
         check b c r .any none 0 [(16, 19)] true = none →
         let rest := b.rin.trackers.filter fun e => decide (e.1 < cmdTarget c) || decide (cmdTarget c + fieldAt c 16 4 ≤ e.1)
         exec (.trackerFree src) s = .next (s.after (endCommand { b with rin := { b.rin with trackers := rest } } r .ok 0 0))) ∧
       (∀ st, trackerRows b r.vi (cmdTarget c) (fieldAt c 16 4) = some st →
         exec (.trackerFree src) s = .next (s.after (endCommand
           (raise b 53 0 (status := st) (vi := r.vi) (detail := cmdTarget c)) r st 0 0))))) ∧
  (∀ (s : State) (src : CmdSrc) (b kept : Block) (c : Bytes) (r : Reply),
     (∀ u, fetch s.b src 0x40 = .command b c r kept →
       check0 b c r .any [(16, 19)] (decide (1 ≤ fieldAt c 16 2) &&
         (decide (fieldAt c 18 1 ≤ 4) || fieldAt c 18 1 == 0xFF) && decide (fieldAt c 19 1 ≤ 2)) = none →
       (((if fieldAt c 18 1 = 0xFF then [0, 1, 2, 3, 4] else [fieldAt c 18 1]).filterMap fun q =>
         fitIn b q (fieldAt c 16 2)).head?) = some u →
       unitsOf b r.vi + fieldAt c 16 2 ≤ quotaOf b r.vi (·.palette) poolUnits →
       ∃ p : PoolSlot, p.alloc = true ∧ p.units = fieldAt c 16 2 ∧ p.use = fieldAt c 19 1 ∧ p.vi = r.vi ∧
         p.count = ((b.pslot u).count + 1) % 65536 ∧ p.freeing = false ∧
         exec (.poolAlloc src) s = .next (s.after (endCommand (b.setPslot u p) r .ok
           (bufId u p + (if fieldAt c 19 1 = 2 then p.epoch else 0) * 2 ^ 32) (palOffset (u * 4096))))) ∧
     (fetch s.b src 0x41 = .command b c r kept → cmdTarget c < 2 ^ 32 →
       let u := cmdTarget c % 65536
       (poolRows b r.vi (cmdTarget c) = none →
         check b c r .any none (if (b.pslot u).use = 2 then (b.pslot u).epoch else 0) [] true = none →
         let b' := if (linesIn b u).any (fun e => e.2.dirty) then wakeP2 b else b
         exec (.poolFree src) s = .next (s.after
           (recForget (tryFree (b'.setPslot u { b.pslot u with freeing := true, owed := some r }) u) 256))) ∧
       (∀ st, cmdGen c = (b.vinst r.vi).gen → poolRows b r.vi (cmdTarget c) = some st →
         exec (.poolFree src) s = .next (s.after (endCommand
           (raise b 53 0 (status := st) (vi := r.vi) (detail := cmdTarget c)) r st 0 0)))))

/-- R118, R137, R140: a valid descriptor takes a slot of the pool within the quota and its handle is the result; a destroyed
handle's slot is free, and every other slot stays. A descriptor that cannot be read ends the command with the status and VA of
its failing access; one whose read is held lets the command wait.
R108: STREAM_OPEN gives the lowest free number of the port, STREAM_CLOSE takes it away. -/
def Obligations.CanvasesAndStreams : Prop :=
  (∀ (s : State) (src : CmdSrc) (b kept : Block) (c : Bytes) (r : Reply),
     (∀ d cv n, fetch s.b src 0x20 = .command b c r kept → check0 b c r .any [(16, 23)] (fieldAt c 16 8 % 8 == 0) = none →
       readVa b r.vi clsControl (fieldAt c 16 8) 128 = .ok d →
       validateCanvas (palNote b r.vi (fieldAt c 16 8) 128) r.vi d = .ok cv →
       let b1 := noteModuli (palNote b r.vi (fieldAt c 16 8) 128) r.vi cv
       pickSlot b1 = some n → canvasesOf b1 r.vi < quotaOf b1 r.vi (·.canvases) 16384 →
       exec (.canvasCreate src) s = .next (s.after
         (endCommand (takeSlot b1 n r.vi cv) r .ok (handleOf (takeSlot b1 n r.vi cv) n) 0))) ∧
     (∀ st va, fetch s.b src 0x20 = .command b c r kept → check0 b c r .any [(16, 23)] (fieldAt c 16 8 % 8 == 0) = none →
       readVa b r.vi clsControl (fieldAt c 16 8) 128 = .error (st, va) →
       (st ≠ .held → exec (.canvasCreate src) s = .next (s.after (lostCommand b r st va))) ∧
       (st = .held → exec (.canvasCreate src) s = .next (s.after (pursue kept 256 r.vi va)))) ∧
     (∀ (b : Block) (vi va n : Nat) (cv : Canvas), ∃ f g : Faults,
       palNote b vi va n = { b with flt := f } ∧ noteModuli b vi cv = { b with flt := g }) ∧
     (fetch s.b src 0x21 = .command b c r kept → check b c r .any (handleTarget b r.vi (cmdTarget c)) 0 [] true = none →
       exec (.canvasDestroy src) s = .next (s.after (endCommand (freeSlot b (cmdTarget c % 2 ^ 14)) r .ok 0 0))) ∧
     (∀ n, ((freeSlot b n).slot n).used = false ∧ ∀ i, i ≠ n → (freeSlot b n).slot i = b.slot i)) ∧
  (∀ (s : State) (src : CmdSrc) (b kept : Block) (c : Bytes) (r : Reply),
     (fetch s.b src 0x80 = .command b c r kept →
       check0 b c r .any [(16, 17), (24, 31)] (decide (fieldAt c 16 1 < 8) && decide (fieldAt c 17 1 ≤ 1)) = none →
       handleTarget b r.vi (fieldAt c 24 8) = none → (b.sport (fieldAt c 16 1)).openNos.length < 4096 →
       let p := b.sport (fieldAt c 16 1)
       let n := lowestFree (p.openNos.map (·.1)) 1
       exec (.streamOpen src) s = .next (s.after (endCommand (b.setSport (fieldAt c 16 1) { p with
         openNos := Tab.insert p.openNos n
           { egress := fieldAt c 17 1 == 1, vi := r.vi, handle := fieldAt c 24 8
             layout := (b.slot (fieldAt c 24 8 % 2 ^ 14)).canvas.layout, inbuf := [], ended := false } }) r .ok n 0))) ∧
     (fetch s.b src 0x81 = .command b c r kept → check b c r .any (streamTarget b r.vi (cmdTarget c)) 0 [] true = none →
       exec (.streamClose src) s = .next (s.after (endCommand
         (closeStream b (cmdTarget c % 256) (bitsOf (cmdTarget c) 31 16)) r .ok 0 0))) ∧
     (∀ p n, (((closeStream b p n).sport p).openNos.find? fun e => e.1 == n) = none))

/-- R143 to R145, R172, R182: PROGRAM_SUBMIT and CHAIN_SUBMIT bind their contexts, owe the completion and begin to fetch; with
no place free for every context of them they stay at the source with nothing bound; in a fenced quadrant they end with
TASK_ABORTED. -/
def Obligations.ProgramsBound : Prop :=
  ∀ (s : State) (src : CmdSrc) (b kept : Block) (c : Bytes) (r : Reply),
    (fetch s.b src 0x30 = .command b c r kept →
      check0 b c r .any [(16, 26)] (fieldAt c 16 8 % 32 == 0 && decide (1 ≤ fieldAt c 24 1) &&
        decide (fieldAt c 25 1 < 32) && (decide (fieldAt c 26 1 ≤ 3) || fieldAt c 26 1 == 0xFF)) = none →
      (∀ n, placeCtx b r.vi (fieldAt c 26 1) = .at n → exec (.programSubmit src) s = .next (s.after (recForget
        (bindCtx (wakeP2 b) n r.vi (Bind.of (fieldAt c 16 8) (fieldAt c 24 1) (fieldAt c 25 1)) (some r) none) 256))) ∧
      (placeCtx b r.vi (fieldAt c 26 1) = .full → exec (.programSubmit src) s = .next (s.after kept)) ∧
      (placeCtx b r.vi (fieldAt c 26 1) = .fenced →
        exec (.programSubmit src) s = .next (s.after (endCommand b r .taskAborted 0 0)))) ∧
    (∀ d, fetch s.b src 0x31 = .command b c r kept →
      check0 b c r .any [(16, 24)] (decide (2 ≤ fieldAt c 24 1) && decide (fieldAt c 24 1 ≤ 8)) = none →
      readVa b r.vi clsControl (fieldAt c 16 8) (32 * fieldAt c 24 1) = .ok d →
      let b0 := palNote b r.vi (fieldAt c 16 8) (32 * fieldAt c 24 1)
      let l := stageRecs (fieldAt c 24 1) d
      checkStages b0 r.vi l = none →
      (∀ b1 cs b2, bindStages (lowestFree b0.chains.keys 0) r.vi 0 l b0 [] = (b1, .ok cs) →
        writeStages r.vi (fieldAt c 16 8) 0 cs b1 = .ok b2 →
        ∃ ch : Chain, ch.live = true ∧ ch.stages = cs ∧ ch.owed = some r ∧ ch.rings.length = l.length - 1 ∧
          ch.job = (if jobOpen b2 b2.rin.nextJob then some b2.rin.nextJob else none) ∧
          exec (.chainSubmit src) s = .next (s.after (recForget (cs.foldl startFetch (wakeP2
            ((if ch.job.isSome then nextJob b2 else b2).setChain (lowestFree b0.chains.keys 0) ch))) 256))) ∧
      (∀ b1, bindStages (lowestFree b0.chains.keys 0) r.vi 0 l b0 [] = (b1, .error .full) →
        exec (.chainSubmit src) s = .next (s.after kept)) ∧
      (∀ b1, bindStages (lowestFree b0.chains.keys 0) r.vi 0 l b0 [] = (b1, .error .fenced) →
        exec (.chainSubmit src) s = .next (s.after (endCommand b0 r .taskAborted 0 0)))) ∧
    (∀ n vi l o ch, ∃ b0 : Block, bindCtx b n vi l o ch = (if ch.isNone then startFetch b0 n else b0) ∧
      b0.ctx n = { st := .running, epoch := ((b.ctx n).epoch + 1) % 256, vi := vi, gen := (b.vinst vi).gen, weight := l.weight
                   limit := l.limit, failPolicy := l.fail, prog := l.prog, pc := l.prog, owed := o, chain := ch } ∧
      (∀ d, d ≠ n → b0.ctx d = b.ctx d) ∧ b0.mem = b.mem ∧ b0.rin = b.rin)

/-- R176 to R179: CONTEXT_RESUME sets a halted context running with its completion owed again, keeps its unfinished
executions, fetches anew and lets the first go on as its check of it says; CONTEXT_ABORT stops a context's
issue and marks it, CONTEXT_INSPECT writes the 128-byte record. -/
def Obligations.ContextCommands : Prop :=
  ∀ (s : State) (src : CmdSrc) (b kept : Block) (c : Bytes) (r : Reply),
    let t := cmdTarget c
    (fetch s.b src 0x32 = .command b c r kept →
      check b c r .any (ctxTarget b r.vi t) (b.ctx t).epoch [] ((b.ctx t).st == .halted) = none →
      let b1 := wakeP2 (b.setCtx t { b.ctx t with
        st := .running, owed := some r, owedResult := false, ibuf := [], execs := unfinished (b.ctx t).execs
        haltSeq := none, haltStatus := 0, haltRetries := 0, faultVa := 0, resume := 0, mask := 0 })
      exec (.contextResume src) s = .next (s.after (recForget (startFetch (resumeNext b1 t) t) 256))) ∧
    ((b.ctx t).execs = [] → resumeNext b t = b) ∧
    (∀ e l, (b.ctx t).execs = e :: l → e.stopped = true → canIssue b t = true →
      (∀ b2 e', recheck b t e = (b2, .ok e') →
        resumeNext b t = (recForget b2 t).modCtx t fun x => { x with execs := e' :: l }) ∧
      (∀ b2 st va, st ≠ .held → recheck b t e = (b2, .error (st, va)) →
        resumeNext b t = haltBegin (recForget b2 t) t st va 0 (some e.seq)) ∧
      (∀ b2 va, recheck b t e = (b2, .error (.held, va)) → resumeNext b t = pursue b2 t (b2.ctx t).vi va)) ∧
    (fetch s.b src 0x33 = .command b c r kept → check b c r .any (ctxTarget b r.vi t) (b.ctx t).epoch [] true = none →
      let b1 := (abortSet b t).foldl (fun b d => (stopCtx b d).modCtx d fun x => { x with aborting := true, halting := none }) b
      exec (.contextAbort src) s =
        .next (s.after (recForget (settleAborts (b1.modCtx t fun x => { x with aborts := x.aborts ++ [r] })) 256))) ∧
    (∀ b', fetch s.b src 0x34 = .command b c r kept →
      check b c r .any (ctxTarget b r.vi t) (b.ctx t).epoch [(16, 23)] true = none →
      writeVa b r.vi clsControl (fieldAt c 16 8) (inspectRec (b.ctx t) (currentIns b t)) = .ok b' →
      exec (.contextInspect src) s = .next (s.after (endCommand b' r .ok 128 0)))

/-- R110, R115, R116: INSTANCE_CREATE gives an instance its template, root and next generation; INSTANCE_RESET and
INSTANCE_DESTROY move the generation on and stop the issue of its contexts; one that finds a reset under way joins it, an
INSTANCE_DESTROY follows it, and joins a destroy under way. A reset goes no further while a write of the instance is open; then
every tracker word is written, and once those writes too have been answered its resources are given up and the waiting commands
complete: after a reset the instance lives on with its new generation, after a destroy it is gone and its TLB entries with it. -/
def Obligations.InstanceCommands : Prop :=
  ∀ (s : State) (src : CmdSrc) (b kept : Block) (c : Bytes) (r : Reply),
    let v := cmdTarget c
    (fetch s.b src 0x50 = .command b c r kept → inService s.ao = true → v ≠ 0 → (b.vinst v).live = false →
      check b c r .vi0 none 0 [(16, 16), (24, 31)] (decide (v < 256) &&
        decide (fieldAt c 16 1 < b.setup.templates.length) && fieldAt c 24 8 % 2048 == 0 &&
        bitsOf (fieldAt c 24 8) 63 48 == 0xFFFF) = none →
      let g := ((b.vinst v).gen + 1) % 65536
      let tpl := b.setup.templates.getD (fieldAt c 16 1) {}
      exec (.instanceCreate src) s = .next (s.after (endCommand (b.setVinst v
        { live := true, gen := g, tpl := tpl, root := fieldAt c 24 8, bucket := tpl.depth }) r .ok g 0))) ∧
    (fetch s.b src 0x51 = .command b c r kept → check b c r .vi0 (viTarget b v) 0 [] true = none →
      ((b.vinst v).stage = 0 → exec (.instanceReset src) s =
        .next (s.after (recForget (settleWrites (beginReset (wakeP2 b) v false r)) 256))) ∧
      ((b.vinst v).stage ≠ 0 → exec (.instanceReset src) s =
        .next (s.after (recForget (b.setVinst v { b.vinst v with owed := (b.vinst v).owed ++ [r] }) 256)))) ∧
    (fetch s.b src 0x52 = .command b c r kept → check b c r .vi0 (viTarget b v) 0 [] true = none →
      ((b.vinst v).stage = 0 → exec (.instanceDestroy src) s =
        .next (s.after (recForget (settleWrites (beginReset (wakeP2 b) v true r)) 256))) ∧
      ((b.vinst v).stage ≠ 0 → (b.vinst v).destroying = true → exec (.instanceDestroy src) s =
        .next (s.after (recForget (b.setVinst v { b.vinst v with owed := (b.vinst v).owed ++ [r] }) 256))) ∧
      ((b.vinst v).stage ≠ 0 → (b.vinst v).destroying = false → exec (.instanceDestroy src) s =
        .next (s.after (recForget (b.setVinst v { b.vinst v with later := (b.vinst v).later ++ [r] }) 256)))) ∧
    (∀ (b : Block) (v : Nat) (d : Bool) (r : Reply),
      let t := beginReset b v d r
      t.vinst v = { b.vinst v with gen := ((b.vinst v).gen + 1) % 65536, stage := 4, destroying := d, owed := [r] } ∧
      (∀ u, u ≠ v → t.vinst u = b.vinst u) ∧ (∀ n, (t.ctx n).vi = v → canIssue t n = false) ∧ t.mem = b.mem) ∧
    (∀ (b : Block) (v : Nat), (b.vinst v).stage ≠ 0 →
      (openWrites b v ≠ [] → settleReset b v = b) ∧
      (openWrites b v = [] →
        let b1 := nextJob (endTrackers (b.setVinst v { b.vinst v with stage := 5 }) v)
        ((b1.rin.trackers.any fun e => e.2.vi == v) = true ∨ openWrites b1 v ≠ [] → settleReset b v = b1) ∧
        ((b1.rin.trackers.any fun e => e.2.vi == v) = false → openWrites b1 v = [] → settleReset b v = endReset b1 v))) ∧
    (∀ (b : Block) (v : Nat) (r : Reply), (b.vinst v).owed = [r] → (b.vinst v).later = [] →
      let t := endResources b v
      ((b.vinst v).destroying = false → endReset b v = complete (t.setVinst v
        { b.vinst v with stage := 0, owed := [], later := [], bucket := (b.vinst v).tpl.depth }) r .ok (b.vinst v).gen 0) ∧
      ((b.vinst v).destroying = true →
        endReset b v = complete ((tlbDrop t v).setVinst v { gen := (b.vinst v).gen }) r .ok (b.vinst v).gen 0) ∧
      (∀ e ∈ t.sec.keys, e.2.vi ≠ v) ∧ (∀ e ∈ t.rin.sqs, e.2.vi ≠ v) ∧ (∀ e ∈ t.rin.cqs, e.2.vi ≠ v) ∧
      (t.mbox v).busy = false)

/-- R379, R382 to R384: a Crypto Officer's service comes by the privileged mailbox with a type-1 token. The nonce is drawn again
at every check; a failed one is PERMISSION with a security event; by any other path the service is PERMISSION; while the
token's read is held the command waits. A command under a good token whose checks of R104 fail ends with their status.
R87, R400, R401, R404, R408: what each officer's service does once its token has passed (and PERMISSION where it has not):
ZEROISE overwrites the SSPs and orders a start with a destructive march; LIFECYCLE_ADVANCE programs the next state's bit;
with a DEVICE_SEED that reads badly in MANUFACTURE it is UNCORRECTABLE (R439);
FW_VERSION_RAISE programs the lowest free bits up to the version; SETUP_UPDATE writes the slot that is not active, and an image
that is not later than the active one is WRITE_ONCE.
DEBUG_UNLOCK (R383, R384, R447): under a type-2 token and an open policy the window opens for the policy's time. -/
def Obligations.OfficerServices : Prop :=
  (∀ (ao : AO) (b : Block) (c : Bytes) (r : Reply) (k : Cmd),
     (r.path = .privileged →
       (tokenOk ao b c 1 = .ok true → byOfficer k ao b c r = k ao (newNonce b 1) c r) ∧
       (tokenOk ao b c 1 = .ok false → byOfficer k ao b c r =
         (toAo (raise (newNonce b 1) 52 0 (status := .permission) (vi := r.vi)) .security, .now .permission 0 0)) ∧
       (∀ va, tokenOk ao b c 1 = .error va → byOfficer k ao b c r = (b, .lost .held va))) ∧
     (r.path ≠ .privileged → byOfficer k ao b c r = (b, .now .permission 0 0)) ∧
     (∀ ty, (newNonce b ty).sec.nonce = (drbg (notePa b b.rin.tokPa.toNat (if ty = 1 then 4755 else 7347)) 32).1)) ∧
  (∀ (s : State) (b kept : Block) (c : Bytes) (r : Reply), r.path = .privileged →
     let b1 := newNonce b 1
     (∀ e ∈ [(Instr.zeroise .privileged, 0x97), (.lifecycleAdvance .privileged, 0x98), (.fwVersionRaise .privileged, 0x99),
         (.setupUpdate .privileged, 0x60)], fetch s.b .privileged e.2 = .command b c r kept →
       (tokenOk s.ao b c 1 = .ok false →
         exec e.1 s = .next (s.after (endCommand (securityRecord b1 .permission r.vi) r .permission 0 0))) ∧
       (∀ va, tokenOk s.ao b c 1 = .error va → exec e.1 s = .next (s.after (pursue kept 256 r.vi va)))) ∧
     (tokenOk s.ao b c 1 = .ok true →
       (fetch s.b .privileged 0x97 = .command b c r kept →
         (∀ st, check0 b1 c r .vi0 [] true = some st →
           exec (.zeroise .privileged) s = .next (s.after (endCommand b1 r st 0 0))) ∧
         (check0 b1 c r .vi0 [] true = none →
           let z := orderStart (toAo (zeroSsps b1) .zeroised)
           exec (.zeroise .privileged) s =
             .next (s.after (recForget { z with boot := { z.boot with destructive := true } } 256)))) ∧
       (fetch s.b .privileged 0x98 = .command b c r kept →
         let k := check0 b1 c r .vi0 [(16, 16)] ((advances (lifeCycle s.ao)).contains (fieldAt c 16 1))
         (∀ st, k = some st →
           exec (.lifecycleAdvance .privileged) s = .next (s.after (endCommand b1 r st 0 0))) ∧
         (k = none → lifeCycle s.ao = 1 → seedBad s.ao = true →
           exec (.lifecycleAdvance .privileged) s = .next (s.after (endCommand b1 r .uncorrectable 0 0))) ∧
         (k = none → (lifeCycle s.ao ≠ 1 ∨ (seedBad s.ao = false ∧
             (fieldAt c 16 1 ≠ 2 ∨ otpProgrammed s.ao.shadow 13 9 = true))) →
           exec (.lifecycleAdvance .privileged) s =
             .next (s.after (recForget (orderStart (zeroSsps (toAo b1 (.fuse (fieldAt c 16 1 - 1))))) 256)))) ∧
       (fetch s.b .privileged 0x99 = .command b c r kept →
         let k := check0 b1 c r .vi0 [(16, 19)] (decide (fieldAt c 16 4 ≤ b1.boot.fwVersion) && decide (fieldAt c 16 4 ≤ 128))
         let n := otpCount s.ao 9 4
         let free := (List.range 128).filter fun i => !s.ao.fuses.contains (32 * 9 + i)
         (∀ st, k = some st →
           exec (.fwVersionRaise .privileged) s = .next (s.after (endCommand b1 r st 0 0))) ∧
         (k = none → exec (.fwVersionRaise .privileged) s = .next (s.after
           (endCommand ((free.take (fieldAt c 16 4 - n)).foldl (fun b i => toAo b (.fuse (32 * 9 + i))) b1) r .ok
             (max n (fieldAt c 16 4)) 0)))) ∧
       (fetch s.b .privileged 0x60 = .command b c r kept →
         let k := check0 b1 c r .vi0 [(16, 27)] (decide (4736 ≤ fieldAt c 24 4) && decide (fieldAt c 24 4 ≤ 4194304))
         (∀ st, k = some st →
           exec (.setupUpdate .privileged) s = .next (s.after (endCommand b1 r st 0 0))) ∧
         (∀ img, k = none → readPa b1 (fieldAt c 16 8) (fieldAt c 24 4) = .ok img →
           let b2 := notePa b1 (fieldAt c 16 8) (fieldAt c 24 4)
           (validImage b2.boot.setupKey img = none →
             exec (.setupUpdate .privileged) s = .next (s.after (endCommand b2 r .digestMismatch 0 0))) ∧
           ((validImage b2.boot.setupKey img).isSome = true → b2.boot.active.isSome = true →
             laterThan (fieldAt img 4 4) b2.boot.seq = false → exec (.setupUpdate .privileged) s =
               .next (s.after (endCommand (securityRecord b2 .writeOnce r.vi) r .writeOnce 0 0))) ∧
           (∀ b3, (validImage b2.boot.setupKey img).isSome = true →
             (b2.boot.active = none ∨ laterThan (fieldAt img 4 4) b2.boot.seq = true) →
             let slot := if b2.boot.active = some 0 then 1 else 0
             slotWrite (fieldAt c 24 4 / 256 + 1) (slotBase slot) img b2 = (b3, none) →
             slotReadBack b3 (slotBase slot) (fieldAt c 24 4) = none →
             exec (.setupUpdate .privileged) s = .next (s.after (endCommand b3 r .ok slot 0))))))) ∧
  (∀ (b : Block) (ch pa n : Nat) (d : Bytes), channelOf b pa = some ch → chanStatus b 256 ch (pa / 256) = none →
     domStatus b ch pa = none → d ≠ [] → d.length < 256 →
     slotWrite (n + 2) pa d b = (memWrite b ch pa d, none)) ∧
  (∀ (s : State) (src : CmdSrc) (b kept : Block) (c : Bytes) (r : Reply),
     fetch s.b src 0x9A = .command b c r kept →
     let b1 := newNonce b 2
     (r.vi ≠ 0 → exec (.debugUnlock src) s = .next (s.after (endCommand b r .permission 0 0))) ∧
     (r.vi = 0 → tokenOk s.ao b c 2 = .ok false →
       exec (.debugUnlock src) s = .next (s.after (endCommand (securityRecord b1 .permission r.vi) r .permission 0 0))) ∧
     (r.vi = 0 → tokenOk s.ao b c 2 = .ok true →
       (∀ p, otpBody s.ao 0xA = some p → unlockAllowed s.ao b1 p = true → check0 b1 c r .vi0 [] true = none →
         exec (.debugUnlock src) s = .next (s.after (endCommand { b1 with regs := { b1.regs with
           dbgUnlocked := true
           dbgUntil := if fieldAt p 32 2 = 0 then none else some (s.ao.aotime.toNat + fieldAt p 32 2 * perMs)
           dbgMask := fieldAt p 40 8 } } r .ok 0 0))) ∧
       (∀ p, otpBody s.ao 0xA = some p → unlockAllowed s.ao b1 p = false →
         exec (.debugUnlock src) s = .next (s.after (endCommand b1 r .permission 0 0)))))

/-- R386 to R388, R392, R403: a generated or imported key fills the lowest free slot of its owner; a destroyed one is revoked
at once; halves that are equal are drawn again, the command waiting at its source; a certificate that names this key and chip
is taken; ATTEST writes its signed report. -/
def Obligations.KeysAndIdentity : Prop :=
  ∀ (s : State) (src : CmdSrc) (b kept : Block) (c : Bytes) (r : Reply),
    (∀ i, fetch s.b src 0x92 = .command b c r kept → check0 b c r .tenant [] true = none → freeKey b r.vi = some i →
      let k := (drbg b 64).1
      (k.take 32 ≠ k.drop 32 →
        exec (.keyGenerate src) s = .next (s.after (endCommand (fillKey (drbg b 64).2 i r.vi k false) r .ok i 0))) ∧
      (k.take 32 = k.drop 32 → exec (.keyGenerate src) s =
        .next (s.after { kept with sec := (drbg b 64).2.sec, free := (drbg b 64).2.free }))) ∧
    (∀ i d, fetch s.b src 0x93 = .command b c r kept → check0 b c r .tenant [(16, 23)] true = none → freeKey b r.vi = some i →
      readVa b r.vi clsControl (fieldAt c 16 8) 1648 = .ok d →
      let b1 := palNote b r.vi (fieldAt c 16 8) 1648
      exec (.keyImport src) s = .next (s.after (match unwrapKey b1 r.vi d with
        | .ok k => endCommand (fillKey b1 i r.vi k true) r .ok i 0
        | .error st => endCommand b1 r st 0 0))) ∧
    (fetch s.b src 0x94 = .command b c r kept → check b c r .tenant (keyTarget b r.vi (cmdTarget c)) 0 [] true = none →
      let t := cmdTarget c
      let b1 := b.setKeySlot t { b.keySlot t with revoked := true, owed := some r }
      exec (.keyDestroy src) s = .next (s.after
        (recForget (settleWrites (if (dirtyUnder b1 t).isEmpty then b1 else wakeP2 b1)) 256))) ∧
    (∀ d, fetch s.b src 0x96 = .command b c r kept → check0 b c r .vi0 [(16, 23)] true = none →
      readVa b r.vi clsControl (fieldAt c 16 8) 4675 = .ok d →
      let b1 := palNote b r.vi (fieldAt c 16 8) 4675
      (b1.sec.identPub = [] ∨ certSigned b1 d b1.sec.identPub = false →
        exec (.identCertLoad src) s = .next (s.after (endCommand b1 r .digestMismatch 0 0))) ∧
      (b1.sec.identPub ≠ [] → certSigned b1 d b1.sec.identPub = true → fieldAt d 4 2 ≠ b1.setup.chipId →
        exec (.identCertLoad src) s = .next (s.after (endCommand b1 r .route 0 0))) ∧
      (b1.sec.identPub ≠ [] → certSigned b1 d b1.sec.identPub = true → fieldAt d 4 2 = b1.setup.chipId →
        exec (.identCertLoad src) s = .next (s.after (endCommand
          ((List.range 8).foldl (startSession s.ao) { b1 with sec := { b1.sec with cert := some d } }) r .ok 0 0)))) ∧
    (∀ b', fetch s.b src 0x91 = .command b c r kept → inService s.ao = true → check0 b c r .any [(16, 55)] true = none →
      let m := report s.ao (drbg b 32).2 r.vi (sliceAt c 16 32)
      let d := m ++ sliceAt (Config.mldsaSign (drbg b 32).2.sec.identPriv m (drbg b 32).1) 0 4627
      writeVa (drbg b 32).2 r.vi clsControl (fieldAt c 48 8) d = .ok b' →
      exec (.attest src) s = .next (s.after (endCommand b' r .ok d.length 0)))

/-! ### Channel programs

`canStep s.b c` says that context c may begin its next instruction, `fetchInstr s.b c = (b, .ok i)` that its bytes i stand in
the context's buffer (b is s.b). After an instruction that goes on, `startFetch` fetches further when it is time (R145). -/

/-- R148, R149, R150, R161, R187: each data instruction whose plan passes every check, and whose footprints meet no earlier one, begins as an
execution with the next number and the program counter moves on; a predicate that disagrees passes it over; an
encoding that is not legal halts the context, with no execution before it, with BAD_OPCODE.
R145: the next 256 bytes are asked for when 8 buffered instructions remain and no fetch is under way; an address that misses
in the TLBs walks first, one that fails is met when its instruction is due. -/
def Obligations.DataInstructions : Prop :=
  ∀ (s : State) (c op : Nat) (ins : Instr) (b : Block) (i : Bytes),
    (ins, op) ∈ [(Instr.move c, 1), (Instr.gather c, 2), (Instr.scatter c, 3), (Instr.maskmove c, 4), (Instr.expand c, 5),
      (Instr.automorph c, 6), (Instr.rnscast c, 7), (Instr.reduce c, 8), (Instr.corner c, 9)] →
    canStep s.b c = true → fetchInstr s.b c = (b, .ok i) → fieldAt i 0 1 = op →
    let x := b.ctx c
    (dataLegal i = true → skipped x i = true → exec ins s = .next (s.after (goOn (advance b c) c))) ∧
    (∀ b' e, dataLegal i = true → skipped x i = false → x.execs.length < execLimit →
      planExec b c i (x.loops.map (·.it)) x.nextSeq x.pc = (b', .ok e) → footBlocked x e = false → e.units ≠ [] →
      exec ins s = .next (s.after (goOn (b'.setCtx c { b'.ctx c with
        pc := x.pc + 32, nextSeq := x.nextSeq + 1, paced := none
        execs := (b'.ctx c).execs ++ [{ e with line := x.paced, lefts := x.loops.map (·.left) }] }) c))) ∧
    (dataLegal i = false → (s.b.ctx c).execs = [] →
      exec ins s = .next (s.after (haltNow b c .badOpcode))) ∧
    (∀ b : Block, (b.ctx c).fetch.isSome = true ∨ 8 < buffered (b.ctx c).ibuf 16 (b.ctx c).pc → startFetch b c = b) ∧
    (∀ (b : Block), canIssue b c = true → (b.ctx c).fetch = none →
      (b.ctx c).fetchBad = none → buffered (b.ctx c).ibuf 16 (b.ctx c).pc ≤ 8 →
      let va := (b.ctx c).pc + 32 * buffered (b.ctx c).ibuf 16 (b.ctx c).pc
      let b1 := b.setCtx c { b.ctx c with fetch := some { va := va, len := 256 } }
      (∀ b2 l, xlPieces c clsControl (pieces 3 va 256) b1 = (b2, .ok l) → startFetch b c = l.foldl (issueFetch c) b2) ∧
      (∀ b2 at_, xlPieces c clsControl (pieces 3 va 256) b1 = (b2, .miss at_) →
        startFetch b c = startWalk b2 (.fetch c at_) (b.ctx c).vi at_) ∧
      (∀ b2 st at_, xlPieces c clsControl (pieces 3 va 256) b1 = (b2, .fail st at_) →
        startFetch b c = failFetch (faultPin b2 (b.ctx c).vi at_ c st) c st at_ 0))

/-- R158: LOOP opens a level or, with count 0, passes its body over; ENDLOOP goes back with one iteration fewer and the
index one higher, or closes the level; more than four levels, an end offset of 0, an ENDLOOP outside every loop, or one that is
not at the end its level names, halts with BOUNDS. -/
def Obligations.Loops : Prop :=
  ∀ (s : State) (c : Nat) (b : Block) (i : Bytes), canStep s.b c = true → fetchInstr s.b c = (b, .ok i) →
    let x := b.ctx c
    (fieldAt i 0 1 = 0x10 → zeros i 1 3 = true → zeros i 12 31 = true → 0 < fieldAt i 8 4 → x.loops.length < 4 →
      (0 < fieldAt i 4 4 → exec (.loop c) s = .next (s.after (goOn (b.setCtx c { x with
        pc := x.pc + 32
        loops := x.loops ++ [{ start := x.pc, stop := x.pc + 32 * fieldAt i 8 4, left := fieldAt i 4 4, it := 0 }] }) c))) ∧
      (fieldAt i 4 4 = 0 → exec (.loop c) s =
        .next (s.after (goOn (b.setCtx c { x with pc := x.pc + 32 * fieldAt i 8 4 + 32 }) c)))) ∧
    (∀ l, fieldAt i 0 1 = 0x11 → zeros i 1 31 = true → x.loops.getLast? = some l → l.stop = x.pc →
      (l.left ≤ 1 → exec (.endloop c) s =
        .next (s.after (goOn (b.setCtx c { x with pc := x.pc + 32, loops := x.loops.dropLast }) c))) ∧
      (1 < l.left → exec (.endloop c) s = .next (s.after (goOn (b.setCtx c { x with
        pc := l.start + 32
        loops := x.loops.dropLast ++ [{ l with left := l.left - 1, it := (l.it + 1) % 2 ^ 32 }] }) c)))) ∧
    (fieldAt i 0 1 = 0x11 → zeros i 1 31 = true → x.loops = [] → (s.b.ctx c).execs = [] →
      exec (.endloop c) s = .next (s.after (haltNow b c .bounds))) ∧
    (∀ l, fieldAt i 0 1 = 0x11 → zeros i 1 31 = true → x.loops.getLast? = some l → l.stop ≠ x.pc → (s.b.ctx c).execs = [] →
      exec (.endloop c) s = .next (s.after (haltNow b c .bounds))) ∧
    (fieldAt i 0 1 = 0x10 → zeros i 1 3 = true → zeros i 12 31 = true → fieldAt i 8 4 = 0 → (s.b.ctx c).execs = [] →
      exec (.loop c) s = .next (s.after (haltNow b c .bounds))) ∧
    (fieldAt i 0 1 = 0x10 → zeros i 1 3 = true → zeros i 12 31 = true → 4 ≤ x.loops.length → (s.b.ctx c).execs = [] →
      exec (.loop c) s = .next (s.after (haltNow b c .bounds)))

/-- R163 to R166: a WAIT whose condition holds passes at once, taking its line or its queue entries; else the context waits with
the instruction's timeout, a flag's also while its word is under way.
R163 to R166, R348: a waiting context whose condition now holds goes on to its next instruction, one whose word fails its
compare waits on; one whose timeout ends halts
with TASK_ABORTED; the deadline of a collective halts it with LINK_DOWN where a port of the group is not ready.
R100: an END that waited for room in its completion queue is taken up again once there is. -/
def Obligations.Waits : Prop :=
  (∀ (s : State) (c : Nat) (b : Block) (i : Bytes), canStep s.b c = true → fetchInstr s.b c = (b, .ok i) →
     fieldAt i 0 1 = 0x12 → waitLegal i = true → skipped (b.ctx c) i = false →
     (∀ cv j b', fieldAt i 2 1 = 0 → flagElem b (b.ctx c) i false = .ok (cv, j) →
       flagBlocked (b.ctx c) (elemVa cv j) (bytesOf cv.type) = false →
       let wait := block b' c (.flag (elemVa cv j) (bytesOf cv.type) (fieldAt i 3 1) (fieldAt i 24 8) cv.cached) (fieldAt i 4 4)
       (readFlag b c cv.cached (elemVa cv j) (bytesOf cv.type) = (b', .pending) →
         exec (.waitFlag c) s = .next (s.after (goOn wait c))) ∧
       (readFlag b c cv.cached (elemVa cv j) (bytesOf cv.type) = (b', .stay) → exec (.waitFlag c) s =
         .next (s.after (b'.modCtx c fun x => { x with stuckAt := some x.pc })))) ∧
     (fieldAt i 2 1 = 1 → 16 * quadOfCtx c ≤ fieldAt i 16 1 → fieldAt i 16 1 ≤ 16 * quadOfCtx c + 15 →
       exec (.waitRequestLine c) s = .next (s.after
         (goOn (if lineBusy b c (fieldAt i 16 1) then block b c (.line (fieldAt i 16 1)) (fieldAt i 4 4)
           else advance (takeLineFor b c (fieldAt i 16 1)) c) c))) ∧
     (fieldAt i 2 1 = 2 → (b.sq (fieldAt i 16 2)).usable = true → (b.sq (fieldAt i 16 2)).direct = true →
       (b.sq (fieldAt i 16 2)).vi = (b.ctx c).vi → 0 < fieldAt i 21 1 → fieldAt i 21 1 ≤ fieldAt i 26 2 →
       fieldAt i 26 2 ≤ fieldAt i 24 2 → fieldAt i 24 2 ≤ (b.sq (fieldAt i 16 2)).size - 1 →
       exec (.waitQueueLevel c) s = .next (s.after
         (let y := levelStep b c (fieldAt i 16 2) (fieldAt i 21 1) (fieldAt i 24 2) (fieldAt i 26 2)
          goOn (if y.2 then advance y.1 c
            else block y.1 c (.level (fieldAt i 16 2) (fieldAt i 21 1) (fieldAt i 24 2) (fieldAt i 26 2)) (fieldAt i 4 4)) c)))) ∧
  (∀ (s : State) (c : Nat), canWake s.b c = true →
     (∀ l, (s.b.ctx c).wait = some (.line l) → lineBusy s.b c l = false →
       exec (.waitSatisfied c) s = .next (s.after (startFetch (wake (takeLineFor s.b c l) c) c))) ∧
     (∀ q n h l, (s.b.ctx c).wait = some (.level q n h l) →
       exec (.waitSatisfied c) s = .next (s.after
         (let y := levelStep s.b c q n h l
          if y.2 then startFetch (wake y.1 c) c else y.1))) ∧
     (∀ va n cmp v k, (s.b.ctx c).wait = some (.flag va n cmp v k) →
       let ins := if flagWatched s.b (s.b.ctx c).vi va then Instr.waitSatisfied c else .flagPoll c
       ((s.b.ctx c).load.isSome = true → exec ins s = .next (s.after s.b)) ∧
       ((s.b.ctx c).load = none →
         (∀ b, readFlag s.b c k va n = (b, .pending) → exec ins s = .next (s.after b)) ∧
         (∀ b, readFlag s.b c k va n = (b, .stay) → exec ins s = .next (s.after b)) ∧
         (∀ b st at_, readFlag s.b c k va n = (b, .failed st at_) →
           exec ins s = .next (s.after (haltBegin (faultPin b (b.ctx c).vi at_ c st) c st at_))))) ∧
     ((s.b.ctx c).wait = some .cqFull → endStuck s.b c = false → exec (.waitSatisfied c) s =
       .next (s.after (s.b.modCtx c fun x => { x with st := .running, wait := none }))) ∧
     (∀ l, (s.b.ctx c).wait = some (.line l) → (s.b.ctx c).timeout ≠ 0 →
       exec (.waitTimeout c) s = .next (s.after (haltBegin s.b c .taskAborted 0))) ∧
     (∀ g r, waitGroup s.b c = some g → s.b.setup.groups[g]? = some r →
       exec (.collectiveTimeout c) s = .next (s.after (haltBegin s.b c
         (if (portsOfGroup r).all fun p => linkReady s.b p then .taskAborted else .linkDown) 0)))) ∧
  (∀ (b : Block) (c q n h l : Nat),
     let go := if (b.ctx c).hystQ == some q && (b.ctx c).hystHigh then decide (l ≤ (b.sq q).fill) else decide (h ≤ (b.sq q).fill)
     (go = true → levelStep b c q n h l = ((b.setSq q { b.sq q with
       fill := (b.sq q).fill - n, head := ((b.sq q).head + n) % (b.sq q).size }).setCtx c
         { b.ctx c with hystQ := some q, hystHigh := true }, true)) ∧
     (go = false → levelStep b c q n h l = (b.setCtx c { b.ctx c with hystQ := some q, hystHigh := false }, false))) ∧
  (∀ (b : Block) (c va n cmp v w : Nat) (k : Bool),
     wake b c = b.modCtx c (fun x => { x with st := .running, wait := none, timeout := 0, pc := x.pc + 32 }) ∧
     (n = 4 ∨ n = 8 → w < 2 ^ (8 * n) → v < 2 ^ (8 * n) →
       (flagCmp 0 n w v = true ↔ w = v) ∧ (flagCmp 1 n w v = true ↔ w ≠ v) ∧ (flagCmp 2 n w v = true ↔ v ≤ w) ∧
       (flagCmp 3 n w v = true ↔ (w + 2 ^ (8 * n) - v) % 2 ^ (8 * n) < 2 ^ (8 * n - 1))) ∧
     block b c (.flag va n cmp v k) w = b.modCtx c (fun x =>
       { x with st := .waiting, wait := some (.flag va n cmp v k), timeout := w, slip := 0 })) ∧
  (∀ (b : Block) (a : Acc) (d : Bytes) (c va n cmp v : Nat) (k : Bool) (l : SmallRead),
     ((flagGot b c a d).ctx c).load = some l → ((flagGot b c a d).ctx c).wait = some (.flag va n cmp v k) →
     let b1 := (flagGot b c a d).setCtx c { (flagGot b c a d).ctx c with load := none }
     (l.whole = false → flagArrived b c a d = flagGot b c a d) ∧
     (l.whole = true → canWake b1 c = true → flagArrived b c a d =
       if flagCmp cmp n (leNat (l.got.map (·.2))) v then startFetch (wake b1 c) c else b1))

/-- R167, R168, R239, R306: a SIGNAL without FINAL acts at once, one that writes on another chip once the earlier writes have
been issued, and the program counter moves on; with FINAL the drain begins.
R107, R167: a tracker's word is written when its count changes, then the count; a shift signal moves its canvas's shift.
R168: END begins the drain; DRAIN_COMPLETE goes on with it: once every write is acknowledged the last granule of each
destination is read back, and with every access answered an ended program posts its
completion and is unbound, a FINAL signal acts and the program goes on. -/
def Obligations.SignalsAndDrains : Prop :=
  (∀ (s : State) (c : Nat) (b : Block) (i : Bytes) (ins : Instr) (k : Nat),
     (ins, k) ∈ [(Instr.signalFlag c, 0), (Instr.signalTracker c, 1), (Instr.signalShift c, 2)] →
     canStep s.b c = true → fetchInstr s.b c = (b, .ok i) → fieldAt i 0 1 = 0x13 → fieldAt i 2 1 = k →
     signalLegal i = true → skipped (b.ctx c) i = false →
     ∀ act, signalAct b (b.ctx c) i = .ok act →
       (∀ b', bitOf (fieldAt i 1 1) 2 = false → writesHeld (b.ctx c) = false → actBlocked (b.ctx c) act = false →
         (remoteAct b (b.ctx c) act = false ∨ ((b.ctx c).execs.all fun e => e.dfoot.isNone || allIssued e) = true) →
         doSignal b c act = .go b' → exec ins s = .next (s.after (goOn (advance b' c) c))) ∧
       (bitOf (fieldAt i 1 1) 2 = true → exec ins s = .next (s.after (goOn
         (drainStep c (b.setCtx c { b.ctx c with drain := some { act := some act, readbacks := false } })) c)))) ∧
  (∀ (b : Block) (c : Nat),
     (∀ n u apply v, (b.slot n).used = true → (b.slot n).uses = u →
       doSignal b c (.shift n u apply v) = .go (b.setSlot n (signalShift apply v (b.slot n)))) ∧
     (∀ t add v k b', trackerAt b t = some k →
       let n := if add then (k.count + v) % 2 ^ 32 else v % 2 ^ 32
       (k.told = true → n = k.count → doSignal b c (.tracker t add v) = .go b) ∧
       (k.told = false ∨ n ≠ k.count →
         issueWrite b c clsControl false none k.va (trackerWord n 0 (b.vinst k.vi).gen) = .go b' →
         doSignal b c (.tracker t add v) = .go (setTracker b' t { k with count := n, told := true })))) ∧
  (∀ (s : State) (c : Nat),
     (∀ b i, canStep s.b c = true → fetchInstr s.b c = (b, .ok i) → fieldAt i 0 1 = 0x1F → zeros i 1 31 = true →
       exec (.endProgram c) s = .next (s.after (goOn
         (drainStep c (b.setCtx c { b.ctx c with drain := some { act := none, readbacks := false } })) c))) ∧
     (∀ d, quadUp s.b (quadOfCtx c) = true → (s.b.ctx c).drain = some d → (s.b.ctx c).halting = none →
       (s.b.ctx c).aborting = false → drained s.b c = true → (s.b.ctx c).st = .running → viFree s.b (s.b.ctx c).vi = true →
       (d.readbacks = false → (s.b.ctx c).lastW ≠ [] → exec (.drainComplete c) s = .next (s.after
         ((s.b.ctx c).lastW.foldl (fun b e => readback b c e)
           (s.b.setCtx c { s.b.ctx c with drain := some { d with readbacks := true } })))) ∧
       (d.readbacks = true ∨ (s.b.ctx c).lastW = [] → drainAccs s.b c = [] →
         (d.act = none → exec (.drainComplete c) s = .next (s.after (endContext s.b c))) ∧
         (∀ act b', d.act = some act → doSignal (s.b.setCtx c { s.b.ctx c with drain := none, lastW := [] }) c act = .go b' →
           exec (.drainComplete c) s = .next (s.after (startFetch (advance b' c) c)))))) ∧
  (∀ (b : Block) (c : Nat), endStuck b c = false → (b.ctx c).chain = none →
     endContext b c = unbind (postOwed b c .ok 0) c)

/-- R169, R170, R171, R173, R300: FENCE passes when its qualifiers hold, else stands until FENCE_COMPLETE; FLUSH of an uncached canvas
passes, of a cached one it writes the dirty lines back once the executions before it that write there have ended (R303); PRED
takes its comparison when its word has come; CHAIN publishes the open slot of the ring below once the executions
that write to a ring have ended. -/
def Obligations.FencesAndOthers : Prop :=
  ∀ (s : State) (c : Nat),
    (∀ b i, canStep s.b c = true → fetchInstr s.b c = (b, .ok i) →
      (fieldAt i 0 1 = 0x14 → (zeros i 1 1 && decide (fieldAt i 2 1 < 8) && zeros i 3 31) = true → (b.ctx c).fence = none →
        let f : Fence := { seq := (b.ctx c).nextSeq, rd := bitOf (fieldAt i 2 1) 0, wr := bitOf (fieldAt i 2 1) 1
                           sc := bitOf (fieldAt i 2 1) 2 }
        exec (.fence c) s = .next (s.after
          (goOn (if fenceHolds b c f then advance b c
            else b.setCtx c { b.ctx c with pc := (b.ctx c).pc + 32, fence := some f }) c))) ∧
      (∀ n, fieldAt i 0 1 = 0x15 →
        (fieldAt i 1 1 / 4 == 0 && decide (fieldAt i 2 1 < 2) && zeros i 3 7 && zeros i 16 31) = true →
        skipped (b.ctx c) i = false → checkNamed b (b.ctx c).vi (fieldAt i 8 8) = .ok n →
        ((b.slot n).canvas.cached = false → exec (.flush c) s = .next (s.after (goOn (advance b c) c))) ∧
        ((b.slot n).canvas.cached = true → flushWaits (b.ctx c) (b.slot n).canvas = false → writesHeld (b.ctx c) = false →
          ((linesUnder b (b.ctx c).vi (b.slot n).canvas).any fun e => e.2.writing || e.2.filling) = false →
          let ls := linesUnder b (b.ctx c).vi (b.slot n).canvas
          let b1 := if ls.any fun e => e.2.dirty then wakeP2 b else b
          let b2 := ls.foldl (fun b e => flushLine b c (bitOf (fieldAt i 2 1) 0) e) b1
          exec (.flush c) s = .next (s.after (goOn (if flushing b2 c then b2 else advance b2 c) c)))) ∧
      (∀ cv j b', fieldAt i 0 1 = 0x16 →
        (zeros i 1 1 && decide (fieldAt i 2 1 < 4) && zeros i 3 7 && zeros i 21 23) = true →
        flagElem b (b.ctx c) i false = .ok (cv, j) → flagBlocked (b.ctx c) (elemVa cv j) (bytesOf cv.type) = false →
        (readFlag b c cv.cached (elemVa cv j) (bytesOf cv.type) = (b', .pending) →
          exec (.pred c) s = .next (s.after (goOn
            (b'.modCtx c fun x => { x with wait := some (.pred (fieldAt i 2 1) (fieldAt i 24 8)) }) c))) ∧
        (readFlag b c cv.cached (elemVa cv j) (bytesOf cv.type) = (b', .stay) → exec (.pred c) s =
          .next (s.after (b'.modCtx c fun x => { x with stuckAt := some x.pc })))) ∧
      (∀ n k r, fieldAt i 0 1 = 0x17 → (decide (fieldAt i 1 1 < 2) && zeros i 2 31) = true →
        ((b.ctx c).execs.any fun e => bitsOf (fieldAt e.ins 2 1) 7 6 == 2) = false →
        downRing b (b.ctx c) = some (n, k, r) → r.cur ≠ [] → r.full.length < r.count →
        exec (.chain c) s = .next (s.after (goOn (advance (setRing b n k { r with
          full := r.full ++ [r.cur], cur := [], eoc := r.eoc || bitOf (fieldAt i 1 1) 0 }) c) c)))) ∧
    (∀ f, (s.b.ctx c).fence = some f → canIssue s.b c = true → fenceHolds s.b c f = true →
      exec (.fenceComplete c) s = .next (s.after (s.b.setCtx c { s.b.ctx c with fence := none }))) ∧
    (∀ (b : Block) (cmp w v : Nat),
      (predDone b c cmp w v).ctx c = { b.ctx c with
        pred := (match cmp with
          | 0 => w == v
          | 1 => w != v
          | 2 => w &&& v != 0
          | _ => w &&& v == 0)
        wait := none, pc := (b.ctx c).pc + 32 } ∧
      (∀ d, d ≠ c → (predDone b c cmp w v).ctx d = b.ctx d) ∧ (predDone b c cmp w v).mem = b.mem) ∧
    (∀ (b : Block) (a : Acc) (d : Bytes) (cmp v : Nat) (l : SmallRead), ((flagGot b c a d).ctx c).load = some l → l.whole = true →
      ((flagGot b c a d).ctx c).wait = some (.pred cmp v) →
      let b1 := (flagGot b c a d).setCtx c { (flagGot b c a d).ctx c with load := none }
      canIssue b1 c = true → flagArrived b c a d = startFetch (predDone b1 c cmp (leNat (l.got.map (·.2))) v) c)

/-- R174, R176, R181, R182, R185, R191: admission gives the next unit whose sides are ready a lane of its quadrant that is not
fenced, where it begins to read; with none ready, contexts that wait for a ring are waiting; it halts the contexts of a fenced
quadrant. That a resumed execution and units that wait for a decoder are looked at again there is `refresh` (log entry 68).
A ring slot handed on lets
the waiting stage run; a delivered unit commits with its digests and its bursts counted; a halt begins once and leaves what the
context was at, and one whose accesses have all answered stops its context. -/
def Obligations.UnitsAndHalts : Prop :=
  (∀ (s : State) (q : Nat), quadUp s.b q = true → quadFenced s.b q = false →
    (∀ c e u l, nextAdmitted (refresh s.b q) q = some (c, e, u, l) →
      exec (.unitAdmission q) s = .next (s.after (enterLane (refresh s.b q) q l c e u))) ∧
    (nextAdmitted (refresh s.b q) q = none → exec (.unitAdmission q) s = .next (s.after (waitRings (refresh s.b q) q)))) ∧
  (∀ (b : Block) (q c l : Nat) (e : Exec) (u : WorkUnit), nextAdmitted b q = some (c, e, u, l) →
    quadOfLane l = q ∧ b.isFenced .lane l = false ∧ quadOfCtx c = q ∧ canIssue b c = true ∧ e.stopped = false ∧
    sideReady b c e u = true ∧ roomFor (heldOf e u) (((lanesHeld b q).filter fun h => h.1 == l).map (·.2)) = true) ∧
  (∀ (b : Block) (q c l : Nat) (e : Exec) (u : WorkUnit), e.kindS = 0 → e.kindD = 0 → e.decodes = false → e.race = false →
    iOp e.ins ≠ opExpand → u.fail = none → unitStreams e u = [] → u.runs ≠ [] → e ∈ (b.ctx c).execs → u ∈ e.units →
    (∀ f ∈ (b.ctx c).execs, f.seq = e.seq → f = e) → (∀ v ∈ e.units, v.n = u.n → v = u) →
    enterLane b q l c e u = modUnit { b with flt := { b.flt with lastLane := setAt b.flt.lastLane q l } } c e.seq u.n
      fun u => { u with phase := .reading, lane := some l, onLane := true }) ∧
  (∀ (s : State) (q : Nat), quadUp s.b q = true → quadFenced s.b q = true →
    exec (.unitAdmission q) s = .next (s.after ((withUnits s.b q).foldl (fun b c => haltBegin b c .taskAborted 0) s.b))) ∧
  (∀ (s : State) (c : Nat), canIssue s.b c = true → (s.b.ctx c).st = .waiting → (s.b.ctx c).wait = some .ring →
    ((s.b.ctx c).execs.any fun e => match nextUnit s.b e with
      | some u => (e.kindS == 2 || e.kindD == 2) && sideReady s.b c e u
      | none => false) = true →
    exec (.ringSlotHandover c) s = .next (s.after (s.b.setCtx c { s.b.ctx c with st := .running, wait := none }))) ∧
  (∀ (s : State) (c q n : Nat) (e : Exec) (u : WorkUnit), s.b.exec? c q = some e → e.unit? n = some u →
    e.stopped = false → delivered s.b c e u = true →
    let nums := (List.range u.nBursts).map (u.firstBurst + ·)
    let b1 := modExec (mergeInto s.b e u.stats) c q fun e =>
      { e with dsrc := digestAdd e.dsrc u.dsrc, ddst := digestAdd e.ddst u.ddst
               doneBursts := e.doneBursts ++ nums.filter fun k => !e.doneBursts.contains k }
    let b2 := releaseLanes (modUnit b1 c q n fun u => { u with phase := .committed }) c
    exec (.unitCommit c q n) s = .next (s.after (match b2.exec? c q with
      | none => b2
      | some e => if e.units.all fun u => u.phase == .committed then endExec b2 c e else b2))) ∧
  (∀ (b : Block) (c : Nat) (st : Status) (va k : Nat) (q : Option Nat),
    ((b.ctx c).halting.isSome = true ∨ (b.ctx c).st = .halted ∨ (b.ctx c).st = .free → haltBegin b c st va k q = b) ∧
    ((b.ctx c).halting = none → (b.ctx c).st = .running ∨ (b.ctx c).st = .waiting → (b.ctx c).aborting = false →
      haltBegin b c st va k q = b.setCtx c { b.ctx c with
        halting := some (st, va), haltRetries := k, haltSeq := q
        haltPc := match q.bind fun n => (b.ctx c).execs.find? fun e => e.seq == n with
          | some e => e.pcA
          | none => (b.ctx c).pc })) ∧
  (∀ (s : State) (c : Nat), halted s.b c = true → exec (.halt c) s = .next (s.after
    (finishHalt ((s.b.ctx c).execs.foldl (fun b e => endEncoder b c e.seq) s.b) c)))

/-- R355 to R361, R463: a grant point gives one burst, request, flit slot, ring beat or Palette word to the requester its rule
chooses; a beat of data crosses its hop, and with its last one the data goes on to the next hop or has arrived (R183, R184); a
word of a bank goes to an access, and with its last one the access is served; a window boundary of a running island clears its
window counter and renews its counters. That the dual-port region counts on CT's boundaries is the model's choice (log entry 100).
R359: a locked sequence holds its path's first slots while its owner waits, up to 16 grants.
R363: a channel spends a credit, a tag, one of its window's budget and a token of the access's class, one with a token first; with
its budget used up it grants nothing. R364: a channel's boundary sets the budget by its thermal state. -/
def Obligations.GrantsAndWindows : Prop :=
  ((∀ (s : State) (q : Nat) (w : Bool),
     exec (.burstGrant (.context q w)) s = .next (s.after (settleWrites (grantCtx s.b q w)))) ∧
   (∀ (s : State) (n : Nat) (w : Bool), n < 24 → islandUp s.b (5 + n) = true →
     exec (.burstGrant (.channel n w)) s = .next (s.after (settleWrites (grantChan s.b n w)))) ∧
   (∀ (s : State) (h r : Nat),
     let a := (s.b.arbAt (arbRing h)).unmark (hopWaiting s.b h)
     a.choose (weightOf s.b) (hopWaiting s.b h) = some r →
     let b := s.b.setArb (arbRing h) (a.charge (weightOf s.b) r)
     exec (.burstGrant (.ring h)) s = .next (s.after (settleWrites (hopBeat b h r)))) ∧
   (∀ (s : State) (k r : Nat),
     let a := (s.b.arbAt (arbPal k)).unmark (palWaiting s.b k)
     a.choose (weightOf s.b) (palWaiting s.b k) = some r →
     let b := s.b.setArb (arbPal k) (a.charge (weightOf s.b) r)
     exec (.burstGrant (.palette k)) s = .next (s.after (settleWrites (palWord b k r)))) ∧
   (∀ (s : State) (p : Nat), p < 8 → islandUp s.b (29 + p) = true →
     exec (.burstGrant (.egress p)) s = .next (s.after (grantEgress s.b p))) ∧
   (∀ (s : State) (i : Nat), i < 38 → islandUp s.b i = true → (i < 5 → s.b.power.state ≤ 1) →
     let b : Block := { s.b with islands := { s.b.islands with win := s.b.islands.win.put 0 i 0 } }
     (i < 4 → exec (.windowBoundary i) s = .next (s.after (quadBoundary b i))) ∧
     (i = 4 → exec (.windowBoundary i) s = .next (s.after b)) ∧
     (5 ≤ i → i < 29 → exec (.windowBoundary i) s = .next (s.after (chanBoundary b (i - 5)))) ∧
     (29 ≤ i → i < 37 → exec (.windowBoundary i) s = .next (s.after
       (boundaryAt b (arbEgress (i - 29)) (fun _ => 64) (egressWaiting (b.link (i - 29)))))) ∧
     (i = 37 → exec (.windowBoundary i) s =
       .next (s.after (boundaryAt b (arbPal 4) (weightOf b) (palWaiting b 4)))))) ∧
  ((∀ (b : Block) (q : Nat) (w : Bool),
     (quadUp b q = false → grantCtx b q w = b) ∧
     (∀ c, quadUp b q = true →
       let l := waitingCtxs b q w
       let a := (b.arbAt (arbCtx q)).unmark (waitingAt b q)
       let p := (b.arbAt (arbPath q w)).unlock l
       a.pick p (weightOf b) l = some c →
       let b1 := (b.setArb (arbCtx q) a).setArb (arbPath q w) (p.slot l c)
       (∀ k, waitingBurst b1 c w = some k → grantCtx b q w = grantBurst b1 c k))) ∧
   (∀ (b : Block) (c : Nat) (k : Cand),
     (∀ b', xlBurst b (quadOfCtx c) (b.ctx c).vi k.va k.need = (.miss, b') →
       grantBurst b c k = startWalk b' (.burst c k.exec.seq k.va) (b.ctx c).vi k.va) ∧
     (∀ st b', xlBurst b (quadOfCtx c) (b.ctx c).vi k.va k.need = (.fail st, b') →
       grantBurst b c k = haltBegin b' c st k.va 0 (some k.exec.seq)) ∧
     (∀ pa ks b' b2, xlBurst b (quadOfCtx c) (b.ctx c).vi k.va k.need = (.ok pa ks, b') → burstDomain b' c k pa ≠ .fail →
       prepareAll k.cached (k.pieces.map fun p => (pa + (p.1 - k.va), ks)) b' = (b2, false) →
       grantBurst b c k = issueCand b2 c k pa ks)) ∧
   (∀ (b : Block) (n : Nat) (w : Bool),
     let c := b.chan n
     let l := pathWaiting b n w
     let rich := l.filter fun e => decide (0 < c.tok (classOf e.2 w))
     let pool := if rich = [] then l else rich
     let arb := (b.arbAt (arbChan n w)).unmark (l.map (·.1))
     (c.budget ≤ c.used → grantChan b n w = b) ∧
     (∀ r k a t, c.used < c.budget → arb.choose (weightOf b) (pool.map (·.1)) = some r → pool.find? (·.1 == r) = some (k, a) →
       accDomEffect b a ≠ .fail → c.tagFor w a = some t →
       let g := grantChan b n w
       let c' := g.chan n
       c'.used = c.used + 1 ∧ c'.budget = c.budget ∧ (∀ j, j < 3 → c'.tok j = if j = classOf a w then c.tok j - 1 else c.tok j) ∧
       (w = false → c'.rcred = c.rcred - 1 ∧ c'.wcred = c.wcred ∧ c'.rtags = c.rtags ++ [(t, { a with tag := none })] ∧
         c'.rwait = c.rwait.erase a ∧ c'.rqOut = some (a.gran, t) ∧ c'.wtags = c.wtags) ∧
       (w = true → c'.wcred = c.wcred - 1 ∧ c'.rcred = c.rcred ∧ c'.wtags = c.wtags ++ [(t, { a with tag := none })] ∧
         c'.wwait = c.wwait.erase a ∧ c'.rtags = c.rtags) ∧
       g.arbAt (arbChan n w) = arb.charge (weightOf b) r ∧ (∀ m, m ≠ n → g.chan m = b.chan m) ∧ g.mem = b.mem ∧
       ((∃ e ∈ l, 0 < c.tok (classOf e.2 w)) → 0 < c.tok (classOf a w)))) ∧
   (∀ (b : Block) (p : Nat),
     (portOn (b.link p) = false ∨ 4 ≤ (b.link p).staged.length → grantEgress b p = b) ∧
     (56 ≤ (b.link p).replay.length → egressWaiting (b.link p) = []) ∧
     (∀ vc f l, portOn (b.link p) = true → (b.link p).staged.length < 4 →
       ((b.arbAt (arbEgress p)).unmark (egressWaiting (b.link p))).choose (fun _ => 64) (egressWaiting (b.link p)) = some vc →
       (b.link p).pop (flitClass vc (turnDateline b p vc)) = some (f, l) →
       (grantEgress b p).link p = { l with staged := l.staged ++ [f] })) ∧
   (∀ (b : Block) (h : Nat) (i : RingItem) (l : List RingItem), hopItems b h = i :: l →
     (1 < i.beats → hopBeat b h i.req = { b with ring := b.ring.put [] h ({ i with beats := i.beats - 1 } :: l) }) ∧
     (i.beats ≤ 1 → i.path = [] → hopBeat b h i.req = ringArrive { b with ring := b.ring.put [] h l } i.load) ∧
     (i.beats ≤ 1 → i.path ≠ [] →
       hopBeat b h i.req = ringSend { b with ring := b.ring.put [] h l } i.req i.size i.load i.path)) ∧
   (∀ (b : Block) (k o : Nat) (i : PalItem) (l : List PalItem), b.palq.get [] k = i :: l → i.off = some o →
     (1 < i.words → palWord b k i.req = { b with palq := b.palq.put [] k ({ i with words := i.words - 1 } :: l) }) ∧
     (i.words ≤ 1 →
       let r := palServe { b with palq := b.palq.put [] k l } i
       palWord b k i.req = palServed r.1 i.acc r.2))) ∧
  ((∀ (b : Block) (n : Nat),
     let t := chanBoundary b n
     let B := budgetOf (b.chan n).therm
     (t.chan n).budget = B ∧ (t.chan n).used = 0 ∧ (t.chan n).tokR = b.setup.pct.getD 0 0 * B / 100 ∧
     (t.chan n).tokW = b.setup.pct.getD 1 0 * B / 100 ∧ (t.chan n).tokX = b.setup.pct.getD 2 0 * B / 100 ∧
     (t.chan n).rcred = (b.chan n).rcred ∧ (t.chan n).wcred = (b.chan n).wcred ∧ (∀ m, m ≠ n → t.chan m = b.chan m) ∧
     (∀ w, t.arbAt (arbChan n w) =
       (b.arbAt (arbChan n w)).boundary (weightOf b) ((pathWaiting b n w).map (·.1)))) ∧
   (∀ (b : Block) (q : Nat), q < 4 → ∃ b1 : Block,
     quadBoundary b q = (b1.ctxs.filter fun e => quadOfCtx e.1 == q).foldl
       (fun b e => tryUnits (releaseLanes (flushOuts b e.1) e.1) e.1) b1 ∧
     b1.arbAt (arbCtx q) = (b.arbAt (arbCtx q)).boundary (weightOf b) (waitingAt b q) ∧
     b1.arbAt (arbRing (2 * q)) = (b.arbAt (arbRing (2 * q))).boundary (weightOf b) (hopWaiting b (2 * q)) ∧
     b1.arbAt (arbRing (2 * q + 1)) = (b.arbAt (arbRing (2 * q + 1))).boundary (weightOf b) (hopWaiting b (2 * q + 1)) ∧
     b1.arbAt (arbPal q) = (b.arbAt (arbPal q)).boundary (weightOf b) (palWaiting b q) ∧
     (∀ i, i < 32 → (b1.arbAt (arbDec (32 * q + i))).beats = 0) ∧ b1.ctxs = b.ctxs ∧ b1.mem = b.mem))

/-- R356 to R361: the weighted-credit rule of every grant point. A requester that waits is chosen: a marked one before all others,
then the fullest counter, then the next number at or after the one that follows the last grant. A grant costs one, down to
-32,768, and takes the mark away. At a boundary a counter gains its weight, up to twice the weight, and a requester that waits
and has had no grant since the last boundary is marked; one that no longer waits has lost its mark.
R359: a locked sequence goes on while its owner waits, for at most 16 grants; the second slot of a cycle is another requester's.
R364: the budget of a window by thermal state. -/
def Obligations.WeightedCredits : Prop :=
  (∀ (a : Arb) (w : Nat → Nat) (l : List Nat),
     (a.choose w l = none → l = []) ∧
     (∀ r, a.choose w l = some r → r ∈ l ∧ ((∃ x ∈ l, (a.entry w x).marked = true) → (a.entry w r).marked = true) ∧
       ∀ x ∈ l, (a.entry w x).marked = (a.entry w r).marked →
         (a.entry w x).ctr ≤ (a.entry w r).ctr ∧
         ((a.entry w x).ctr = (a.entry w r).ctr →
           (a.next ≤ x → a.next ≤ r ∧ r ≤ x) ∧ (x < a.next → r < a.next → r ≤ x)))) ∧
  (∀ (a : Arb) (w : Nat → Nat) (r : Nat),
     ((a.charge w r).reqs.get {} r).ctr = max ((a.entry w r).ctr - 1) (-32768) ∧
     ((a.charge w r).reqs.get {} r).marked = false ∧ ((a.charge w r).reqs.get {} r).granted = true ∧
     (a.charge w r).next = r + 1 ∧ (∀ x, x ≠ r → (a.charge w r).reqs.get {} x = a.reqs.get {} x)) ∧
  (∀ (a : Arb) (w : Nat → Nat) (l : List Nat) (r : Nat), r ∈ l →
     (((a.boundary w l).reqs.get {} r).ctr = min ((a.entry w r).ctr + w r) (2 * w r) ∧
      ((a.boundary w l).reqs.get {} r).marked = ((a.entry w r).marked || !(a.entry w r).granted) ∧
      ((a.boundary w l).reqs.get {} r).granted = false ∧ (a.boundary w l).beats = 0)) ∧
  (∀ (a : Arb) (l : List Nat) (r : Nat),
     ((a.unmark l).reqs.get {} r).marked = ((a.reqs.get {} r).marked && l.contains r) ∧
     ((a.unmark l).reqs.get {} r).ctr = (a.reqs.get {} r).ctr) ∧
  (∀ (a p : Arb) (w : Nat → Nat) (l : List Nat),
     (∀ r, a.pick p w l = some r → r ∈ l) ∧
     (∀ o n, p.prev = none → p.lock = some (o, n) → o ∈ l → a.pick p w l = some o) ∧
     (∀ f x, p.prev = some f → x ∈ l → x ≠ f → ∃ r, a.pick p w l = some r ∧ r ≠ f)) ∧
  (∀ (p : Arb) (r n : Nat) (locked more : Bool),
     (p.lock = none → (p.relock r locked more).lock = if locked && more then some (r, 1) else none) ∧
     (p.lock = some (r, n) →
       (p.relock r locked more).lock = if locked && more && decide (n < 15) then some (r, n + 1) else none)) ∧
  (budgetOf 0 = 2048 ∧ budgetOf 1 = 1536 ∧ budgetOf 2 = 1024 ∧ budgetOf 3 = 0)

/-- R280, R281, R287 to R291: a walk reads one table entry after the other until it has found its end; one that has is taken
off; one of an instance reset meanwhile fills no TLB and halts nobody; one with a leaf no longer holds its contexts, fills
the TLBs and the pointer cache, and what waited for it goes on; a failed one caches nothing and halts them. -/
def Obligations.WalksEnd : Prop :=
  (∀ (s : State) (i : Nat) (w : Walk), walkAt s.b i = some w →
    (w.found = none → exec (.walkComplete i) s = .next (s.after s.b)) ∧
    (∀ f, w.found = some f →
      let mine := w.waiters.filter (waitsFor s.b i)
      let b := mine.foldl (fun b u => setWait b u none)
        { s.b with xl := { s.b.xl with walks := s.b.xl.walks.filter fun v => v.1 != i } }
      (w.discard = true ∨ w.gen ≠ (b.vinst w.vi).gen → exec (.walkComplete i) s = .next (s.after (nextWalkIn b))) ∧
      (∀ leaf lvl, w.discard = false → w.gen = (b.vinst w.vi).gen → f = .leaf leaf lvl →
        ∃ ptrs, (∀ p ∈ ptrs, p ∈ s.b.xl.ptrs ∨ p ∈ w.passed) ∧ ptrs.length ≤ 1024 ∧
          exec (.walkComplete i) s = .next (s.after (nextWalkIn (mine.foldl walkServes
            (tlbFill { b with xl := { b.xl with ptrs := ptrs } } ((mine.map fun u => quadOfCtx u.ctx).eraseDups)
              { vi := w.vi, gen := w.gen, va := w.va / 2 ^ leafLog lvl * 2 ^ leafLog lvl, log := leafLog lvl
                leaf := leaf }))))) ∧
      (w.discard = false → w.gen = (b.vinst w.vi).gen → f = .fail .xlateFault →
        exec (.walkComplete i) s = .next (s.after (nextWalkIn (mine.foldl (walkFails .xlateFault w.tries) b)))) ∧
      (∀ st, st ≠ .xlateFault → w.discard = false → w.gen = (b.vinst w.vi).gen → f = .fail st →
        ∃ u c, exec (.walkComplete i) s = .next (s.after (nextWalkIn (mine.foldl (walkFails st w.tries)
          (raise b 31 u (status := st) (vi := w.vi) (ctx := c) (detail := w.va)))))))) ∧
  (∀ (b : Block) (i : Nat) (w : Walk) (a : Acc) (d : Bytes), walkAt b i = some w → w.found = none →
    (∀ t, entryAt w.level (fieldAt d a.off 8) = .table t → walkData b i a d =
      walkRead b i { w with level := w.level - 1, table := t, passed := w.passed ++ [ptrOf w t] }) ∧
    (∀ f, entryAt w.level (fieldAt d a.off 8) = .found f → walkData b i a d = setWalk b i { w with found := some f })) ∧
  (∀ b : Block, (∀ v ∈ b.xl.walks, v.2.running = true) → nextWalkIn b = b) ∧
  (∀ (b : Block) (c q va : Nat) (st : Status) (n : Nat), walkServes b (.burst c q va) = b ∧
    walkServes b (.fetch c va) = startFetch (b.modCtx c fun x => { x with fetch := none }) c ∧
    walkFails st n b (.burst c q va) = haltBegin b c st va n (some q))

/-! ### Faults, tamper and maintenance -/

/-- R411 to R419: a detection takes the oldest raised pin, or one of hardware without a row of its own, and latches it: at
severity 0 the source is only counted, at severity 1 its status bit is set and no channel, context or start changes; a
detection charged to a unit that is fenced already, other than by it, is only counted (R429).
R417, R418: after its quiet time a unit in FAULT is in service again with its counter one higher; the hold of flt_n
ends. -/
def Obligations.Detections : Prop :=
  (∀ (s : State), ctUp s.b = true →
     (∀ p l, s.b.flt.pins = p :: l → exec (.detection .raised) s =
       .next (s.after (latchPin s.ao { s.b with flt := { s.b.flt with pins := l } } p))) ∧
     (∀ src u d, src < 64 → exec (.detection (.pin src u none d)) s = .next (s.after
       (latchPin s.ao s.b { src := src, unit := u, status := 0, vi := 256, ctx := 256, detail := d }))) ∧
     (∀ (b : Block) (p : Pin), severityOf b p.src = 0 → latchPin s.ao b p = { b with flt := { b.flt with
       counts := b.flt.counts.put 0 p.src (min (b.flt.counts.get 0 p.src + 1) (2 ^ 32 - 1)) } }) ∧
     (∀ (b : Block) (p : Pin) (k : UnitKind) (i : Nat), chargedUnit p.src p.unit = some (k, i) → b.isFenced k i = true →
       p.own = false → latchPin s.ao b p = { b with flt := { b.flt with
         counts := b.flt.counts.put 0 p.src (min (b.flt.counts.get 0 p.src + 1) (2 ^ 32 - 1)) } }) ∧
     (∀ (b : Block) (p : Pin), p.src < 64 → severityOf b p.src = 1 →
       (∀ k i, chargedUnit p.src p.unit = some (k, i) → b.isFenced k i = false) →
       (latchPin s.ao b p).flt.status.getLsbD p.src = true ∧ (latchPin s.ao b p).chans = b.chans ∧
       (latchPin s.ao b p).ctxs = b.ctxs ∧ (latchPin s.ao b p).boot = b.boot)) ∧
  (∀ (s : State) (k : UnitKind) (i : Nat),
     ((s.b.health k i).state = .fault → exec (.quietTimer k i) s = .next (s.after
       (s.b.setHealth k i { state := .inService, counter := min ((s.b.health k i).counter + 1) 255 }))) ∧
     ((s.b.health k i).state ≠ .fault → s.b.ev = [] → exec (.quietTimer k i) s = .next s) ∧
     exec .fltNHoldExpiry s = .next (s.after { s.b with flt := { s.b.flt with hold := false } }))

/-- R426: the queue of records never holds more than 64, and a record that is dropped or displaced counts as lost. The queue
changes only where a detection is noted (`note`, `enqueue`, `latchBits`) and where a record leaves (`popRecord`); each keeps the
bound, and so do the two rows that call them.
R426, R427: the oldest record leaves the queue with the next sequence number, for the trace port while it is on and the ring
while that is on; a ring write that fails stops the ring with source 56. -/
def Obligations.RecordQueueBounded : Prop :=
  (∀ (f : Faults) (r : Rec), f.queue.length ≤ 64 →
    (f.enqueue r).queue.length ≤ 64 ∧ (f.note r).queue.length ≤ 64 ∧
    (f.queue.length = 64 → (f.enqueue r).hadLoss = true)) ∧
  (∀ (ao : AO) (b : Block) (p : Pin) (sev : Nat), b.flt.queue.length ≤ 64 → (latchBits ao b p sev).flt.queue.length ≤ 64) ∧
  (∀ (ao : AO) (f g : Faults) (r : Rec) (n : Nat), popRecord ao f = some (r, n, g) → f.queue.length ≤ 64 →
    g.queue.length ≤ 64) ∧
  (∀ (s : State) (p : Pin) (l : List Pin), ctUp s.b = true → s.b.flt.pins = p :: l → severityOf s.b p.src ≤ 2 →
    s.b.flt.queue.length ≤ 64 → ∃ t, exec (.detection .raised) s = .next t ∧ t.b.flt.queue.length ≤ 64) ∧
  (∀ (s : State), s.b.flt.ringOn = false → s.b.flt.queue.length ≤ 64 →
    ∃ t, exec (.recordWrite true) s = .next t ∧ t.b.flt.queue.length ≤ 64) ∧
  (∀ (s : State) (r : Rec) (n : Nat) (f : Faults), ctUp s.b = true → popRecord s.ao s.b.flt = some (r, n, f) →
       (f.ringOn = false → exec (.recordWrite true) s = .next (s.after { s.b with flt :=
         if f.traceOn then { f with trace := r.bytes n } else f })) ∧
       (∀ b', f.ringOn = true → f.traceOn = false → ringWrite { s.b with flt := f } (r.bytes n) = .ok b' →
         exec (.recordWrite true) s = .next (s.after { b' with flt := { b'.flt with ringIdx := (b'.flt.ringIdx + 1) % 4096 } })) ∧
       (f.ringOn = true → f.traceOn = false → ∃ t, exec (.recordWrite false) s = .next t ∧ t.b.flt.ringOn = false ∧
         ∃ x, t.b.flt.pins = f.pins ++ [x] ∧ x.src = 56))

/-- R405, R406: a tamper event wipes every SSP, closes the debug window, has one more
TAMPER_COUNT bit programmed (StepAndQueue says where), raises source 59 and orders a start.
R458: a detector's warning raises source 62; a lost island clock is noted once and raises source 57; obs_sel selects a group
(R62); a failed health test enters the error state (R396, R399), except that BOOT_FAIL stays (R73). -/
def Obligations.TamperAndDetectors : Prop :=
  (∀ (s : State) (t : TamperIn), s.ao.on = true → s.b.boot.stage ≠ 0xE → s.b.power.state ≠ 3 → s.b.regs.otpJob = none →
     ∃ u, exec (.tamperEvent t) s = .next u ∧ u.b.boot.startPending = true ∧ u.b.sec.keys = [] ∧ u.b.sec.identPriv = [] ∧
       u.b.sec.handleKey = [] ∧ u.b.regs.dbgUnlocked = false ∧ (∀ p, (u.b.link p).sess = {}) ∧
       u.ao.countDue = true ∧
       (∃ x, u.b.flt.pins = s.b.flt.pins ++ [x] ∧ x.src = 59)) ∧
  (∀ (s : State),
     (∀ w, s.ao.on = true → exec (.detectorWarning w) s = .next (s.after (raise s.b 62 0 (detail := warnDetail w)))) ∧
     (∀ i, i < 38 → s.b.islands.lost.get false i = false → exec (.islandClockLoss i) s = .next (s.after
       (raise { s.b with islands := { s.b.islands with lost := s.b.islands.lost.put false i true
                                                       alive := stopAlive s.b.islands.alive i } } 57 i))) ∧
     (∀ i, i < 24 → (stopAlive s.b.islands.alive (5 + i)).get false i = false) ∧
     (∀ i, i < 8 → (stopAlive s.b.islands.alive 37).get false (32 + i) = false) ∧
     (∀ v, exec (.obsSel v) s = .next (s.after { s.b with obsSel := v % 64 })) ∧
     (s.ao.on = true → s.b.boot.stage ≠ 0xF → ∃ t, exec .healthTestFailure s = .next t ∧ t.b.boot.stage = 0xE ∧
       t.b.sec.keys = [] ∧ t.b.links = [] ∧ t.b.sports = [] ∧
       ∀ n, (t.b.chan n).service = .reset ∧ (t.b.chan n).rtags = [] ∧ (t.b.chan n).wtags = []) ∧
     (s.ao.on = true → s.b.boot.stage = 0xF → exec .healthTestFailure s = .next (s.after (raise s.b 60 0))))

/-- R422, R423, R459, R460: a scrub read that is uncorrectable marks its word and raises its region's source, a corrected one raises
source 8; two idle lanes that disagree wait for a third, which decides, or both are charged at the bound; a probe moves its
tap one step and raises source 62 at its end stop. -/
def Obligations.Maintenance : Prop :=
  ∀ (s : State),
    (∀ r w, r < 4 → w < bankUnits * 64 → quadUp s.b r = true → s.b.pal.badWords.contains (regionFirst r * 64 + w) = false →
      exec (.scrub r w .corrected) s = .next (s.after (raise s.b 8 r (detail := 64 * w))) ∧
      exec (.scrub r w .uncorrectable) s = .next (s.after
        (raise { s.b with pal := { s.b.pal with badWords := s.b.pal.badWords ++ [regionFirst r * 64 + w] } } (4 + r) r
          (status := .uncorrectable) (detail := 64 * w)))) ∧
    (∀ x y dx dy, x ≠ y → quadOfLane x = quadOfLane y → idleLane s.b x = true → idleLane s.b y = true → dx ≠ dy →
      s.b.flt.cross.get none (quadOfLane x) = none →
      exec (.crossCheck (.lanes x y dx dy)) s = .next (s.after (setCross s.b (quadOfLane x) (some (x, y, dx, dy))))) ∧
    (∀ q x y d e z, s.b.flt.cross.get none q = some (x, y, d, e) → z ≠ x → z ≠ y → quadOfLane z = q →
      idleLane s.b z = true → d ≠ e →
      exec (.crossCheck (.third q z d)) s = .next (s.after (chargeLane (setCross s.b q none) y)) ∧
      exec (.crossCheck (.third q z e)) s = .next (s.after (chargeLane (setCross s.b q none) x))) ∧
    (∀ x y dx dy, x ≠ y → x < 192 → y < 192 → x / 48 = y / 48 → idleCore s.b x = true → idleCore s.b y = true → dx ≠ dy →
      exec (.crossCheck (.cores x y dx dy)) s = .next (s.after (raise (raise s.b 30 x) 30 y))) ∧
    (∀ q x y d e, s.b.flt.cross.get none q = some (x, y, d, e) → exec (.crossCheckTimeout q) s =
      .next (s.after (chargeLane (chargeLane (setCross s.b q none) x) y))) ∧
    (∀ r, r < 148 → ∃ t, exec (.probe r 1 true) s = .next t ∧ (t.b.xing.get {} r).tap = ((s.b.xing.get {} r).tap + 1) % 256 ∧
      (t.b.xing.get {} r).stop = true ∧ ∀ q, q ≠ r → t.b.xing.get {} q = s.b.xing.get {} q)

/-- R35, R89, R115, R178, R395: a heartbeat that runs toggles its line; the DRBG is reseeded after 2^20 requests; at the bound of a
reset or an abort its open writes are retired; a context, or the Atelier (256), whose port does not come ready has its held
requests fail with LINK_DOWN, the record it waits for among them. -/
def Obligations.TimersAndBounds : Prop :=
  ∀ (s : State),
    (∀ p, (heartbeat s.b p).2 = true → ∃ t, exec (.lvAliveToggle p) s = .next t ∧
      t.b.islands.alive.get false (heartbeat s.b p).1 = !(s.b.islands.alive.get false (heartbeat s.b p).1) ∧
      (∀ k, k ≠ (heartbeat s.b p).1 → t.b.islands.alive.get false k = s.b.islands.alive.get false k) ∧
      t.b.islands.out = s.b.islands.out) ∧
    (s.b.sec.drbgOn = true → 2 ^ 20 ≤ s.b.sec.drbgCount → exec .drbgReseed s =
      .next (s.after { s.b with sec := { s.b.sec with drbgCount := 0 } })) ∧
    (∀ w, boundRuns s.b w = true → s.b.boot.startPending = false → exec (.openWriteBoundExpiry w) s =
      .next (s.after (settleWrites (retireOpen s.b (boundCovers w))))) ∧
    (∀ c, exec (.portNotReadyTimeout c) s = .next (s.after
      (((s.b.held.filter (portless s.b c)).flatMap fun r => r.acc :: r.also).foldl
        (fun b a => failAcc b a .linkDown) { s.b with held := s.b.held.filter fun r => !portless s.b c r }))) ∧
    (∀ c r, portless s.b c r = true ↔ r.acc.owner.source = c ∧ routeTo s.b r.chip = .notReady) ∧
    (∀ (b : Block) (a : Acc) (r : Nat) (st : Status), a.owner = .recRead r → a.fill = false →
      (failAcc b a st).recIn = b.recIn ++ [{ reader := r, vi := a.vi, va := a.va / 256 * 256, status := st, data := [] }])
end

