-- ==== Sys2Proof/Laws/Tab.lean ====
section
/-! SUPPORT. Tables: reading back what was put, leaving other keys alone, and the canonical form. -/

namespace Sys2Proof

variable {α : Type}

theorem Tab.get_erase_same (d : α) (t : Tab α) (k : Nat) : Tab.get d (Tab.erase t k) k = d := by
  induction t with
  | nil => rfl
  | cons e t ih =>
    obtain ⟨j, v⟩ := e
    by_cases h : j = k <;> simp [Tab.erase, h, Tab.get, ih]

theorem Tab.get_erase_other (d : α) (t : Tab α) {k i : Nat} (h : i ≠ k) :
    Tab.get d (Tab.erase t k) i = Tab.get d t i := by
  induction t with
  | nil => rfl
  | cons e t ih =>
    obtain ⟨j, v⟩ := e
    by_cases hj : j = k
    · subst hj
      simp [Tab.erase, Tab.get, ih, Ne.symm h]
    · simp [Tab.erase, hj, Tab.get, ih]

theorem Tab.get_insert_same (d : α) (t : Tab α) (k : Nat) (v : α) : Tab.get d (Tab.insert t k v) k = v := by
  induction t with
  | nil => simp [Tab.insert, Tab.get]
  | cons e t ih =>
    obtain ⟨j, w⟩ := e
    unfold Tab.insert
    split
    · simp [Tab.get]
    · split
      · simp [Tab.get]
      · next h => simp [Tab.get, h, ih]

theorem Tab.get_insert_other (d : α) (t : Tab α) {k i : Nat} (v : α) (h : i ≠ k) :
    Tab.get d (Tab.insert t k v) i = Tab.get d t i := by
  induction t with
  | nil => simp [Tab.insert, Tab.get, Ne.symm h]
  | cons e t ih =>
    obtain ⟨j, w⟩ := e
    unfold Tab.insert
    split
    · simp [Tab.get, Ne.symm h]
    · split
      · next hj => subst hj; simp [Tab.get, Ne.symm h]
      · simp [Tab.get, ih]

@[simp] theorem Tab.get_put_same [DecidableEq α] (d : α) (t : Tab α) (k : Nat) (v : α) :
    Tab.get d (Tab.put d t k v) k = v := by
  unfold Tab.put
  split
  · next h => rw [Tab.get_erase_same, h]
  · exact Tab.get_insert_same d t k v

theorem Tab.get_put_other [DecidableEq α] (d : α) (t : Tab α) {k i : Nat} (v : α) (h : i ≠ k) :
    Tab.get d (Tab.put d t k v) i = Tab.get d t i := by
  unfold Tab.put
  split
  · exact Tab.get_erase_other d t h
  · exact Tab.get_insert_other d t v h

theorem Tab.insert_insert (t : Tab α) (k : Nat) (v w : α) : (Tab.insert t k v).insert k w = Tab.insert t k w := by
  induction t with
  | nil => simp [Tab.insert]
  | cons e t ih =>
    obtain ⟨j, x⟩ := e
    by_cases h1 : k < j
    · simp [Tab.insert, h1]
    · by_cases h2 : j = k
      · subst h2
        simp [Tab.insert]
      · simp [Tab.insert, h1, h2, ih]

/-- The last of two writes at a key stands, where the first was not the default. -/
theorem Tab.put_put [DecidableEq α] (d : α) (t : Tab α) (k : Nat) {v : α} (w : α) (hv : v ≠ d) (hw : w ≠ d) :
    Tab.put d (Tab.put d t k v) k w = Tab.put d t k w := by
  simp [Tab.put, hv, hw, Tab.insert_insert]

/-! ### The canonical form -/

/-- Every key of a table is at least `n`. -/
def Tab.above (n : Nat) (t : Tab α) : Prop := ∀ e ∈ t, n ≤ e.1

theorem Tab.wf_cons [DecidableEq α] (d : α) (j : Nat) (v : α) (t : Tab α) :
    Tab.wf d ((j, v) :: t) = true ↔ v ≠ d ∧ Tab.wf d t = true ∧ Tab.above (j + 1) t := by
  induction t generalizing j v with
  | nil => simp [Tab.wf, Tab.above]
  | cons e t ih =>
    obtain ⟨k, w⟩ := e
    rw [Tab.wf, Bool.and_eq_true, Bool.and_eq_true, bne_iff_ne, decide_eq_true_iff]
    constructor
    · rintro ⟨⟨hv, hjk⟩, ht⟩
      refine ⟨hv, ht, ?_⟩
      have h := (ih k w).1 ht
      intro e he
      rcases List.mem_cons.1 he with rfl | he
      · exact hjk
      · have := h.2.2 e he
        omega
    · rintro ⟨hv, ht, ha⟩
      exact ⟨⟨hv, ha (k, w) (List.mem_cons_self ..)⟩, ht⟩

theorem Tab.erase_sub (t : Tab α) (k : Nat) : ∀ e ∈ Tab.erase t k, e ∈ t := by
  induction t with
  | nil => intro e he; exact he
  | cons x t ih =>
    obtain ⟨j, v⟩ := x
    intro e he
    unfold Tab.erase at he
    split at he
    · exact List.mem_cons_of_mem _ (ih e he)
    · rcases List.mem_cons.1 he with rfl | he
      · exact List.mem_cons_self ..
      · exact List.mem_cons_of_mem _ (ih e he)

theorem Tab.wf_erase [DecidableEq α] (d : α) (t : Tab α) (k : Nat) (h : Tab.wf d t = true) :
    Tab.wf d (Tab.erase t k) = true := by
  induction t with
  | nil => exact h
  | cons e t ih =>
    obtain ⟨j, v⟩ := e
    obtain ⟨hv, ht, ha⟩ := (Tab.wf_cons d j v t).1 h
    unfold Tab.erase
    split
    · exact ih ht
    · exact (Tab.wf_cons d j v _).2 ⟨hv, ih ht, fun e he => ha e (Tab.erase_sub t k e he)⟩

theorem Tab.insert_above (t : Tab α) {n k : Nat} (v : α) (h : Tab.above n t) (hk : n ≤ k) :
    Tab.above n (Tab.insert t k v) := by
  induction t with
  | nil =>
    intro e he
    rcases List.mem_cons.1 he with rfl | he
    · exact hk
    · exact absurd he List.not_mem_nil
  | cons x t ih =>
    obtain ⟨j, w⟩ := x
    have hj : n ≤ j := h (j, w) (List.mem_cons_self ..)
    have ht : Tab.above n t := fun e he => h e (List.mem_cons_of_mem _ he)
    unfold Tab.insert
    split
    · intro e he
      rcases List.mem_cons.1 he with rfl | he
      · exact hk
      · exact h e he
    · split
      · intro e he
        rcases List.mem_cons.1 he with rfl | he
        · exact hk
        · exact ht e he
      · intro e he
        rcases List.mem_cons.1 he with rfl | he
        · exact hj
        · exact ih ht e he

theorem Tab.wf_insert [DecidableEq α] (d : α) (t : Tab α) (k : Nat) {v : α} (hv : v ≠ d) (h : Tab.wf d t = true) :
    Tab.wf d (Tab.insert t k v) = true := by
  induction t with
  | nil => simpa [Tab.insert, Tab.wf] using hv
  | cons e t ih =>
    obtain ⟨j, w⟩ := e
    obtain ⟨hw, ht, ha⟩ := (Tab.wf_cons d j w t).1 h
    unfold Tab.insert
    split
    · next hkj =>
      refine (Tab.wf_cons d k v _).2 ⟨hv, h, ?_⟩
      intro e he
      rcases List.mem_cons.1 he with rfl | he
      · exact hkj
      · have := ha e he
        omega
    · split
      · next hjk => subst hjk; exact (Tab.wf_cons d _ v t).2 ⟨hv, ht, ha⟩
      · exact (Tab.wf_cons d j w _).2 ⟨hw, ih ht, Tab.insert_above t v ha (by omega)⟩

theorem Tab.wf_put [DecidableEq α] (d : α) (t : Tab α) (k : Nat) (v : α) (h : Tab.wf d t = true) :
    Tab.wf d (Tab.put d t k v) = true := by
  unfold Tab.put
  split
  · exact Tab.wf_erase d t k h
  · next hv => exact Tab.wf_insert d t k hv h

theorem Tab.wf_filter [DecidableEq α] (d : α) (p : Nat × α → Bool) (t : Tab α) (h : Tab.wf d t = true) :
    Tab.wf d (t.filter p) = true := by
  induction t with
  | nil => exact h
  | cons e t ih =>
    obtain ⟨j, v⟩ := e
    obtain ⟨hv, ht, ha⟩ := (Tab.wf_cons d j v t).1 h
    by_cases hp : p (j, v) = true
    · rw [List.filter_cons_of_pos hp]
      exact (Tab.wf_cons d j v _).2 ⟨hv, ih ht, fun e he => ha e (List.mem_filter.1 he).1⟩
    · rw [List.filter_cons_of_neg hp]
      exact ih ht

/-! ### Runs of bytes -/

theorem writeBytes_wf (d : Byte) (t : Tab Byte) (a : Nat) (bs : Bytes) (h : Tab.wf d t = true) :
    Tab.wf d (writeBytes d t a bs) = true := by
  induction bs generalizing t a with
  | nil => exact h
  | cons b bs ih => exact ih _ _ (Tab.wf_put d t a b h)

/-- A run leaves every other address alone. -/
theorem get_writeBytes_other (d : Byte) (t : Tab Byte) (a : Nat) (bs : Bytes) {i : Nat} (h : i < a ∨ a + bs.length ≤ i) :
    Tab.get d (writeBytes d t a bs) i = Tab.get d t i := by
  induction bs generalizing t a with
  | nil => rfl
  | cons b bs ih =>
    rw [List.length_cons] at h
    rw [writeBytes, ih _ _ (by omega), Tab.get_put_other d t b (by omega)]

/-- A run of bytes reads back as written. -/
theorem readBytes_writeBytes_same (d : Byte) (t : Tab Byte) (a : Nat) (bs : Bytes) :
    readBytes d (writeBytes d t a bs) a bs.length = bs := by
  induction bs generalizing t a with
  | nil => rfl
  | cons b bs ih =>
    rw [List.length_cons, readBytes, writeBytes, ih, get_writeBytes_other d _ _ _ (by omega), Tab.get_put_same]

theorem readBytes_congr (d : Byte) (t u : Tab Byte) (a n : Nat) (h : ∀ i, a ≤ i → i < a + n → Tab.get d t i = Tab.get d u i) :
    readBytes d t a n = readBytes d u a n := by
  induction n generalizing a with
  | zero => rfl
  | succ n ih =>
    rw [readBytes, readBytes, h a (by omega) (by omega), ih (a + 1) fun i h1 h2 => h i (by omega) (by omega)]

end Sys2Proof
end

