-- ==== Sys2Proof/Laws/State.lean ====
section
/-! SUPPORT. One lemma per update of the state and field: the field an update writes reads back, every other stays. -/

namespace Sys2Proof.Machine

variable (b : Block)

/-! ### setChan -/

@[simp] theorem Block.setChan_boot (n : Nat) (x : Chan) : (b.setChan n x).boot = b.boot := rfl
@[simp] theorem Block.setChan_setup (n : Nat) (x : Chan) : (b.setChan n x).setup = b.setup := rfl
@[simp] theorem Block.setChan_islands (n : Nat) (x : Chan) : (b.setChan n x).islands = b.islands := rfl
@[simp] theorem Block.setChan_sports (n : Nat) (x : Chan) : (b.setChan n x).sports = b.sports := rfl
@[simp] theorem Block.setChan_links (n : Nat) (x : Chan) : (b.setChan n x).links = b.links := rfl
@[simp] theorem Block.setChan_rin (n : Nat) (x : Chan) : (b.setChan n x).rin = b.rin := rfl
@[simp] theorem Block.setChan_canv (n : Nat) (x : Chan) : (b.setChan n x).canv = b.canv := rfl
@[simp] theorem Block.setChan_ctxs (n : Nat) (x : Chan) : (b.setChan n x).ctxs = b.ctxs := rfl
@[simp] theorem Block.setChan_chains (n : Nat) (x : Chan) : (b.setChan n x).chains = b.chains := rfl
@[simp] theorem Block.setChan_pal (n : Nat) (x : Chan) : (b.setChan n x).pal = b.pal := rfl
@[simp] theorem Block.setChan_xl (n : Nat) (x : Chan) : (b.setChan n x).xl = b.xl := rfl
@[simp] theorem Block.setChan_arb (n : Nat) (x : Chan) : (b.setChan n x).arb = b.arb := rfl
@[simp] theorem Block.setChan_ring (n : Nat) (x : Chan) : (b.setChan n x).ring = b.ring := rfl
@[simp] theorem Block.setChan_palq (n : Nat) (x : Chan) : (b.setChan n x).palq = b.palq := rfl
@[simp] theorem Block.setChan_recIn (n : Nat) (x : Chan) : (b.setChan n x).recIn = b.recIn := rfl
@[simp] theorem Block.setChan_drq (n : Nat) (x : Chan) : (b.setChan n x).drq = b.drq := rfl
@[simp] theorem Block.setChan_pd (n : Nat) (x : Chan) : (b.setChan n x).pd = b.pd := rfl
@[simp] theorem Block.setChan_flt (n : Nat) (x : Chan) : (b.setChan n x).flt = b.flt := rfl
@[simp] theorem Block.setChan_sec (n : Nat) (x : Chan) : (b.setChan n x).sec = b.sec := rfl
@[simp] theorem Block.setChan_regs (n : Nat) (x : Chan) : (b.setChan n x).regs = b.regs := rfl
@[simp] theorem Block.setChan_power (n : Nat) (x : Chan) : (b.setChan n x).power = b.power := rfl
@[simp] theorem Block.setChan_obsSel (n : Nat) (x : Chan) : (b.setChan n x).obsSel = b.obsSel := rfl
@[simp] theorem Block.setChan_xing (n : Nat) (x : Chan) : (b.setChan n x).xing = b.xing := rfl
@[simp] theorem Block.setChan_groups (n : Nat) (x : Chan) : (b.setChan n x).groups = b.groups := rfl
@[simp] theorem Block.setChan_mem (n : Nat) (x : Chan) : (b.setChan n x).mem = b.mem := rfl
@[simp] theorem Block.setChan_steerSpread (n : Nat) (x : Chan) : (b.setChan n x).steerSpread = b.steerSpread := rfl
@[simp] theorem Block.setChan_steerOver (n : Nat) (x : Chan) : (b.setChan n x).steerOver = b.steerOver := rfl
@[simp] theorem Block.setChan_badGran (n : Nat) (x : Chan) : (b.setChan n x).badGran = b.badGran := rfl
@[simp] theorem Block.setChan_held (n : Nat) (x : Chan) : (b.setChan n x).held = b.held := rfl
@[simp] theorem Block.setChan_heldFlits (n : Nat) (x : Chan) : (b.setChan n x).heldFlits = b.heldFlits := rfl
@[simp] theorem Block.setChan_received (n : Nat) (x : Chan) : (b.setChan n x).received = b.received := rfl
@[simp] theorem Block.setChan_streams (n : Nat) (x : Chan) : (b.setChan n x).streams = b.streams := rfl
@[simp] theorem Block.setChan_free (n : Nat) (x : Chan) : (b.setChan n x).free = b.free := rfl
@[simp] theorem Block.setChan_ev (n : Nat) (x : Chan) : (b.setChan n x).ev = b.ev := rfl
@[simp] theorem Block.setChan_chan (n : Nat) (x : Chan) : (b.setChan n x).chan n = x := Tab.get_put_same _ _ _ _
theorem Block.setChan_chan_other (n : Nat) (x : Chan) (i : Nat) (h : i ≠ n) : (b.setChan n x).chan i = b.chan i :=
  Tab.get_put_other _ _ _ h

/-! ### setSport -/

@[simp] theorem Block.setSport_boot (n : Nat) (x : SPort) : (b.setSport n x).boot = b.boot := rfl
@[simp] theorem Block.setSport_setup (n : Nat) (x : SPort) : (b.setSport n x).setup = b.setup := rfl
@[simp] theorem Block.setSport_islands (n : Nat) (x : SPort) : (b.setSport n x).islands = b.islands := rfl
@[simp] theorem Block.setSport_chans (n : Nat) (x : SPort) : (b.setSport n x).chans = b.chans := rfl
@[simp] theorem Block.setSport_links (n : Nat) (x : SPort) : (b.setSport n x).links = b.links := rfl
@[simp] theorem Block.setSport_rin (n : Nat) (x : SPort) : (b.setSport n x).rin = b.rin := rfl
@[simp] theorem Block.setSport_canv (n : Nat) (x : SPort) : (b.setSport n x).canv = b.canv := rfl
@[simp] theorem Block.setSport_ctxs (n : Nat) (x : SPort) : (b.setSport n x).ctxs = b.ctxs := rfl
@[simp] theorem Block.setSport_chains (n : Nat) (x : SPort) : (b.setSport n x).chains = b.chains := rfl
@[simp] theorem Block.setSport_pal (n : Nat) (x : SPort) : (b.setSport n x).pal = b.pal := rfl
@[simp] theorem Block.setSport_xl (n : Nat) (x : SPort) : (b.setSport n x).xl = b.xl := rfl
@[simp] theorem Block.setSport_arb (n : Nat) (x : SPort) : (b.setSport n x).arb = b.arb := rfl
@[simp] theorem Block.setSport_ring (n : Nat) (x : SPort) : (b.setSport n x).ring = b.ring := rfl
@[simp] theorem Block.setSport_palq (n : Nat) (x : SPort) : (b.setSport n x).palq = b.palq := rfl
@[simp] theorem Block.setSport_recIn (n : Nat) (x : SPort) : (b.setSport n x).recIn = b.recIn := rfl
@[simp] theorem Block.setSport_drq (n : Nat) (x : SPort) : (b.setSport n x).drq = b.drq := rfl
@[simp] theorem Block.setSport_pd (n : Nat) (x : SPort) : (b.setSport n x).pd = b.pd := rfl
@[simp] theorem Block.setSport_flt (n : Nat) (x : SPort) : (b.setSport n x).flt = b.flt := rfl
@[simp] theorem Block.setSport_sec (n : Nat) (x : SPort) : (b.setSport n x).sec = b.sec := rfl
@[simp] theorem Block.setSport_regs (n : Nat) (x : SPort) : (b.setSport n x).regs = b.regs := rfl
@[simp] theorem Block.setSport_power (n : Nat) (x : SPort) : (b.setSport n x).power = b.power := rfl
@[simp] theorem Block.setSport_obsSel (n : Nat) (x : SPort) : (b.setSport n x).obsSel = b.obsSel := rfl
@[simp] theorem Block.setSport_xing (n : Nat) (x : SPort) : (b.setSport n x).xing = b.xing := rfl
@[simp] theorem Block.setSport_groups (n : Nat) (x : SPort) : (b.setSport n x).groups = b.groups := rfl
@[simp] theorem Block.setSport_mem (n : Nat) (x : SPort) : (b.setSport n x).mem = b.mem := rfl
@[simp] theorem Block.setSport_steerSpread (n : Nat) (x : SPort) : (b.setSport n x).steerSpread = b.steerSpread := rfl
@[simp] theorem Block.setSport_steerOver (n : Nat) (x : SPort) : (b.setSport n x).steerOver = b.steerOver := rfl
@[simp] theorem Block.setSport_badGran (n : Nat) (x : SPort) : (b.setSport n x).badGran = b.badGran := rfl
@[simp] theorem Block.setSport_held (n : Nat) (x : SPort) : (b.setSport n x).held = b.held := rfl
@[simp] theorem Block.setSport_heldFlits (n : Nat) (x : SPort) : (b.setSport n x).heldFlits = b.heldFlits := rfl
@[simp] theorem Block.setSport_received (n : Nat) (x : SPort) : (b.setSport n x).received = b.received := rfl
@[simp] theorem Block.setSport_streams (n : Nat) (x : SPort) : (b.setSport n x).streams = b.streams := rfl
@[simp] theorem Block.setSport_free (n : Nat) (x : SPort) : (b.setSport n x).free = b.free := rfl
@[simp] theorem Block.setSport_ev (n : Nat) (x : SPort) : (b.setSport n x).ev = b.ev := rfl
@[simp] theorem Block.setSport_sport (n : Nat) (x : SPort) : (b.setSport n x).sport n = x := Tab.get_put_same _ _ _ _
theorem Block.setSport_sport_other (n : Nat) (x : SPort) (i : Nat) (h : i ≠ n) : (b.setSport n x).sport i = b.sport i :=
  Tab.get_put_other _ _ _ h

/-! ### setLink -/

@[simp] theorem Block.setLink_boot (n : Nat) (x : Link) : (b.setLink n x).boot = b.boot := rfl
@[simp] theorem Block.setLink_setup (n : Nat) (x : Link) : (b.setLink n x).setup = b.setup := rfl
@[simp] theorem Block.setLink_islands (n : Nat) (x : Link) : (b.setLink n x).islands = b.islands := rfl
@[simp] theorem Block.setLink_chans (n : Nat) (x : Link) : (b.setLink n x).chans = b.chans := rfl
@[simp] theorem Block.setLink_sports (n : Nat) (x : Link) : (b.setLink n x).sports = b.sports := rfl
@[simp] theorem Block.setLink_rin (n : Nat) (x : Link) : (b.setLink n x).rin = b.rin := rfl
@[simp] theorem Block.setLink_canv (n : Nat) (x : Link) : (b.setLink n x).canv = b.canv := rfl
@[simp] theorem Block.setLink_ctxs (n : Nat) (x : Link) : (b.setLink n x).ctxs = b.ctxs := rfl
@[simp] theorem Block.setLink_chains (n : Nat) (x : Link) : (b.setLink n x).chains = b.chains := rfl
@[simp] theorem Block.setLink_pal (n : Nat) (x : Link) : (b.setLink n x).pal = b.pal := rfl
@[simp] theorem Block.setLink_xl (n : Nat) (x : Link) : (b.setLink n x).xl = b.xl := rfl
@[simp] theorem Block.setLink_arb (n : Nat) (x : Link) : (b.setLink n x).arb = b.arb := rfl
@[simp] theorem Block.setLink_ring (n : Nat) (x : Link) : (b.setLink n x).ring = b.ring := rfl
@[simp] theorem Block.setLink_palq (n : Nat) (x : Link) : (b.setLink n x).palq = b.palq := rfl
@[simp] theorem Block.setLink_recIn (n : Nat) (x : Link) : (b.setLink n x).recIn = b.recIn := rfl
@[simp] theorem Block.setLink_drq (n : Nat) (x : Link) : (b.setLink n x).drq = b.drq := rfl
@[simp] theorem Block.setLink_pd (n : Nat) (x : Link) : (b.setLink n x).pd = b.pd := rfl
@[simp] theorem Block.setLink_flt (n : Nat) (x : Link) : (b.setLink n x).flt = b.flt := rfl
@[simp] theorem Block.setLink_sec (n : Nat) (x : Link) : (b.setLink n x).sec = b.sec := rfl
@[simp] theorem Block.setLink_regs (n : Nat) (x : Link) : (b.setLink n x).regs = b.regs := rfl
@[simp] theorem Block.setLink_power (n : Nat) (x : Link) : (b.setLink n x).power = b.power := rfl
@[simp] theorem Block.setLink_obsSel (n : Nat) (x : Link) : (b.setLink n x).obsSel = b.obsSel := rfl
@[simp] theorem Block.setLink_xing (n : Nat) (x : Link) : (b.setLink n x).xing = b.xing := rfl
@[simp] theorem Block.setLink_groups (n : Nat) (x : Link) : (b.setLink n x).groups = b.groups := rfl
@[simp] theorem Block.setLink_mem (n : Nat) (x : Link) : (b.setLink n x).mem = b.mem := rfl
@[simp] theorem Block.setLink_steerSpread (n : Nat) (x : Link) : (b.setLink n x).steerSpread = b.steerSpread := rfl
@[simp] theorem Block.setLink_steerOver (n : Nat) (x : Link) : (b.setLink n x).steerOver = b.steerOver := rfl
@[simp] theorem Block.setLink_badGran (n : Nat) (x : Link) : (b.setLink n x).badGran = b.badGran := rfl
@[simp] theorem Block.setLink_held (n : Nat) (x : Link) : (b.setLink n x).held = b.held := rfl
@[simp] theorem Block.setLink_heldFlits (n : Nat) (x : Link) : (b.setLink n x).heldFlits = b.heldFlits := rfl
@[simp] theorem Block.setLink_received (n : Nat) (x : Link) : (b.setLink n x).received = b.received := rfl
@[simp] theorem Block.setLink_streams (n : Nat) (x : Link) : (b.setLink n x).streams = b.streams := rfl
@[simp] theorem Block.setLink_free (n : Nat) (x : Link) : (b.setLink n x).free = b.free := rfl
@[simp] theorem Block.setLink_ev (n : Nat) (x : Link) : (b.setLink n x).ev = b.ev := rfl
@[simp] theorem Block.setLink_link (n : Nat) (x : Link) : (b.setLink n x).link n = x := Tab.get_put_same _ _ _ _
theorem Block.setLink_link_other (n : Nat) (x : Link) (i : Nat) (h : i ≠ n) : (b.setLink n x).link i = b.link i :=
  Tab.get_put_other _ _ _ h

/-! ### setSq -/

@[simp] theorem Block.setSq_boot (n : Nat) (x : Sq) : (b.setSq n x).boot = b.boot := rfl
@[simp] theorem Block.setSq_setup (n : Nat) (x : Sq) : (b.setSq n x).setup = b.setup := rfl
@[simp] theorem Block.setSq_islands (n : Nat) (x : Sq) : (b.setSq n x).islands = b.islands := rfl
@[simp] theorem Block.setSq_chans (n : Nat) (x : Sq) : (b.setSq n x).chans = b.chans := rfl
@[simp] theorem Block.setSq_sports (n : Nat) (x : Sq) : (b.setSq n x).sports = b.sports := rfl
@[simp] theorem Block.setSq_links (n : Nat) (x : Sq) : (b.setSq n x).links = b.links := rfl
@[simp] theorem Block.setSq_canv (n : Nat) (x : Sq) : (b.setSq n x).canv = b.canv := rfl
@[simp] theorem Block.setSq_ctxs (n : Nat) (x : Sq) : (b.setSq n x).ctxs = b.ctxs := rfl
@[simp] theorem Block.setSq_chains (n : Nat) (x : Sq) : (b.setSq n x).chains = b.chains := rfl
@[simp] theorem Block.setSq_pal (n : Nat) (x : Sq) : (b.setSq n x).pal = b.pal := rfl
@[simp] theorem Block.setSq_xl (n : Nat) (x : Sq) : (b.setSq n x).xl = b.xl := rfl
@[simp] theorem Block.setSq_arb (n : Nat) (x : Sq) : (b.setSq n x).arb = b.arb := rfl
@[simp] theorem Block.setSq_ring (n : Nat) (x : Sq) : (b.setSq n x).ring = b.ring := rfl
@[simp] theorem Block.setSq_palq (n : Nat) (x : Sq) : (b.setSq n x).palq = b.palq := rfl
@[simp] theorem Block.setSq_recIn (n : Nat) (x : Sq) : (b.setSq n x).recIn = b.recIn := rfl
@[simp] theorem Block.setSq_drq (n : Nat) (x : Sq) : (b.setSq n x).drq = b.drq := rfl
@[simp] theorem Block.setSq_pd (n : Nat) (x : Sq) : (b.setSq n x).pd = b.pd := rfl
@[simp] theorem Block.setSq_flt (n : Nat) (x : Sq) : (b.setSq n x).flt = b.flt := rfl
@[simp] theorem Block.setSq_sec (n : Nat) (x : Sq) : (b.setSq n x).sec = b.sec := rfl
@[simp] theorem Block.setSq_regs (n : Nat) (x : Sq) : (b.setSq n x).regs = b.regs := rfl
@[simp] theorem Block.setSq_power (n : Nat) (x : Sq) : (b.setSq n x).power = b.power := rfl
@[simp] theorem Block.setSq_obsSel (n : Nat) (x : Sq) : (b.setSq n x).obsSel = b.obsSel := rfl
@[simp] theorem Block.setSq_xing (n : Nat) (x : Sq) : (b.setSq n x).xing = b.xing := rfl
@[simp] theorem Block.setSq_groups (n : Nat) (x : Sq) : (b.setSq n x).groups = b.groups := rfl
@[simp] theorem Block.setSq_mem (n : Nat) (x : Sq) : (b.setSq n x).mem = b.mem := rfl
@[simp] theorem Block.setSq_steerSpread (n : Nat) (x : Sq) : (b.setSq n x).steerSpread = b.steerSpread := rfl
@[simp] theorem Block.setSq_steerOver (n : Nat) (x : Sq) : (b.setSq n x).steerOver = b.steerOver := rfl
@[simp] theorem Block.setSq_badGran (n : Nat) (x : Sq) : (b.setSq n x).badGran = b.badGran := rfl
@[simp] theorem Block.setSq_held (n : Nat) (x : Sq) : (b.setSq n x).held = b.held := rfl
@[simp] theorem Block.setSq_heldFlits (n : Nat) (x : Sq) : (b.setSq n x).heldFlits = b.heldFlits := rfl
@[simp] theorem Block.setSq_received (n : Nat) (x : Sq) : (b.setSq n x).received = b.received := rfl
@[simp] theorem Block.setSq_streams (n : Nat) (x : Sq) : (b.setSq n x).streams = b.streams := rfl
@[simp] theorem Block.setSq_free (n : Nat) (x : Sq) : (b.setSq n x).free = b.free := rfl
@[simp] theorem Block.setSq_ev (n : Nat) (x : Sq) : (b.setSq n x).ev = b.ev := rfl
@[simp] theorem Block.setSq_sq (n : Nat) (x : Sq) : (b.setSq n x).sq n = x := Tab.get_put_same _ _ _ _
theorem Block.setSq_sq_other (n : Nat) (x : Sq) (i : Nat) (h : i ≠ n) : (b.setSq n x).sq i = b.sq i :=
  Tab.get_put_other _ _ _ h

/-! ### setCq -/

@[simp] theorem Block.setCq_boot (n : Nat) (x : Cq) : (b.setCq n x).boot = b.boot := rfl
@[simp] theorem Block.setCq_setup (n : Nat) (x : Cq) : (b.setCq n x).setup = b.setup := rfl
@[simp] theorem Block.setCq_islands (n : Nat) (x : Cq) : (b.setCq n x).islands = b.islands := rfl
@[simp] theorem Block.setCq_chans (n : Nat) (x : Cq) : (b.setCq n x).chans = b.chans := rfl
@[simp] theorem Block.setCq_sports (n : Nat) (x : Cq) : (b.setCq n x).sports = b.sports := rfl
@[simp] theorem Block.setCq_links (n : Nat) (x : Cq) : (b.setCq n x).links = b.links := rfl
@[simp] theorem Block.setCq_canv (n : Nat) (x : Cq) : (b.setCq n x).canv = b.canv := rfl
@[simp] theorem Block.setCq_ctxs (n : Nat) (x : Cq) : (b.setCq n x).ctxs = b.ctxs := rfl
@[simp] theorem Block.setCq_chains (n : Nat) (x : Cq) : (b.setCq n x).chains = b.chains := rfl
@[simp] theorem Block.setCq_pal (n : Nat) (x : Cq) : (b.setCq n x).pal = b.pal := rfl
@[simp] theorem Block.setCq_xl (n : Nat) (x : Cq) : (b.setCq n x).xl = b.xl := rfl
@[simp] theorem Block.setCq_arb (n : Nat) (x : Cq) : (b.setCq n x).arb = b.arb := rfl
@[simp] theorem Block.setCq_ring (n : Nat) (x : Cq) : (b.setCq n x).ring = b.ring := rfl
@[simp] theorem Block.setCq_palq (n : Nat) (x : Cq) : (b.setCq n x).palq = b.palq := rfl
@[simp] theorem Block.setCq_recIn (n : Nat) (x : Cq) : (b.setCq n x).recIn = b.recIn := rfl
@[simp] theorem Block.setCq_drq (n : Nat) (x : Cq) : (b.setCq n x).drq = b.drq := rfl
@[simp] theorem Block.setCq_pd (n : Nat) (x : Cq) : (b.setCq n x).pd = b.pd := rfl
@[simp] theorem Block.setCq_flt (n : Nat) (x : Cq) : (b.setCq n x).flt = b.flt := rfl
@[simp] theorem Block.setCq_sec (n : Nat) (x : Cq) : (b.setCq n x).sec = b.sec := rfl
@[simp] theorem Block.setCq_regs (n : Nat) (x : Cq) : (b.setCq n x).regs = b.regs := rfl
@[simp] theorem Block.setCq_power (n : Nat) (x : Cq) : (b.setCq n x).power = b.power := rfl
@[simp] theorem Block.setCq_obsSel (n : Nat) (x : Cq) : (b.setCq n x).obsSel = b.obsSel := rfl
@[simp] theorem Block.setCq_xing (n : Nat) (x : Cq) : (b.setCq n x).xing = b.xing := rfl
@[simp] theorem Block.setCq_groups (n : Nat) (x : Cq) : (b.setCq n x).groups = b.groups := rfl
@[simp] theorem Block.setCq_mem (n : Nat) (x : Cq) : (b.setCq n x).mem = b.mem := rfl
@[simp] theorem Block.setCq_steerSpread (n : Nat) (x : Cq) : (b.setCq n x).steerSpread = b.steerSpread := rfl
@[simp] theorem Block.setCq_steerOver (n : Nat) (x : Cq) : (b.setCq n x).steerOver = b.steerOver := rfl
@[simp] theorem Block.setCq_badGran (n : Nat) (x : Cq) : (b.setCq n x).badGran = b.badGran := rfl
@[simp] theorem Block.setCq_held (n : Nat) (x : Cq) : (b.setCq n x).held = b.held := rfl
@[simp] theorem Block.setCq_heldFlits (n : Nat) (x : Cq) : (b.setCq n x).heldFlits = b.heldFlits := rfl
@[simp] theorem Block.setCq_received (n : Nat) (x : Cq) : (b.setCq n x).received = b.received := rfl
@[simp] theorem Block.setCq_streams (n : Nat) (x : Cq) : (b.setCq n x).streams = b.streams := rfl
@[simp] theorem Block.setCq_free (n : Nat) (x : Cq) : (b.setCq n x).free = b.free := rfl
@[simp] theorem Block.setCq_ev (n : Nat) (x : Cq) : (b.setCq n x).ev = b.ev := rfl
@[simp] theorem Block.setCq_cq (n : Nat) (x : Cq) : (b.setCq n x).cq n = x := Tab.get_put_same _ _ _ _
theorem Block.setCq_cq_other (n : Nat) (x : Cq) (i : Nat) (h : i ≠ n) : (b.setCq n x).cq i = b.cq i :=
  Tab.get_put_other _ _ _ h

/-! ### setMbox -/

@[simp] theorem Block.setMbox_boot (n : Nat) (x : Mbox) : (b.setMbox n x).boot = b.boot := rfl
@[simp] theorem Block.setMbox_setup (n : Nat) (x : Mbox) : (b.setMbox n x).setup = b.setup := rfl
@[simp] theorem Block.setMbox_islands (n : Nat) (x : Mbox) : (b.setMbox n x).islands = b.islands := rfl
@[simp] theorem Block.setMbox_chans (n : Nat) (x : Mbox) : (b.setMbox n x).chans = b.chans := rfl
@[simp] theorem Block.setMbox_sports (n : Nat) (x : Mbox) : (b.setMbox n x).sports = b.sports := rfl
@[simp] theorem Block.setMbox_links (n : Nat) (x : Mbox) : (b.setMbox n x).links = b.links := rfl
@[simp] theorem Block.setMbox_canv (n : Nat) (x : Mbox) : (b.setMbox n x).canv = b.canv := rfl
@[simp] theorem Block.setMbox_ctxs (n : Nat) (x : Mbox) : (b.setMbox n x).ctxs = b.ctxs := rfl
@[simp] theorem Block.setMbox_chains (n : Nat) (x : Mbox) : (b.setMbox n x).chains = b.chains := rfl
@[simp] theorem Block.setMbox_pal (n : Nat) (x : Mbox) : (b.setMbox n x).pal = b.pal := rfl
@[simp] theorem Block.setMbox_xl (n : Nat) (x : Mbox) : (b.setMbox n x).xl = b.xl := rfl
@[simp] theorem Block.setMbox_arb (n : Nat) (x : Mbox) : (b.setMbox n x).arb = b.arb := rfl
@[simp] theorem Block.setMbox_ring (n : Nat) (x : Mbox) : (b.setMbox n x).ring = b.ring := rfl
@[simp] theorem Block.setMbox_palq (n : Nat) (x : Mbox) : (b.setMbox n x).palq = b.palq := rfl
@[simp] theorem Block.setMbox_recIn (n : Nat) (x : Mbox) : (b.setMbox n x).recIn = b.recIn := rfl
@[simp] theorem Block.setMbox_drq (n : Nat) (x : Mbox) : (b.setMbox n x).drq = b.drq := rfl
@[simp] theorem Block.setMbox_pd (n : Nat) (x : Mbox) : (b.setMbox n x).pd = b.pd := rfl
@[simp] theorem Block.setMbox_flt (n : Nat) (x : Mbox) : (b.setMbox n x).flt = b.flt := rfl
@[simp] theorem Block.setMbox_sec (n : Nat) (x : Mbox) : (b.setMbox n x).sec = b.sec := rfl
@[simp] theorem Block.setMbox_regs (n : Nat) (x : Mbox) : (b.setMbox n x).regs = b.regs := rfl
@[simp] theorem Block.setMbox_power (n : Nat) (x : Mbox) : (b.setMbox n x).power = b.power := rfl
@[simp] theorem Block.setMbox_obsSel (n : Nat) (x : Mbox) : (b.setMbox n x).obsSel = b.obsSel := rfl
@[simp] theorem Block.setMbox_xing (n : Nat) (x : Mbox) : (b.setMbox n x).xing = b.xing := rfl
@[simp] theorem Block.setMbox_groups (n : Nat) (x : Mbox) : (b.setMbox n x).groups = b.groups := rfl
@[simp] theorem Block.setMbox_mem (n : Nat) (x : Mbox) : (b.setMbox n x).mem = b.mem := rfl
@[simp] theorem Block.setMbox_steerSpread (n : Nat) (x : Mbox) : (b.setMbox n x).steerSpread = b.steerSpread := rfl
@[simp] theorem Block.setMbox_steerOver (n : Nat) (x : Mbox) : (b.setMbox n x).steerOver = b.steerOver := rfl
@[simp] theorem Block.setMbox_badGran (n : Nat) (x : Mbox) : (b.setMbox n x).badGran = b.badGran := rfl
@[simp] theorem Block.setMbox_held (n : Nat) (x : Mbox) : (b.setMbox n x).held = b.held := rfl
@[simp] theorem Block.setMbox_heldFlits (n : Nat) (x : Mbox) : (b.setMbox n x).heldFlits = b.heldFlits := rfl
@[simp] theorem Block.setMbox_received (n : Nat) (x : Mbox) : (b.setMbox n x).received = b.received := rfl
@[simp] theorem Block.setMbox_streams (n : Nat) (x : Mbox) : (b.setMbox n x).streams = b.streams := rfl
@[simp] theorem Block.setMbox_free (n : Nat) (x : Mbox) : (b.setMbox n x).free = b.free := rfl
@[simp] theorem Block.setMbox_ev (n : Nat) (x : Mbox) : (b.setMbox n x).ev = b.ev := rfl
@[simp] theorem Block.setMbox_mbox (n : Nat) (x : Mbox) : (b.setMbox n x).mbox n = x := Tab.get_put_same _ _ _ _
theorem Block.setMbox_mbox_other (n : Nat) (x : Mbox) (i : Nat) (h : i ≠ n) : (b.setMbox n x).mbox i = b.mbox i :=
  Tab.get_put_other _ _ _ h

/-! ### setVinst -/

@[simp] theorem Block.setVinst_boot (n : Nat) (x : Vinst) : (b.setVinst n x).boot = b.boot := rfl
@[simp] theorem Block.setVinst_setup (n : Nat) (x : Vinst) : (b.setVinst n x).setup = b.setup := rfl
@[simp] theorem Block.setVinst_islands (n : Nat) (x : Vinst) : (b.setVinst n x).islands = b.islands := rfl
@[simp] theorem Block.setVinst_chans (n : Nat) (x : Vinst) : (b.setVinst n x).chans = b.chans := rfl
@[simp] theorem Block.setVinst_sports (n : Nat) (x : Vinst) : (b.setVinst n x).sports = b.sports := rfl
@[simp] theorem Block.setVinst_links (n : Nat) (x : Vinst) : (b.setVinst n x).links = b.links := rfl
@[simp] theorem Block.setVinst_canv (n : Nat) (x : Vinst) : (b.setVinst n x).canv = b.canv := rfl
@[simp] theorem Block.setVinst_ctxs (n : Nat) (x : Vinst) : (b.setVinst n x).ctxs = b.ctxs := rfl
@[simp] theorem Block.setVinst_chains (n : Nat) (x : Vinst) : (b.setVinst n x).chains = b.chains := rfl
@[simp] theorem Block.setVinst_pal (n : Nat) (x : Vinst) : (b.setVinst n x).pal = b.pal := rfl
@[simp] theorem Block.setVinst_xl (n : Nat) (x : Vinst) : (b.setVinst n x).xl = b.xl := rfl
@[simp] theorem Block.setVinst_arb (n : Nat) (x : Vinst) : (b.setVinst n x).arb = b.arb := rfl
@[simp] theorem Block.setVinst_ring (n : Nat) (x : Vinst) : (b.setVinst n x).ring = b.ring := rfl
@[simp] theorem Block.setVinst_palq (n : Nat) (x : Vinst) : (b.setVinst n x).palq = b.palq := rfl
@[simp] theorem Block.setVinst_recIn (n : Nat) (x : Vinst) : (b.setVinst n x).recIn = b.recIn := rfl
@[simp] theorem Block.setVinst_drq (n : Nat) (x : Vinst) : (b.setVinst n x).drq = b.drq := rfl
@[simp] theorem Block.setVinst_pd (n : Nat) (x : Vinst) : (b.setVinst n x).pd = b.pd := rfl
@[simp] theorem Block.setVinst_flt (n : Nat) (x : Vinst) : (b.setVinst n x).flt = b.flt := rfl
@[simp] theorem Block.setVinst_sec (n : Nat) (x : Vinst) : (b.setVinst n x).sec = b.sec := rfl
@[simp] theorem Block.setVinst_regs (n : Nat) (x : Vinst) : (b.setVinst n x).regs = b.regs := rfl
@[simp] theorem Block.setVinst_power (n : Nat) (x : Vinst) : (b.setVinst n x).power = b.power := rfl
@[simp] theorem Block.setVinst_obsSel (n : Nat) (x : Vinst) : (b.setVinst n x).obsSel = b.obsSel := rfl
@[simp] theorem Block.setVinst_xing (n : Nat) (x : Vinst) : (b.setVinst n x).xing = b.xing := rfl
@[simp] theorem Block.setVinst_groups (n : Nat) (x : Vinst) : (b.setVinst n x).groups = b.groups := rfl
@[simp] theorem Block.setVinst_mem (n : Nat) (x : Vinst) : (b.setVinst n x).mem = b.mem := rfl
@[simp] theorem Block.setVinst_steerSpread (n : Nat) (x : Vinst) : (b.setVinst n x).steerSpread = b.steerSpread := rfl
@[simp] theorem Block.setVinst_steerOver (n : Nat) (x : Vinst) : (b.setVinst n x).steerOver = b.steerOver := rfl
@[simp] theorem Block.setVinst_badGran (n : Nat) (x : Vinst) : (b.setVinst n x).badGran = b.badGran := rfl
@[simp] theorem Block.setVinst_held (n : Nat) (x : Vinst) : (b.setVinst n x).held = b.held := rfl
@[simp] theorem Block.setVinst_heldFlits (n : Nat) (x : Vinst) : (b.setVinst n x).heldFlits = b.heldFlits := rfl
@[simp] theorem Block.setVinst_received (n : Nat) (x : Vinst) : (b.setVinst n x).received = b.received := rfl
@[simp] theorem Block.setVinst_streams (n : Nat) (x : Vinst) : (b.setVinst n x).streams = b.streams := rfl
@[simp] theorem Block.setVinst_free (n : Nat) (x : Vinst) : (b.setVinst n x).free = b.free := rfl
@[simp] theorem Block.setVinst_ev (n : Nat) (x : Vinst) : (b.setVinst n x).ev = b.ev := rfl
@[simp] theorem Block.setVinst_vinst (n : Nat) (x : Vinst) : (b.setVinst n x).vinst n = x := Tab.get_put_same _ _ _ _
theorem Block.setVinst_vinst_other (n : Nat) (x : Vinst) (i : Nat) (h : i ≠ n) : (b.setVinst n x).vinst i = b.vinst i :=
  Tab.get_put_other _ _ _ h

/-! ### setSlot -/

@[simp] theorem Block.setSlot_boot (n : Nat) (x : Slot) : (b.setSlot n x).boot = b.boot := rfl
@[simp] theorem Block.setSlot_setup (n : Nat) (x : Slot) : (b.setSlot n x).setup = b.setup := rfl
@[simp] theorem Block.setSlot_islands (n : Nat) (x : Slot) : (b.setSlot n x).islands = b.islands := rfl
@[simp] theorem Block.setSlot_chans (n : Nat) (x : Slot) : (b.setSlot n x).chans = b.chans := rfl
@[simp] theorem Block.setSlot_sports (n : Nat) (x : Slot) : (b.setSlot n x).sports = b.sports := rfl
@[simp] theorem Block.setSlot_links (n : Nat) (x : Slot) : (b.setSlot n x).links = b.links := rfl
@[simp] theorem Block.setSlot_rin (n : Nat) (x : Slot) : (b.setSlot n x).rin = b.rin := rfl
@[simp] theorem Block.setSlot_ctxs (n : Nat) (x : Slot) : (b.setSlot n x).ctxs = b.ctxs := rfl
@[simp] theorem Block.setSlot_chains (n : Nat) (x : Slot) : (b.setSlot n x).chains = b.chains := rfl
@[simp] theorem Block.setSlot_pal (n : Nat) (x : Slot) : (b.setSlot n x).pal = b.pal := rfl
@[simp] theorem Block.setSlot_xl (n : Nat) (x : Slot) : (b.setSlot n x).xl = b.xl := rfl
@[simp] theorem Block.setSlot_arb (n : Nat) (x : Slot) : (b.setSlot n x).arb = b.arb := rfl
@[simp] theorem Block.setSlot_ring (n : Nat) (x : Slot) : (b.setSlot n x).ring = b.ring := rfl
@[simp] theorem Block.setSlot_palq (n : Nat) (x : Slot) : (b.setSlot n x).palq = b.palq := rfl
@[simp] theorem Block.setSlot_recIn (n : Nat) (x : Slot) : (b.setSlot n x).recIn = b.recIn := rfl
@[simp] theorem Block.setSlot_drq (n : Nat) (x : Slot) : (b.setSlot n x).drq = b.drq := rfl
@[simp] theorem Block.setSlot_pd (n : Nat) (x : Slot) : (b.setSlot n x).pd = b.pd := rfl
@[simp] theorem Block.setSlot_flt (n : Nat) (x : Slot) : (b.setSlot n x).flt = b.flt := rfl
@[simp] theorem Block.setSlot_sec (n : Nat) (x : Slot) : (b.setSlot n x).sec = b.sec := rfl
@[simp] theorem Block.setSlot_regs (n : Nat) (x : Slot) : (b.setSlot n x).regs = b.regs := rfl
@[simp] theorem Block.setSlot_power (n : Nat) (x : Slot) : (b.setSlot n x).power = b.power := rfl
@[simp] theorem Block.setSlot_obsSel (n : Nat) (x : Slot) : (b.setSlot n x).obsSel = b.obsSel := rfl
@[simp] theorem Block.setSlot_xing (n : Nat) (x : Slot) : (b.setSlot n x).xing = b.xing := rfl
@[simp] theorem Block.setSlot_groups (n : Nat) (x : Slot) : (b.setSlot n x).groups = b.groups := rfl
@[simp] theorem Block.setSlot_mem (n : Nat) (x : Slot) : (b.setSlot n x).mem = b.mem := rfl
@[simp] theorem Block.setSlot_steerSpread (n : Nat) (x : Slot) : (b.setSlot n x).steerSpread = b.steerSpread := rfl
@[simp] theorem Block.setSlot_steerOver (n : Nat) (x : Slot) : (b.setSlot n x).steerOver = b.steerOver := rfl
@[simp] theorem Block.setSlot_badGran (n : Nat) (x : Slot) : (b.setSlot n x).badGran = b.badGran := rfl
@[simp] theorem Block.setSlot_held (n : Nat) (x : Slot) : (b.setSlot n x).held = b.held := rfl
@[simp] theorem Block.setSlot_heldFlits (n : Nat) (x : Slot) : (b.setSlot n x).heldFlits = b.heldFlits := rfl
@[simp] theorem Block.setSlot_received (n : Nat) (x : Slot) : (b.setSlot n x).received = b.received := rfl
@[simp] theorem Block.setSlot_streams (n : Nat) (x : Slot) : (b.setSlot n x).streams = b.streams := rfl
@[simp] theorem Block.setSlot_free (n : Nat) (x : Slot) : (b.setSlot n x).free = b.free := rfl
@[simp] theorem Block.setSlot_ev (n : Nat) (x : Slot) : (b.setSlot n x).ev = b.ev := rfl
@[simp] theorem Block.setSlot_slot (n : Nat) (x : Slot) : (b.setSlot n x).slot n = x := Tab.get_put_same _ _ _ _
theorem Block.setSlot_slot_other (n : Nat) (x : Slot) (i : Nat) (h : i ≠ n) : (b.setSlot n x).slot i = b.slot i :=
  Tab.get_put_other _ _ _ h

/-! ### setCtx -/

@[simp] theorem Block.setCtx_boot (n : Nat) (x : Ctx) : (b.setCtx n x).boot = b.boot := rfl
@[simp] theorem Block.setCtx_setup (n : Nat) (x : Ctx) : (b.setCtx n x).setup = b.setup := rfl
@[simp] theorem Block.setCtx_islands (n : Nat) (x : Ctx) : (b.setCtx n x).islands = b.islands := rfl
@[simp] theorem Block.setCtx_chans (n : Nat) (x : Ctx) : (b.setCtx n x).chans = b.chans := rfl
@[simp] theorem Block.setCtx_sports (n : Nat) (x : Ctx) : (b.setCtx n x).sports = b.sports := rfl
@[simp] theorem Block.setCtx_links (n : Nat) (x : Ctx) : (b.setCtx n x).links = b.links := rfl
@[simp] theorem Block.setCtx_rin (n : Nat) (x : Ctx) : (b.setCtx n x).rin = b.rin := rfl
@[simp] theorem Block.setCtx_canv (n : Nat) (x : Ctx) : (b.setCtx n x).canv = b.canv := rfl
@[simp] theorem Block.setCtx_chains (n : Nat) (x : Ctx) : (b.setCtx n x).chains = b.chains := rfl
@[simp] theorem Block.setCtx_pal (n : Nat) (x : Ctx) : (b.setCtx n x).pal = b.pal := rfl
@[simp] theorem Block.setCtx_xl (n : Nat) (x : Ctx) : (b.setCtx n x).xl = b.xl := rfl
@[simp] theorem Block.setCtx_arb (n : Nat) (x : Ctx) : (b.setCtx n x).arb = b.arb := rfl
@[simp] theorem Block.setCtx_ring (n : Nat) (x : Ctx) : (b.setCtx n x).ring = b.ring := rfl
@[simp] theorem Block.setCtx_palq (n : Nat) (x : Ctx) : (b.setCtx n x).palq = b.palq := rfl
@[simp] theorem Block.setCtx_recIn (n : Nat) (x : Ctx) : (b.setCtx n x).recIn = b.recIn := rfl
@[simp] theorem Block.setCtx_drq (n : Nat) (x : Ctx) : (b.setCtx n x).drq = b.drq := rfl
@[simp] theorem Block.setCtx_pd (n : Nat) (x : Ctx) : (b.setCtx n x).pd = b.pd := rfl
@[simp] theorem Block.setCtx_flt (n : Nat) (x : Ctx) : (b.setCtx n x).flt = b.flt := rfl
@[simp] theorem Block.setCtx_sec (n : Nat) (x : Ctx) : (b.setCtx n x).sec = b.sec := rfl
@[simp] theorem Block.setCtx_regs (n : Nat) (x : Ctx) : (b.setCtx n x).regs = b.regs := rfl
@[simp] theorem Block.setCtx_power (n : Nat) (x : Ctx) : (b.setCtx n x).power = b.power := rfl
@[simp] theorem Block.setCtx_obsSel (n : Nat) (x : Ctx) : (b.setCtx n x).obsSel = b.obsSel := rfl
@[simp] theorem Block.setCtx_xing (n : Nat) (x : Ctx) : (b.setCtx n x).xing = b.xing := rfl
@[simp] theorem Block.setCtx_groups (n : Nat) (x : Ctx) : (b.setCtx n x).groups = b.groups := rfl
@[simp] theorem Block.setCtx_mem (n : Nat) (x : Ctx) : (b.setCtx n x).mem = b.mem := rfl
@[simp] theorem Block.setCtx_steerSpread (n : Nat) (x : Ctx) : (b.setCtx n x).steerSpread = b.steerSpread := rfl
@[simp] theorem Block.setCtx_steerOver (n : Nat) (x : Ctx) : (b.setCtx n x).steerOver = b.steerOver := rfl
@[simp] theorem Block.setCtx_badGran (n : Nat) (x : Ctx) : (b.setCtx n x).badGran = b.badGran := rfl
@[simp] theorem Block.setCtx_held (n : Nat) (x : Ctx) : (b.setCtx n x).held = b.held := rfl
@[simp] theorem Block.setCtx_heldFlits (n : Nat) (x : Ctx) : (b.setCtx n x).heldFlits = b.heldFlits := rfl
@[simp] theorem Block.setCtx_received (n : Nat) (x : Ctx) : (b.setCtx n x).received = b.received := rfl
@[simp] theorem Block.setCtx_streams (n : Nat) (x : Ctx) : (b.setCtx n x).streams = b.streams := rfl
@[simp] theorem Block.setCtx_free (n : Nat) (x : Ctx) : (b.setCtx n x).free = b.free := rfl
@[simp] theorem Block.setCtx_ev (n : Nat) (x : Ctx) : (b.setCtx n x).ev = b.ev := rfl
@[simp] theorem Block.setCtx_ctx (n : Nat) (x : Ctx) : (b.setCtx n x).ctx n = x := Tab.get_put_same _ _ _ _
theorem Block.setCtx_ctx_other (n : Nat) (x : Ctx) (i : Nat) (h : i ≠ n) : (b.setCtx n x).ctx i = b.ctx i :=
  Tab.get_put_other _ _ _ h

/-! ### setChain -/

@[simp] theorem Block.setChain_boot (n : Nat) (x : Chain) : (b.setChain n x).boot = b.boot := rfl
@[simp] theorem Block.setChain_setup (n : Nat) (x : Chain) : (b.setChain n x).setup = b.setup := rfl
@[simp] theorem Block.setChain_islands (n : Nat) (x : Chain) : (b.setChain n x).islands = b.islands := rfl
@[simp] theorem Block.setChain_chans (n : Nat) (x : Chain) : (b.setChain n x).chans = b.chans := rfl
@[simp] theorem Block.setChain_sports (n : Nat) (x : Chain) : (b.setChain n x).sports = b.sports := rfl
@[simp] theorem Block.setChain_links (n : Nat) (x : Chain) : (b.setChain n x).links = b.links := rfl
@[simp] theorem Block.setChain_rin (n : Nat) (x : Chain) : (b.setChain n x).rin = b.rin := rfl
@[simp] theorem Block.setChain_canv (n : Nat) (x : Chain) : (b.setChain n x).canv = b.canv := rfl
@[simp] theorem Block.setChain_ctxs (n : Nat) (x : Chain) : (b.setChain n x).ctxs = b.ctxs := rfl
@[simp] theorem Block.setChain_pal (n : Nat) (x : Chain) : (b.setChain n x).pal = b.pal := rfl
@[simp] theorem Block.setChain_xl (n : Nat) (x : Chain) : (b.setChain n x).xl = b.xl := rfl
@[simp] theorem Block.setChain_arb (n : Nat) (x : Chain) : (b.setChain n x).arb = b.arb := rfl
@[simp] theorem Block.setChain_ring (n : Nat) (x : Chain) : (b.setChain n x).ring = b.ring := rfl
@[simp] theorem Block.setChain_palq (n : Nat) (x : Chain) : (b.setChain n x).palq = b.palq := rfl
@[simp] theorem Block.setChain_recIn (n : Nat) (x : Chain) : (b.setChain n x).recIn = b.recIn := rfl
@[simp] theorem Block.setChain_drq (n : Nat) (x : Chain) : (b.setChain n x).drq = b.drq := rfl
@[simp] theorem Block.setChain_pd (n : Nat) (x : Chain) : (b.setChain n x).pd = b.pd := rfl
@[simp] theorem Block.setChain_flt (n : Nat) (x : Chain) : (b.setChain n x).flt = b.flt := rfl
@[simp] theorem Block.setChain_sec (n : Nat) (x : Chain) : (b.setChain n x).sec = b.sec := rfl
@[simp] theorem Block.setChain_regs (n : Nat) (x : Chain) : (b.setChain n x).regs = b.regs := rfl
@[simp] theorem Block.setChain_power (n : Nat) (x : Chain) : (b.setChain n x).power = b.power := rfl
@[simp] theorem Block.setChain_obsSel (n : Nat) (x : Chain) : (b.setChain n x).obsSel = b.obsSel := rfl
@[simp] theorem Block.setChain_xing (n : Nat) (x : Chain) : (b.setChain n x).xing = b.xing := rfl
@[simp] theorem Block.setChain_groups (n : Nat) (x : Chain) : (b.setChain n x).groups = b.groups := rfl
@[simp] theorem Block.setChain_mem (n : Nat) (x : Chain) : (b.setChain n x).mem = b.mem := rfl
@[simp] theorem Block.setChain_steerSpread (n : Nat) (x : Chain) : (b.setChain n x).steerSpread = b.steerSpread := rfl
@[simp] theorem Block.setChain_steerOver (n : Nat) (x : Chain) : (b.setChain n x).steerOver = b.steerOver := rfl
@[simp] theorem Block.setChain_badGran (n : Nat) (x : Chain) : (b.setChain n x).badGran = b.badGran := rfl
@[simp] theorem Block.setChain_held (n : Nat) (x : Chain) : (b.setChain n x).held = b.held := rfl
@[simp] theorem Block.setChain_heldFlits (n : Nat) (x : Chain) : (b.setChain n x).heldFlits = b.heldFlits := rfl
@[simp] theorem Block.setChain_received (n : Nat) (x : Chain) : (b.setChain n x).received = b.received := rfl
@[simp] theorem Block.setChain_streams (n : Nat) (x : Chain) : (b.setChain n x).streams = b.streams := rfl
@[simp] theorem Block.setChain_free (n : Nat) (x : Chain) : (b.setChain n x).free = b.free := rfl
@[simp] theorem Block.setChain_ev (n : Nat) (x : Chain) : (b.setChain n x).ev = b.ev := rfl
@[simp] theorem Block.setChain_chainAt (n : Nat) (x : Chain) : (b.setChain n x).chainAt n = x := Tab.get_put_same _ _ _ _
theorem Block.setChain_chainAt_other (n : Nat) (x : Chain) (i : Nat) (h : i ≠ n) : (b.setChain n x).chainAt i = b.chainAt i :=
  Tab.get_put_other _ _ _ h

/-! ### setPslot -/

@[simp] theorem Block.setPslot_boot (n : Nat) (x : PoolSlot) : (b.setPslot n x).boot = b.boot := rfl
@[simp] theorem Block.setPslot_setup (n : Nat) (x : PoolSlot) : (b.setPslot n x).setup = b.setup := rfl
@[simp] theorem Block.setPslot_islands (n : Nat) (x : PoolSlot) : (b.setPslot n x).islands = b.islands := rfl
@[simp] theorem Block.setPslot_chans (n : Nat) (x : PoolSlot) : (b.setPslot n x).chans = b.chans := rfl
@[simp] theorem Block.setPslot_sports (n : Nat) (x : PoolSlot) : (b.setPslot n x).sports = b.sports := rfl
@[simp] theorem Block.setPslot_links (n : Nat) (x : PoolSlot) : (b.setPslot n x).links = b.links := rfl
@[simp] theorem Block.setPslot_rin (n : Nat) (x : PoolSlot) : (b.setPslot n x).rin = b.rin := rfl
@[simp] theorem Block.setPslot_canv (n : Nat) (x : PoolSlot) : (b.setPslot n x).canv = b.canv := rfl
@[simp] theorem Block.setPslot_ctxs (n : Nat) (x : PoolSlot) : (b.setPslot n x).ctxs = b.ctxs := rfl
@[simp] theorem Block.setPslot_chains (n : Nat) (x : PoolSlot) : (b.setPslot n x).chains = b.chains := rfl
@[simp] theorem Block.setPslot_xl (n : Nat) (x : PoolSlot) : (b.setPslot n x).xl = b.xl := rfl
@[simp] theorem Block.setPslot_arb (n : Nat) (x : PoolSlot) : (b.setPslot n x).arb = b.arb := rfl
@[simp] theorem Block.setPslot_ring (n : Nat) (x : PoolSlot) : (b.setPslot n x).ring = b.ring := rfl
@[simp] theorem Block.setPslot_palq (n : Nat) (x : PoolSlot) : (b.setPslot n x).palq = b.palq := rfl
@[simp] theorem Block.setPslot_recIn (n : Nat) (x : PoolSlot) : (b.setPslot n x).recIn = b.recIn := rfl
@[simp] theorem Block.setPslot_drq (n : Nat) (x : PoolSlot) : (b.setPslot n x).drq = b.drq := rfl
@[simp] theorem Block.setPslot_pd (n : Nat) (x : PoolSlot) : (b.setPslot n x).pd = b.pd := rfl
@[simp] theorem Block.setPslot_flt (n : Nat) (x : PoolSlot) : (b.setPslot n x).flt = b.flt := rfl
@[simp] theorem Block.setPslot_sec (n : Nat) (x : PoolSlot) : (b.setPslot n x).sec = b.sec := rfl
@[simp] theorem Block.setPslot_regs (n : Nat) (x : PoolSlot) : (b.setPslot n x).regs = b.regs := rfl
@[simp] theorem Block.setPslot_power (n : Nat) (x : PoolSlot) : (b.setPslot n x).power = b.power := rfl
@[simp] theorem Block.setPslot_obsSel (n : Nat) (x : PoolSlot) : (b.setPslot n x).obsSel = b.obsSel := rfl
@[simp] theorem Block.setPslot_xing (n : Nat) (x : PoolSlot) : (b.setPslot n x).xing = b.xing := rfl
@[simp] theorem Block.setPslot_groups (n : Nat) (x : PoolSlot) : (b.setPslot n x).groups = b.groups := rfl
@[simp] theorem Block.setPslot_mem (n : Nat) (x : PoolSlot) : (b.setPslot n x).mem = b.mem := rfl
@[simp] theorem Block.setPslot_steerSpread (n : Nat) (x : PoolSlot) : (b.setPslot n x).steerSpread = b.steerSpread := rfl
@[simp] theorem Block.setPslot_steerOver (n : Nat) (x : PoolSlot) : (b.setPslot n x).steerOver = b.steerOver := rfl
@[simp] theorem Block.setPslot_badGran (n : Nat) (x : PoolSlot) : (b.setPslot n x).badGran = b.badGran := rfl
@[simp] theorem Block.setPslot_held (n : Nat) (x : PoolSlot) : (b.setPslot n x).held = b.held := rfl
@[simp] theorem Block.setPslot_heldFlits (n : Nat) (x : PoolSlot) : (b.setPslot n x).heldFlits = b.heldFlits := rfl
@[simp] theorem Block.setPslot_received (n : Nat) (x : PoolSlot) : (b.setPslot n x).received = b.received := rfl
@[simp] theorem Block.setPslot_streams (n : Nat) (x : PoolSlot) : (b.setPslot n x).streams = b.streams := rfl
@[simp] theorem Block.setPslot_free (n : Nat) (x : PoolSlot) : (b.setPslot n x).free = b.free := rfl
@[simp] theorem Block.setPslot_ev (n : Nat) (x : PoolSlot) : (b.setPslot n x).ev = b.ev := rfl
@[simp] theorem Block.setPslot_pslot (n : Nat) (x : PoolSlot) : (b.setPslot n x).pslot n = x := Tab.get_put_same _ _ _ _
theorem Block.setPslot_pslot_other (n : Nat) (x : PoolSlot) (i : Nat) (h : i ≠ n) : (b.setPslot n x).pslot i = b.pslot i :=
  Tab.get_put_other _ _ _ h

/-! ### setArb -/

@[simp] theorem Block.setArb_boot (n : Nat) (x : Arb) : (b.setArb n x).boot = b.boot := rfl
@[simp] theorem Block.setArb_setup (n : Nat) (x : Arb) : (b.setArb n x).setup = b.setup := rfl
@[simp] theorem Block.setArb_islands (n : Nat) (x : Arb) : (b.setArb n x).islands = b.islands := rfl
@[simp] theorem Block.setArb_chans (n : Nat) (x : Arb) : (b.setArb n x).chans = b.chans := rfl
@[simp] theorem Block.setArb_sports (n : Nat) (x : Arb) : (b.setArb n x).sports = b.sports := rfl
@[simp] theorem Block.setArb_links (n : Nat) (x : Arb) : (b.setArb n x).links = b.links := rfl
@[simp] theorem Block.setArb_rin (n : Nat) (x : Arb) : (b.setArb n x).rin = b.rin := rfl
@[simp] theorem Block.setArb_canv (n : Nat) (x : Arb) : (b.setArb n x).canv = b.canv := rfl
@[simp] theorem Block.setArb_ctxs (n : Nat) (x : Arb) : (b.setArb n x).ctxs = b.ctxs := rfl
@[simp] theorem Block.setArb_chains (n : Nat) (x : Arb) : (b.setArb n x).chains = b.chains := rfl
@[simp] theorem Block.setArb_pal (n : Nat) (x : Arb) : (b.setArb n x).pal = b.pal := rfl
@[simp] theorem Block.setArb_xl (n : Nat) (x : Arb) : (b.setArb n x).xl = b.xl := rfl
@[simp] theorem Block.setArb_ring (n : Nat) (x : Arb) : (b.setArb n x).ring = b.ring := rfl
@[simp] theorem Block.setArb_palq (n : Nat) (x : Arb) : (b.setArb n x).palq = b.palq := rfl
@[simp] theorem Block.setArb_recIn (n : Nat) (x : Arb) : (b.setArb n x).recIn = b.recIn := rfl
@[simp] theorem Block.setArb_drq (n : Nat) (x : Arb) : (b.setArb n x).drq = b.drq := rfl
@[simp] theorem Block.setArb_pd (n : Nat) (x : Arb) : (b.setArb n x).pd = b.pd := rfl
@[simp] theorem Block.setArb_flt (n : Nat) (x : Arb) : (b.setArb n x).flt = b.flt := rfl
@[simp] theorem Block.setArb_sec (n : Nat) (x : Arb) : (b.setArb n x).sec = b.sec := rfl
@[simp] theorem Block.setArb_regs (n : Nat) (x : Arb) : (b.setArb n x).regs = b.regs := rfl
@[simp] theorem Block.setArb_power (n : Nat) (x : Arb) : (b.setArb n x).power = b.power := rfl
@[simp] theorem Block.setArb_obsSel (n : Nat) (x : Arb) : (b.setArb n x).obsSel = b.obsSel := rfl
@[simp] theorem Block.setArb_xing (n : Nat) (x : Arb) : (b.setArb n x).xing = b.xing := rfl
@[simp] theorem Block.setArb_groups (n : Nat) (x : Arb) : (b.setArb n x).groups = b.groups := rfl
@[simp] theorem Block.setArb_mem (n : Nat) (x : Arb) : (b.setArb n x).mem = b.mem := rfl
@[simp] theorem Block.setArb_steerSpread (n : Nat) (x : Arb) : (b.setArb n x).steerSpread = b.steerSpread := rfl
@[simp] theorem Block.setArb_steerOver (n : Nat) (x : Arb) : (b.setArb n x).steerOver = b.steerOver := rfl
@[simp] theorem Block.setArb_badGran (n : Nat) (x : Arb) : (b.setArb n x).badGran = b.badGran := rfl
@[simp] theorem Block.setArb_held (n : Nat) (x : Arb) : (b.setArb n x).held = b.held := rfl
@[simp] theorem Block.setArb_heldFlits (n : Nat) (x : Arb) : (b.setArb n x).heldFlits = b.heldFlits := rfl
@[simp] theorem Block.setArb_received (n : Nat) (x : Arb) : (b.setArb n x).received = b.received := rfl
@[simp] theorem Block.setArb_streams (n : Nat) (x : Arb) : (b.setArb n x).streams = b.streams := rfl
@[simp] theorem Block.setArb_free (n : Nat) (x : Arb) : (b.setArb n x).free = b.free := rfl
@[simp] theorem Block.setArb_ev (n : Nat) (x : Arb) : (b.setArb n x).ev = b.ev := rfl
@[simp] theorem Block.setArb_arbAt (n : Nat) (x : Arb) : (b.setArb n x).arbAt n = x := Tab.get_put_same _ _ _ _
theorem Block.setArb_arbAt_other (n : Nat) (x : Arb) (i : Nat) (h : i ≠ n) : (b.setArb n x).arbAt i = b.arbAt i :=
  Tab.get_put_other _ _ _ h

/-! ### setLine -/

@[simp] theorem Block.setLine_boot (n : Nat) (x : Drq) : (b.setLine n x).boot = b.boot := rfl
@[simp] theorem Block.setLine_setup (n : Nat) (x : Drq) : (b.setLine n x).setup = b.setup := rfl
@[simp] theorem Block.setLine_islands (n : Nat) (x : Drq) : (b.setLine n x).islands = b.islands := rfl
@[simp] theorem Block.setLine_chans (n : Nat) (x : Drq) : (b.setLine n x).chans = b.chans := rfl
@[simp] theorem Block.setLine_sports (n : Nat) (x : Drq) : (b.setLine n x).sports = b.sports := rfl
@[simp] theorem Block.setLine_links (n : Nat) (x : Drq) : (b.setLine n x).links = b.links := rfl
@[simp] theorem Block.setLine_rin (n : Nat) (x : Drq) : (b.setLine n x).rin = b.rin := rfl
@[simp] theorem Block.setLine_canv (n : Nat) (x : Drq) : (b.setLine n x).canv = b.canv := rfl
@[simp] theorem Block.setLine_ctxs (n : Nat) (x : Drq) : (b.setLine n x).ctxs = b.ctxs := rfl
@[simp] theorem Block.setLine_chains (n : Nat) (x : Drq) : (b.setLine n x).chains = b.chains := rfl
@[simp] theorem Block.setLine_pal (n : Nat) (x : Drq) : (b.setLine n x).pal = b.pal := rfl
@[simp] theorem Block.setLine_xl (n : Nat) (x : Drq) : (b.setLine n x).xl = b.xl := rfl
@[simp] theorem Block.setLine_arb (n : Nat) (x : Drq) : (b.setLine n x).arb = b.arb := rfl
@[simp] theorem Block.setLine_ring (n : Nat) (x : Drq) : (b.setLine n x).ring = b.ring := rfl
@[simp] theorem Block.setLine_palq (n : Nat) (x : Drq) : (b.setLine n x).palq = b.palq := rfl
@[simp] theorem Block.setLine_recIn (n : Nat) (x : Drq) : (b.setLine n x).recIn = b.recIn := rfl
@[simp] theorem Block.setLine_pd (n : Nat) (x : Drq) : (b.setLine n x).pd = b.pd := rfl
@[simp] theorem Block.setLine_flt (n : Nat) (x : Drq) : (b.setLine n x).flt = b.flt := rfl
@[simp] theorem Block.setLine_sec (n : Nat) (x : Drq) : (b.setLine n x).sec = b.sec := rfl
@[simp] theorem Block.setLine_regs (n : Nat) (x : Drq) : (b.setLine n x).regs = b.regs := rfl
@[simp] theorem Block.setLine_power (n : Nat) (x : Drq) : (b.setLine n x).power = b.power := rfl
@[simp] theorem Block.setLine_obsSel (n : Nat) (x : Drq) : (b.setLine n x).obsSel = b.obsSel := rfl
@[simp] theorem Block.setLine_xing (n : Nat) (x : Drq) : (b.setLine n x).xing = b.xing := rfl
@[simp] theorem Block.setLine_groups (n : Nat) (x : Drq) : (b.setLine n x).groups = b.groups := rfl
@[simp] theorem Block.setLine_mem (n : Nat) (x : Drq) : (b.setLine n x).mem = b.mem := rfl
@[simp] theorem Block.setLine_steerSpread (n : Nat) (x : Drq) : (b.setLine n x).steerSpread = b.steerSpread := rfl
@[simp] theorem Block.setLine_steerOver (n : Nat) (x : Drq) : (b.setLine n x).steerOver = b.steerOver := rfl
@[simp] theorem Block.setLine_badGran (n : Nat) (x : Drq) : (b.setLine n x).badGran = b.badGran := rfl
@[simp] theorem Block.setLine_held (n : Nat) (x : Drq) : (b.setLine n x).held = b.held := rfl
@[simp] theorem Block.setLine_heldFlits (n : Nat) (x : Drq) : (b.setLine n x).heldFlits = b.heldFlits := rfl
@[simp] theorem Block.setLine_received (n : Nat) (x : Drq) : (b.setLine n x).received = b.received := rfl
@[simp] theorem Block.setLine_streams (n : Nat) (x : Drq) : (b.setLine n x).streams = b.streams := rfl
@[simp] theorem Block.setLine_free (n : Nat) (x : Drq) : (b.setLine n x).free = b.free := rfl
@[simp] theorem Block.setLine_ev (n : Nat) (x : Drq) : (b.setLine n x).ev = b.ev := rfl
@[simp] theorem Block.setLine_line (n : Nat) (x : Drq) : (b.setLine n x).line n = x := Tab.get_put_same _ _ _ _
theorem Block.setLine_line_other (n : Nat) (x : Drq) (i : Nat) (h : i ≠ n) : (b.setLine n x).line i = b.line i :=
  Tab.get_put_other _ _ _ h

/-! ### setPdom -/

@[simp] theorem Block.setPdom_boot (n : Nat) (x : PDom) : (b.setPdom n x).boot = b.boot := rfl
@[simp] theorem Block.setPdom_setup (n : Nat) (x : PDom) : (b.setPdom n x).setup = b.setup := rfl
@[simp] theorem Block.setPdom_islands (n : Nat) (x : PDom) : (b.setPdom n x).islands = b.islands := rfl
@[simp] theorem Block.setPdom_chans (n : Nat) (x : PDom) : (b.setPdom n x).chans = b.chans := rfl
@[simp] theorem Block.setPdom_sports (n : Nat) (x : PDom) : (b.setPdom n x).sports = b.sports := rfl
@[simp] theorem Block.setPdom_links (n : Nat) (x : PDom) : (b.setPdom n x).links = b.links := rfl
@[simp] theorem Block.setPdom_rin (n : Nat) (x : PDom) : (b.setPdom n x).rin = b.rin := rfl
@[simp] theorem Block.setPdom_canv (n : Nat) (x : PDom) : (b.setPdom n x).canv = b.canv := rfl
@[simp] theorem Block.setPdom_ctxs (n : Nat) (x : PDom) : (b.setPdom n x).ctxs = b.ctxs := rfl
@[simp] theorem Block.setPdom_chains (n : Nat) (x : PDom) : (b.setPdom n x).chains = b.chains := rfl
@[simp] theorem Block.setPdom_pal (n : Nat) (x : PDom) : (b.setPdom n x).pal = b.pal := rfl
@[simp] theorem Block.setPdom_xl (n : Nat) (x : PDom) : (b.setPdom n x).xl = b.xl := rfl
@[simp] theorem Block.setPdom_arb (n : Nat) (x : PDom) : (b.setPdom n x).arb = b.arb := rfl
@[simp] theorem Block.setPdom_ring (n : Nat) (x : PDom) : (b.setPdom n x).ring = b.ring := rfl
@[simp] theorem Block.setPdom_palq (n : Nat) (x : PDom) : (b.setPdom n x).palq = b.palq := rfl
@[simp] theorem Block.setPdom_recIn (n : Nat) (x : PDom) : (b.setPdom n x).recIn = b.recIn := rfl
@[simp] theorem Block.setPdom_drq (n : Nat) (x : PDom) : (b.setPdom n x).drq = b.drq := rfl
@[simp] theorem Block.setPdom_flt (n : Nat) (x : PDom) : (b.setPdom n x).flt = b.flt := rfl
@[simp] theorem Block.setPdom_sec (n : Nat) (x : PDom) : (b.setPdom n x).sec = b.sec := rfl
@[simp] theorem Block.setPdom_regs (n : Nat) (x : PDom) : (b.setPdom n x).regs = b.regs := rfl
@[simp] theorem Block.setPdom_power (n : Nat) (x : PDom) : (b.setPdom n x).power = b.power := rfl
@[simp] theorem Block.setPdom_obsSel (n : Nat) (x : PDom) : (b.setPdom n x).obsSel = b.obsSel := rfl
@[simp] theorem Block.setPdom_xing (n : Nat) (x : PDom) : (b.setPdom n x).xing = b.xing := rfl
@[simp] theorem Block.setPdom_groups (n : Nat) (x : PDom) : (b.setPdom n x).groups = b.groups := rfl
@[simp] theorem Block.setPdom_mem (n : Nat) (x : PDom) : (b.setPdom n x).mem = b.mem := rfl
@[simp] theorem Block.setPdom_steerSpread (n : Nat) (x : PDom) : (b.setPdom n x).steerSpread = b.steerSpread := rfl
@[simp] theorem Block.setPdom_steerOver (n : Nat) (x : PDom) : (b.setPdom n x).steerOver = b.steerOver := rfl
@[simp] theorem Block.setPdom_badGran (n : Nat) (x : PDom) : (b.setPdom n x).badGran = b.badGran := rfl
@[simp] theorem Block.setPdom_held (n : Nat) (x : PDom) : (b.setPdom n x).held = b.held := rfl
@[simp] theorem Block.setPdom_heldFlits (n : Nat) (x : PDom) : (b.setPdom n x).heldFlits = b.heldFlits := rfl
@[simp] theorem Block.setPdom_received (n : Nat) (x : PDom) : (b.setPdom n x).received = b.received := rfl
@[simp] theorem Block.setPdom_streams (n : Nat) (x : PDom) : (b.setPdom n x).streams = b.streams := rfl
@[simp] theorem Block.setPdom_free (n : Nat) (x : PDom) : (b.setPdom n x).free = b.free := rfl
@[simp] theorem Block.setPdom_ev (n : Nat) (x : PDom) : (b.setPdom n x).ev = b.ev := rfl
@[simp] theorem Block.setPdom_pdom (n : Nat) (x : PDom) : (b.setPdom n x).pdom n = x := Tab.get_put_same _ _ _ _
theorem Block.setPdom_pdom_other (n : Nat) (x : PDom) (i : Nat) (h : i ≠ n) : (b.setPdom n x).pdom i = b.pdom i :=
  Tab.get_put_other _ _ _ h

/-! ### setGrp -/

@[simp] theorem Block.setGrp_boot (n : Nat) (x : GroupSt) : (b.setGrp n x).boot = b.boot := rfl
@[simp] theorem Block.setGrp_setup (n : Nat) (x : GroupSt) : (b.setGrp n x).setup = b.setup := rfl
@[simp] theorem Block.setGrp_islands (n : Nat) (x : GroupSt) : (b.setGrp n x).islands = b.islands := rfl
@[simp] theorem Block.setGrp_chans (n : Nat) (x : GroupSt) : (b.setGrp n x).chans = b.chans := rfl
@[simp] theorem Block.setGrp_sports (n : Nat) (x : GroupSt) : (b.setGrp n x).sports = b.sports := rfl
@[simp] theorem Block.setGrp_links (n : Nat) (x : GroupSt) : (b.setGrp n x).links = b.links := rfl
@[simp] theorem Block.setGrp_rin (n : Nat) (x : GroupSt) : (b.setGrp n x).rin = b.rin := rfl
@[simp] theorem Block.setGrp_canv (n : Nat) (x : GroupSt) : (b.setGrp n x).canv = b.canv := rfl
@[simp] theorem Block.setGrp_ctxs (n : Nat) (x : GroupSt) : (b.setGrp n x).ctxs = b.ctxs := rfl
@[simp] theorem Block.setGrp_chains (n : Nat) (x : GroupSt) : (b.setGrp n x).chains = b.chains := rfl
@[simp] theorem Block.setGrp_pal (n : Nat) (x : GroupSt) : (b.setGrp n x).pal = b.pal := rfl
@[simp] theorem Block.setGrp_xl (n : Nat) (x : GroupSt) : (b.setGrp n x).xl = b.xl := rfl
@[simp] theorem Block.setGrp_arb (n : Nat) (x : GroupSt) : (b.setGrp n x).arb = b.arb := rfl
@[simp] theorem Block.setGrp_ring (n : Nat) (x : GroupSt) : (b.setGrp n x).ring = b.ring := rfl
@[simp] theorem Block.setGrp_palq (n : Nat) (x : GroupSt) : (b.setGrp n x).palq = b.palq := rfl
@[simp] theorem Block.setGrp_recIn (n : Nat) (x : GroupSt) : (b.setGrp n x).recIn = b.recIn := rfl
@[simp] theorem Block.setGrp_drq (n : Nat) (x : GroupSt) : (b.setGrp n x).drq = b.drq := rfl
@[simp] theorem Block.setGrp_pd (n : Nat) (x : GroupSt) : (b.setGrp n x).pd = b.pd := rfl
@[simp] theorem Block.setGrp_flt (n : Nat) (x : GroupSt) : (b.setGrp n x).flt = b.flt := rfl
@[simp] theorem Block.setGrp_sec (n : Nat) (x : GroupSt) : (b.setGrp n x).sec = b.sec := rfl
@[simp] theorem Block.setGrp_regs (n : Nat) (x : GroupSt) : (b.setGrp n x).regs = b.regs := rfl
@[simp] theorem Block.setGrp_power (n : Nat) (x : GroupSt) : (b.setGrp n x).power = b.power := rfl
@[simp] theorem Block.setGrp_obsSel (n : Nat) (x : GroupSt) : (b.setGrp n x).obsSel = b.obsSel := rfl
@[simp] theorem Block.setGrp_xing (n : Nat) (x : GroupSt) : (b.setGrp n x).xing = b.xing := rfl
@[simp] theorem Block.setGrp_mem (n : Nat) (x : GroupSt) : (b.setGrp n x).mem = b.mem := rfl
@[simp] theorem Block.setGrp_steerSpread (n : Nat) (x : GroupSt) : (b.setGrp n x).steerSpread = b.steerSpread := rfl
@[simp] theorem Block.setGrp_steerOver (n : Nat) (x : GroupSt) : (b.setGrp n x).steerOver = b.steerOver := rfl
@[simp] theorem Block.setGrp_badGran (n : Nat) (x : GroupSt) : (b.setGrp n x).badGran = b.badGran := rfl
@[simp] theorem Block.setGrp_held (n : Nat) (x : GroupSt) : (b.setGrp n x).held = b.held := rfl
@[simp] theorem Block.setGrp_heldFlits (n : Nat) (x : GroupSt) : (b.setGrp n x).heldFlits = b.heldFlits := rfl
@[simp] theorem Block.setGrp_received (n : Nat) (x : GroupSt) : (b.setGrp n x).received = b.received := rfl
@[simp] theorem Block.setGrp_streams (n : Nat) (x : GroupSt) : (b.setGrp n x).streams = b.streams := rfl
@[simp] theorem Block.setGrp_free (n : Nat) (x : GroupSt) : (b.setGrp n x).free = b.free := rfl
@[simp] theorem Block.setGrp_ev (n : Nat) (x : GroupSt) : (b.setGrp n x).ev = b.ev := rfl
@[simp] theorem Block.setGrp_grp (n : Nat) (x : GroupSt) : (b.setGrp n x).grp n = x := Tab.get_put_same _ _ _ _
theorem Block.setGrp_grp_other (n : Nat) (x : GroupSt) (i : Nat) (h : i ≠ n) : (b.setGrp n x).grp i = b.grp i :=
  Tab.get_put_other _ _ _ h

/-! ### setKeySlot -/

@[simp] theorem Block.setKeySlot_boot (n : Nat) (x : KeySlot) : (b.setKeySlot n x).boot = b.boot := rfl
@[simp] theorem Block.setKeySlot_setup (n : Nat) (x : KeySlot) : (b.setKeySlot n x).setup = b.setup := rfl
@[simp] theorem Block.setKeySlot_islands (n : Nat) (x : KeySlot) : (b.setKeySlot n x).islands = b.islands := rfl
@[simp] theorem Block.setKeySlot_chans (n : Nat) (x : KeySlot) : (b.setKeySlot n x).chans = b.chans := rfl
@[simp] theorem Block.setKeySlot_sports (n : Nat) (x : KeySlot) : (b.setKeySlot n x).sports = b.sports := rfl
@[simp] theorem Block.setKeySlot_links (n : Nat) (x : KeySlot) : (b.setKeySlot n x).links = b.links := rfl
@[simp] theorem Block.setKeySlot_rin (n : Nat) (x : KeySlot) : (b.setKeySlot n x).rin = b.rin := rfl
@[simp] theorem Block.setKeySlot_canv (n : Nat) (x : KeySlot) : (b.setKeySlot n x).canv = b.canv := rfl
@[simp] theorem Block.setKeySlot_ctxs (n : Nat) (x : KeySlot) : (b.setKeySlot n x).ctxs = b.ctxs := rfl
@[simp] theorem Block.setKeySlot_chains (n : Nat) (x : KeySlot) : (b.setKeySlot n x).chains = b.chains := rfl
@[simp] theorem Block.setKeySlot_pal (n : Nat) (x : KeySlot) : (b.setKeySlot n x).pal = b.pal := rfl
@[simp] theorem Block.setKeySlot_xl (n : Nat) (x : KeySlot) : (b.setKeySlot n x).xl = b.xl := rfl
@[simp] theorem Block.setKeySlot_arb (n : Nat) (x : KeySlot) : (b.setKeySlot n x).arb = b.arb := rfl
@[simp] theorem Block.setKeySlot_ring (n : Nat) (x : KeySlot) : (b.setKeySlot n x).ring = b.ring := rfl
@[simp] theorem Block.setKeySlot_palq (n : Nat) (x : KeySlot) : (b.setKeySlot n x).palq = b.palq := rfl
@[simp] theorem Block.setKeySlot_recIn (n : Nat) (x : KeySlot) : (b.setKeySlot n x).recIn = b.recIn := rfl
@[simp] theorem Block.setKeySlot_drq (n : Nat) (x : KeySlot) : (b.setKeySlot n x).drq = b.drq := rfl
@[simp] theorem Block.setKeySlot_pd (n : Nat) (x : KeySlot) : (b.setKeySlot n x).pd = b.pd := rfl
@[simp] theorem Block.setKeySlot_flt (n : Nat) (x : KeySlot) : (b.setKeySlot n x).flt = b.flt := rfl
@[simp] theorem Block.setKeySlot_regs (n : Nat) (x : KeySlot) : (b.setKeySlot n x).regs = b.regs := rfl
@[simp] theorem Block.setKeySlot_power (n : Nat) (x : KeySlot) : (b.setKeySlot n x).power = b.power := rfl
@[simp] theorem Block.setKeySlot_obsSel (n : Nat) (x : KeySlot) : (b.setKeySlot n x).obsSel = b.obsSel := rfl
@[simp] theorem Block.setKeySlot_xing (n : Nat) (x : KeySlot) : (b.setKeySlot n x).xing = b.xing := rfl
@[simp] theorem Block.setKeySlot_groups (n : Nat) (x : KeySlot) : (b.setKeySlot n x).groups = b.groups := rfl
@[simp] theorem Block.setKeySlot_mem (n : Nat) (x : KeySlot) : (b.setKeySlot n x).mem = b.mem := rfl
@[simp] theorem Block.setKeySlot_steerSpread (n : Nat) (x : KeySlot) : (b.setKeySlot n x).steerSpread = b.steerSpread := rfl
@[simp] theorem Block.setKeySlot_steerOver (n : Nat) (x : KeySlot) : (b.setKeySlot n x).steerOver = b.steerOver := rfl
@[simp] theorem Block.setKeySlot_badGran (n : Nat) (x : KeySlot) : (b.setKeySlot n x).badGran = b.badGran := rfl
@[simp] theorem Block.setKeySlot_held (n : Nat) (x : KeySlot) : (b.setKeySlot n x).held = b.held := rfl
@[simp] theorem Block.setKeySlot_heldFlits (n : Nat) (x : KeySlot) : (b.setKeySlot n x).heldFlits = b.heldFlits := rfl
@[simp] theorem Block.setKeySlot_received (n : Nat) (x : KeySlot) : (b.setKeySlot n x).received = b.received := rfl
@[simp] theorem Block.setKeySlot_streams (n : Nat) (x : KeySlot) : (b.setKeySlot n x).streams = b.streams := rfl
@[simp] theorem Block.setKeySlot_free (n : Nat) (x : KeySlot) : (b.setKeySlot n x).free = b.free := rfl
@[simp] theorem Block.setKeySlot_ev (n : Nat) (x : KeySlot) : (b.setKeySlot n x).ev = b.ev := rfl
@[simp] theorem Block.setKeySlot_keySlot (n : Nat) (x : KeySlot) : (b.setKeySlot n x).keySlot n = x := Tab.get_put_same _ _ _ _
theorem Block.setKeySlot_keySlot_other (n : Nat) (x : KeySlot) (i : Nat) (h : i ≠ n) : (b.setKeySlot n x).keySlot i = b.keySlot i :=
  Tab.get_put_other _ _ _ h

/-! ### setHealth -/

@[simp] theorem Block.setHealth_boot (k : UnitKind) (n : Nat) (x : UnitHealth) : (b.setHealth k n x).boot = b.boot := rfl
@[simp] theorem Block.setHealth_setup (k : UnitKind) (n : Nat) (x : UnitHealth) : (b.setHealth k n x).setup = b.setup := rfl
@[simp] theorem Block.setHealth_islands (k : UnitKind) (n : Nat) (x : UnitHealth) : (b.setHealth k n x).islands = b.islands := rfl
@[simp] theorem Block.setHealth_chans (k : UnitKind) (n : Nat) (x : UnitHealth) : (b.setHealth k n x).chans = b.chans := rfl
@[simp] theorem Block.setHealth_sports (k : UnitKind) (n : Nat) (x : UnitHealth) : (b.setHealth k n x).sports = b.sports := rfl
@[simp] theorem Block.setHealth_links (k : UnitKind) (n : Nat) (x : UnitHealth) : (b.setHealth k n x).links = b.links := rfl
@[simp] theorem Block.setHealth_rin (k : UnitKind) (n : Nat) (x : UnitHealth) : (b.setHealth k n x).rin = b.rin := rfl
@[simp] theorem Block.setHealth_canv (k : UnitKind) (n : Nat) (x : UnitHealth) : (b.setHealth k n x).canv = b.canv := rfl
@[simp] theorem Block.setHealth_ctxs (k : UnitKind) (n : Nat) (x : UnitHealth) : (b.setHealth k n x).ctxs = b.ctxs := rfl
@[simp] theorem Block.setHealth_chains (k : UnitKind) (n : Nat) (x : UnitHealth) : (b.setHealth k n x).chains = b.chains := rfl
@[simp] theorem Block.setHealth_pal (k : UnitKind) (n : Nat) (x : UnitHealth) : (b.setHealth k n x).pal = b.pal := rfl
@[simp] theorem Block.setHealth_xl (k : UnitKind) (n : Nat) (x : UnitHealth) : (b.setHealth k n x).xl = b.xl := rfl
@[simp] theorem Block.setHealth_arb (k : UnitKind) (n : Nat) (x : UnitHealth) : (b.setHealth k n x).arb = b.arb := rfl
@[simp] theorem Block.setHealth_ring (k : UnitKind) (n : Nat) (x : UnitHealth) : (b.setHealth k n x).ring = b.ring := rfl
@[simp] theorem Block.setHealth_palq (k : UnitKind) (n : Nat) (x : UnitHealth) : (b.setHealth k n x).palq = b.palq := rfl
@[simp] theorem Block.setHealth_recIn (k : UnitKind) (n : Nat) (x : UnitHealth) : (b.setHealth k n x).recIn = b.recIn := rfl
@[simp] theorem Block.setHealth_drq (k : UnitKind) (n : Nat) (x : UnitHealth) : (b.setHealth k n x).drq = b.drq := rfl
@[simp] theorem Block.setHealth_pd (k : UnitKind) (n : Nat) (x : UnitHealth) : (b.setHealth k n x).pd = b.pd := rfl
@[simp] theorem Block.setHealth_sec (k : UnitKind) (n : Nat) (x : UnitHealth) : (b.setHealth k n x).sec = b.sec := rfl
@[simp] theorem Block.setHealth_regs (k : UnitKind) (n : Nat) (x : UnitHealth) : (b.setHealth k n x).regs = b.regs := rfl
@[simp] theorem Block.setHealth_power (k : UnitKind) (n : Nat) (x : UnitHealth) : (b.setHealth k n x).power = b.power := rfl
@[simp] theorem Block.setHealth_obsSel (k : UnitKind) (n : Nat) (x : UnitHealth) : (b.setHealth k n x).obsSel = b.obsSel := rfl
@[simp] theorem Block.setHealth_xing (k : UnitKind) (n : Nat) (x : UnitHealth) : (b.setHealth k n x).xing = b.xing := rfl
@[simp] theorem Block.setHealth_groups (k : UnitKind) (n : Nat) (x : UnitHealth) : (b.setHealth k n x).groups = b.groups := rfl
@[simp] theorem Block.setHealth_mem (k : UnitKind) (n : Nat) (x : UnitHealth) : (b.setHealth k n x).mem = b.mem := rfl
@[simp] theorem Block.setHealth_steerSpread (k : UnitKind) (n : Nat) (x : UnitHealth) : (b.setHealth k n x).steerSpread = b.steerSpread := rfl
@[simp] theorem Block.setHealth_steerOver (k : UnitKind) (n : Nat) (x : UnitHealth) : (b.setHealth k n x).steerOver = b.steerOver := rfl
@[simp] theorem Block.setHealth_badGran (k : UnitKind) (n : Nat) (x : UnitHealth) : (b.setHealth k n x).badGran = b.badGran := rfl
@[simp] theorem Block.setHealth_held (k : UnitKind) (n : Nat) (x : UnitHealth) : (b.setHealth k n x).held = b.held := rfl
@[simp] theorem Block.setHealth_heldFlits (k : UnitKind) (n : Nat) (x : UnitHealth) : (b.setHealth k n x).heldFlits = b.heldFlits := rfl
@[simp] theorem Block.setHealth_received (k : UnitKind) (n : Nat) (x : UnitHealth) : (b.setHealth k n x).received = b.received := rfl
@[simp] theorem Block.setHealth_streams (k : UnitKind) (n : Nat) (x : UnitHealth) : (b.setHealth k n x).streams = b.streams := rfl
@[simp] theorem Block.setHealth_free (k : UnitKind) (n : Nat) (x : UnitHealth) : (b.setHealth k n x).free = b.free := rfl
@[simp] theorem Block.setHealth_ev (k : UnitKind) (n : Nat) (x : UnitHealth) : (b.setHealth k n x).ev = b.ev := rfl

/-! ### raise -/

@[simp] theorem raise_boot (s u : Nat) (st : Status) (v c d : Nat) :
    (raise b s u st v c d).boot = b.boot := rfl
@[simp] theorem raise_setup (s u : Nat) (st : Status) (v c d : Nat) :
    (raise b s u st v c d).setup = b.setup := rfl
@[simp] theorem raise_islands (s u : Nat) (st : Status) (v c d : Nat) :
    (raise b s u st v c d).islands = b.islands := rfl
@[simp] theorem raise_chans (s u : Nat) (st : Status) (v c d : Nat) :
    (raise b s u st v c d).chans = b.chans := rfl
@[simp] theorem raise_sports (s u : Nat) (st : Status) (v c d : Nat) :
    (raise b s u st v c d).sports = b.sports := rfl
@[simp] theorem raise_links (s u : Nat) (st : Status) (v c d : Nat) :
    (raise b s u st v c d).links = b.links := rfl
@[simp] theorem raise_rin (s u : Nat) (st : Status) (v c d : Nat) :
    (raise b s u st v c d).rin = b.rin := rfl
@[simp] theorem raise_canv (s u : Nat) (st : Status) (v c d : Nat) :
    (raise b s u st v c d).canv = b.canv := rfl
@[simp] theorem raise_ctxs (s u : Nat) (st : Status) (v c d : Nat) :
    (raise b s u st v c d).ctxs = b.ctxs := rfl
@[simp] theorem raise_chains (s u : Nat) (st : Status) (v c d : Nat) :
    (raise b s u st v c d).chains = b.chains := rfl
@[simp] theorem raise_pal (s u : Nat) (st : Status) (v c d : Nat) :
    (raise b s u st v c d).pal = b.pal := rfl
@[simp] theorem raise_xl (s u : Nat) (st : Status) (v c d : Nat) :
    (raise b s u st v c d).xl = b.xl := rfl
@[simp] theorem raise_arb (s u : Nat) (st : Status) (v c d : Nat) :
    (raise b s u st v c d).arb = b.arb := rfl
@[simp] theorem raise_ring (s u : Nat) (st : Status) (v c d : Nat) :
    (raise b s u st v c d).ring = b.ring := rfl
@[simp] theorem raise_palq (s u : Nat) (st : Status) (v c d : Nat) :
    (raise b s u st v c d).palq = b.palq := rfl
@[simp] theorem raise_recIn (s u : Nat) (st : Status) (v c d : Nat) :
    (raise b s u st v c d).recIn = b.recIn := rfl
@[simp] theorem raise_drq (s u : Nat) (st : Status) (v c d : Nat) :
    (raise b s u st v c d).drq = b.drq := rfl
@[simp] theorem raise_pd (s u : Nat) (st : Status) (v c d : Nat) :
    (raise b s u st v c d).pd = b.pd := rfl
@[simp] theorem raise_sec (s u : Nat) (st : Status) (v c d : Nat) :
    (raise b s u st v c d).sec = b.sec := rfl
@[simp] theorem raise_regs (s u : Nat) (st : Status) (v c d : Nat) :
    (raise b s u st v c d).regs = b.regs := rfl
@[simp] theorem raise_power (s u : Nat) (st : Status) (v c d : Nat) :
    (raise b s u st v c d).power = b.power := rfl
@[simp] theorem raise_obsSel (s u : Nat) (st : Status) (v c d : Nat) :
    (raise b s u st v c d).obsSel = b.obsSel := rfl
@[simp] theorem raise_xing (s u : Nat) (st : Status) (v c d : Nat) :
    (raise b s u st v c d).xing = b.xing := rfl
@[simp] theorem raise_groups (s u : Nat) (st : Status) (v c d : Nat) :
    (raise b s u st v c d).groups = b.groups := rfl
@[simp] theorem raise_mem (s u : Nat) (st : Status) (v c d : Nat) :
    (raise b s u st v c d).mem = b.mem := rfl
@[simp] theorem raise_steerSpread (s u : Nat) (st : Status) (v c d : Nat) :
    (raise b s u st v c d).steerSpread = b.steerSpread := rfl
@[simp] theorem raise_steerOver (s u : Nat) (st : Status) (v c d : Nat) :
    (raise b s u st v c d).steerOver = b.steerOver := rfl
@[simp] theorem raise_badGran (s u : Nat) (st : Status) (v c d : Nat) :
    (raise b s u st v c d).badGran = b.badGran := rfl
@[simp] theorem raise_held (s u : Nat) (st : Status) (v c d : Nat) :
    (raise b s u st v c d).held = b.held := rfl
@[simp] theorem raise_heldFlits (s u : Nat) (st : Status) (v c d : Nat) :
    (raise b s u st v c d).heldFlits = b.heldFlits := rfl
@[simp] theorem raise_received (s u : Nat) (st : Status) (v c d : Nat) :
    (raise b s u st v c d).received = b.received := rfl
@[simp] theorem raise_streams (s u : Nat) (st : Status) (v c d : Nat) :
    (raise b s u st v c d).streams = b.streams := rfl
@[simp] theorem raise_free (s u : Nat) (st : Status) (v c d : Nat) :
    (raise b s u st v c d).free = b.free := rfl
@[simp] theorem raise_ev (s u : Nat) (st : Status) (v c d : Nat) :
    (raise b s u st v c d).ev = b.ev := rfl

/-! ### toAo -/

@[simp] theorem toAo_boot (e : AoEvent) :
    (toAo b e).boot = b.boot := rfl
@[simp] theorem toAo_setup (e : AoEvent) :
    (toAo b e).setup = b.setup := rfl
@[simp] theorem toAo_islands (e : AoEvent) :
    (toAo b e).islands = b.islands := rfl
@[simp] theorem toAo_chans (e : AoEvent) :
    (toAo b e).chans = b.chans := rfl
@[simp] theorem toAo_sports (e : AoEvent) :
    (toAo b e).sports = b.sports := rfl
@[simp] theorem toAo_links (e : AoEvent) :
    (toAo b e).links = b.links := rfl
@[simp] theorem toAo_rin (e : AoEvent) :
    (toAo b e).rin = b.rin := rfl
@[simp] theorem toAo_canv (e : AoEvent) :
    (toAo b e).canv = b.canv := rfl
@[simp] theorem toAo_ctxs (e : AoEvent) :
    (toAo b e).ctxs = b.ctxs := rfl
@[simp] theorem toAo_chains (e : AoEvent) :
    (toAo b e).chains = b.chains := rfl
@[simp] theorem toAo_pal (e : AoEvent) :
    (toAo b e).pal = b.pal := rfl
@[simp] theorem toAo_xl (e : AoEvent) :
    (toAo b e).xl = b.xl := rfl
@[simp] theorem toAo_arb (e : AoEvent) :
    (toAo b e).arb = b.arb := rfl
@[simp] theorem toAo_ring (e : AoEvent) :
    (toAo b e).ring = b.ring := rfl
@[simp] theorem toAo_palq (e : AoEvent) :
    (toAo b e).palq = b.palq := rfl
@[simp] theorem toAo_recIn (e : AoEvent) :
    (toAo b e).recIn = b.recIn := rfl
@[simp] theorem toAo_drq (e : AoEvent) :
    (toAo b e).drq = b.drq := rfl
@[simp] theorem toAo_pd (e : AoEvent) :
    (toAo b e).pd = b.pd := rfl
@[simp] theorem toAo_flt (e : AoEvent) :
    (toAo b e).flt = b.flt := rfl
@[simp] theorem toAo_sec (e : AoEvent) :
    (toAo b e).sec = b.sec := rfl
@[simp] theorem toAo_regs (e : AoEvent) :
    (toAo b e).regs = b.regs := rfl
@[simp] theorem toAo_power (e : AoEvent) :
    (toAo b e).power = b.power := rfl
@[simp] theorem toAo_obsSel (e : AoEvent) :
    (toAo b e).obsSel = b.obsSel := rfl
@[simp] theorem toAo_xing (e : AoEvent) :
    (toAo b e).xing = b.xing := rfl
@[simp] theorem toAo_groups (e : AoEvent) :
    (toAo b e).groups = b.groups := rfl
@[simp] theorem toAo_mem (e : AoEvent) :
    (toAo b e).mem = b.mem := rfl
@[simp] theorem toAo_steerSpread (e : AoEvent) :
    (toAo b e).steerSpread = b.steerSpread := rfl
@[simp] theorem toAo_steerOver (e : AoEvent) :
    (toAo b e).steerOver = b.steerOver := rfl
@[simp] theorem toAo_badGran (e : AoEvent) :
    (toAo b e).badGran = b.badGran := rfl
@[simp] theorem toAo_held (e : AoEvent) :
    (toAo b e).held = b.held := rfl
@[simp] theorem toAo_heldFlits (e : AoEvent) :
    (toAo b e).heldFlits = b.heldFlits := rfl
@[simp] theorem toAo_received (e : AoEvent) :
    (toAo b e).received = b.received := rfl
@[simp] theorem toAo_streams (e : AoEvent) :
    (toAo b e).streams = b.streams := rfl
@[simp] theorem toAo_free (e : AoEvent) :
    (toAo b e).free = b.free := rfl

/-! ### memWrite -/

@[simp] theorem memWrite_boot (c p : Nat) (d : Bytes) :
    (memWrite b c p d).boot = b.boot := rfl
@[simp] theorem memWrite_setup (c p : Nat) (d : Bytes) :
    (memWrite b c p d).setup = b.setup := rfl
@[simp] theorem memWrite_islands (c p : Nat) (d : Bytes) :
    (memWrite b c p d).islands = b.islands := rfl
@[simp] theorem memWrite_chans (c p : Nat) (d : Bytes) :
    (memWrite b c p d).chans = b.chans := rfl
@[simp] theorem memWrite_sports (c p : Nat) (d : Bytes) :
    (memWrite b c p d).sports = b.sports := rfl
@[simp] theorem memWrite_links (c p : Nat) (d : Bytes) :
    (memWrite b c p d).links = b.links := rfl
@[simp] theorem memWrite_rin (c p : Nat) (d : Bytes) :
    (memWrite b c p d).rin = b.rin := rfl
@[simp] theorem memWrite_canv (c p : Nat) (d : Bytes) :
    (memWrite b c p d).canv = b.canv := rfl
@[simp] theorem memWrite_ctxs (c p : Nat) (d : Bytes) :
    (memWrite b c p d).ctxs = b.ctxs := rfl
@[simp] theorem memWrite_chains (c p : Nat) (d : Bytes) :
    (memWrite b c p d).chains = b.chains := rfl
@[simp] theorem memWrite_pal (c p : Nat) (d : Bytes) :
    (memWrite b c p d).pal = b.pal := rfl
@[simp] theorem memWrite_xl (c p : Nat) (d : Bytes) :
    (memWrite b c p d).xl = b.xl := rfl
@[simp] theorem memWrite_arb (c p : Nat) (d : Bytes) :
    (memWrite b c p d).arb = b.arb := rfl
@[simp] theorem memWrite_ring (c p : Nat) (d : Bytes) :
    (memWrite b c p d).ring = b.ring := rfl
@[simp] theorem memWrite_palq (c p : Nat) (d : Bytes) :
    (memWrite b c p d).palq = b.palq := rfl
@[simp] theorem memWrite_recIn (c p : Nat) (d : Bytes) :
    (memWrite b c p d).recIn = b.recIn := rfl
@[simp] theorem memWrite_drq (c p : Nat) (d : Bytes) :
    (memWrite b c p d).drq = b.drq := rfl
@[simp] theorem memWrite_pd (c p : Nat) (d : Bytes) :
    (memWrite b c p d).pd = b.pd := rfl
@[simp] theorem memWrite_flt (c p : Nat) (d : Bytes) :
    (memWrite b c p d).flt = b.flt := rfl
@[simp] theorem memWrite_sec (c p : Nat) (d : Bytes) :
    (memWrite b c p d).sec = b.sec := rfl
@[simp] theorem memWrite_regs (c p : Nat) (d : Bytes) :
    (memWrite b c p d).regs = b.regs := rfl
@[simp] theorem memWrite_power (c p : Nat) (d : Bytes) :
    (memWrite b c p d).power = b.power := rfl
@[simp] theorem memWrite_obsSel (c p : Nat) (d : Bytes) :
    (memWrite b c p d).obsSel = b.obsSel := rfl
@[simp] theorem memWrite_xing (c p : Nat) (d : Bytes) :
    (memWrite b c p d).xing = b.xing := rfl
@[simp] theorem memWrite_groups (c p : Nat) (d : Bytes) :
    (memWrite b c p d).groups = b.groups := rfl
@[simp] theorem memWrite_steerSpread (c p : Nat) (d : Bytes) :
    (memWrite b c p d).steerSpread = b.steerSpread := rfl
@[simp] theorem memWrite_steerOver (c p : Nat) (d : Bytes) :
    (memWrite b c p d).steerOver = b.steerOver := rfl
@[simp] theorem memWrite_badGran (c p : Nat) (d : Bytes) :
    (memWrite b c p d).badGran = b.badGran := rfl
@[simp] theorem memWrite_held (c p : Nat) (d : Bytes) :
    (memWrite b c p d).held = b.held := rfl
@[simp] theorem memWrite_heldFlits (c p : Nat) (d : Bytes) :
    (memWrite b c p d).heldFlits = b.heldFlits := rfl
@[simp] theorem memWrite_received (c p : Nat) (d : Bytes) :
    (memWrite b c p d).received = b.received := rfl
@[simp] theorem memWrite_streams (c p : Nat) (d : Bytes) :
    (memWrite b c p d).streams = b.streams := rfl
@[simp] theorem memWrite_free (c p : Nat) (d : Bytes) :
    (memWrite b c p d).free = b.free := rfl
@[simp] theorem memWrite_ev (c p : Nat) (d : Bytes) :
    (memWrite b c p d).ev = b.ev := rfl

/-! ### palWrite -/

@[simp] theorem palWrite_boot (n : Nat) (d : Bytes) :
    (palWrite b n d).boot = b.boot := rfl
@[simp] theorem palWrite_setup (n : Nat) (d : Bytes) :
    (palWrite b n d).setup = b.setup := rfl
@[simp] theorem palWrite_islands (n : Nat) (d : Bytes) :
    (palWrite b n d).islands = b.islands := rfl
@[simp] theorem palWrite_chans (n : Nat) (d : Bytes) :
    (palWrite b n d).chans = b.chans := rfl
@[simp] theorem palWrite_sports (n : Nat) (d : Bytes) :
    (palWrite b n d).sports = b.sports := rfl
@[simp] theorem palWrite_links (n : Nat) (d : Bytes) :
    (palWrite b n d).links = b.links := rfl
@[simp] theorem palWrite_rin (n : Nat) (d : Bytes) :
    (palWrite b n d).rin = b.rin := rfl
@[simp] theorem palWrite_canv (n : Nat) (d : Bytes) :
    (palWrite b n d).canv = b.canv := rfl
@[simp] theorem palWrite_ctxs (n : Nat) (d : Bytes) :
    (palWrite b n d).ctxs = b.ctxs := rfl
@[simp] theorem palWrite_chains (n : Nat) (d : Bytes) :
    (palWrite b n d).chains = b.chains := rfl
@[simp] theorem palWrite_xl (n : Nat) (d : Bytes) :
    (palWrite b n d).xl = b.xl := rfl
@[simp] theorem palWrite_arb (n : Nat) (d : Bytes) :
    (palWrite b n d).arb = b.arb := rfl
@[simp] theorem palWrite_ring (n : Nat) (d : Bytes) :
    (palWrite b n d).ring = b.ring := rfl
@[simp] theorem palWrite_palq (n : Nat) (d : Bytes) :
    (palWrite b n d).palq = b.palq := rfl
@[simp] theorem palWrite_recIn (n : Nat) (d : Bytes) :
    (palWrite b n d).recIn = b.recIn := rfl
@[simp] theorem palWrite_drq (n : Nat) (d : Bytes) :
    (palWrite b n d).drq = b.drq := rfl
@[simp] theorem palWrite_pd (n : Nat) (d : Bytes) :
    (palWrite b n d).pd = b.pd := rfl
@[simp] theorem palWrite_flt (n : Nat) (d : Bytes) :
    (palWrite b n d).flt = b.flt := rfl
@[simp] theorem palWrite_sec (n : Nat) (d : Bytes) :
    (palWrite b n d).sec = b.sec := rfl
@[simp] theorem palWrite_regs (n : Nat) (d : Bytes) :
    (palWrite b n d).regs = b.regs := rfl
@[simp] theorem palWrite_power (n : Nat) (d : Bytes) :
    (palWrite b n d).power = b.power := rfl
@[simp] theorem palWrite_obsSel (n : Nat) (d : Bytes) :
    (palWrite b n d).obsSel = b.obsSel := rfl
@[simp] theorem palWrite_xing (n : Nat) (d : Bytes) :
    (palWrite b n d).xing = b.xing := rfl
@[simp] theorem palWrite_groups (n : Nat) (d : Bytes) :
    (palWrite b n d).groups = b.groups := rfl
@[simp] theorem palWrite_mem (n : Nat) (d : Bytes) :
    (palWrite b n d).mem = b.mem := rfl
@[simp] theorem palWrite_steerSpread (n : Nat) (d : Bytes) :
    (palWrite b n d).steerSpread = b.steerSpread := rfl
@[simp] theorem palWrite_steerOver (n : Nat) (d : Bytes) :
    (palWrite b n d).steerOver = b.steerOver := rfl
@[simp] theorem palWrite_badGran (n : Nat) (d : Bytes) :
    (palWrite b n d).badGran = b.badGran := rfl
@[simp] theorem palWrite_held (n : Nat) (d : Bytes) :
    (palWrite b n d).held = b.held := rfl
@[simp] theorem palWrite_heldFlits (n : Nat) (d : Bytes) :
    (palWrite b n d).heldFlits = b.heldFlits := rfl
@[simp] theorem palWrite_received (n : Nat) (d : Bytes) :
    (palWrite b n d).received = b.received := rfl
@[simp] theorem palWrite_streams (n : Nat) (d : Bytes) :
    (palWrite b n d).streams = b.streams := rfl
@[simp] theorem palWrite_free (n : Nat) (d : Bytes) :
    (palWrite b n d).free = b.free := rfl
@[simp] theorem palWrite_ev (n : Nat) (d : Bytes) :
    (palWrite b n d).ev = b.ev := rfl

end Sys2Proof.Machine
end

