-- ==== Sys2Proof/Laws/Lift.lean ====
section
/-! SUPPORT. What a command run through `lift` does to the state, and what control events do to the AO island. -/

namespace Sys2Proof.Machine

theorem lift_eq (f : AO → Block → Block) (s : State) : lift f s = .next (s.after (f s.ao s.b)) := rfl

@[simp] theorem State.after_pending (s : State) (b : Block) : (s.after b).pending = s.pending := rfl
@[simp] theorem State.after_ev (s : State) (b : Block) : (s.after b).b.ev = [] := rfl
@[simp] theorem State.after_ao (s : State) (b : Block) : (s.after b).ao = b.ev.foldl AO.apply s.ao := rfl

@[simp] theorem State.withPending_pending (s : State) (l : List Instr) : (s.withPending l).pending = l := rfl
@[simp] theorem State.withPending_ao (s : State) (l : List Instr) : (s.withPending l).ao = s.ao := rfl
@[simp] theorem State.withPending_b (s : State) (l : List Instr) : (s.withPending l).b = s.b := rfl
@[simp] theorem State.withPending_withPending (s : State) (k l : List Instr) :
    (s.withPending k).withPending l = s.withPending l := rfl
@[simp] theorem State.withPending_self (s : State) : s.withPending s.pending = s := rfl

/-! ### What a command leaves in the block part -/

@[simp] theorem State.after_boot (s : State) (b : Block) : (s.after b).b.boot = b.boot := rfl
@[simp] theorem State.after_setup (s : State) (b : Block) : (s.after b).b.setup = b.setup := rfl
@[simp] theorem State.after_islands (s : State) (b : Block) : (s.after b).b.islands = b.islands := rfl
@[simp] theorem State.after_chans (s : State) (b : Block) : (s.after b).b.chans = b.chans := rfl
@[simp] theorem State.after_sports (s : State) (b : Block) : (s.after b).b.sports = b.sports := rfl
@[simp] theorem State.after_links (s : State) (b : Block) : (s.after b).b.links = b.links := rfl
@[simp] theorem State.after_rin (s : State) (b : Block) : (s.after b).b.rin = b.rin := rfl
@[simp] theorem State.after_canv (s : State) (b : Block) : (s.after b).b.canv = b.canv := rfl
@[simp] theorem State.after_ctxs (s : State) (b : Block) : (s.after b).b.ctxs = b.ctxs := rfl
@[simp] theorem State.after_chains (s : State) (b : Block) : (s.after b).b.chains = b.chains := rfl
@[simp] theorem State.after_pal (s : State) (b : Block) : (s.after b).b.pal = b.pal := rfl
@[simp] theorem State.after_xl (s : State) (b : Block) : (s.after b).b.xl = b.xl := rfl
@[simp] theorem State.after_arb (s : State) (b : Block) : (s.after b).b.arb = b.arb := rfl
@[simp] theorem State.after_ring (s : State) (b : Block) : (s.after b).b.ring = b.ring := rfl
@[simp] theorem State.after_palq (s : State) (b : Block) : (s.after b).b.palq = b.palq := rfl
@[simp] theorem State.after_recIn (s : State) (b : Block) : (s.after b).b.recIn = b.recIn := rfl
@[simp] theorem State.after_drq (s : State) (b : Block) : (s.after b).b.drq = b.drq := rfl
@[simp] theorem State.after_pd (s : State) (b : Block) : (s.after b).b.pd = b.pd := rfl
@[simp] theorem State.after_flt (s : State) (b : Block) : (s.after b).b.flt = b.flt := rfl
@[simp] theorem State.after_sec (s : State) (b : Block) : (s.after b).b.sec = b.sec := rfl
@[simp] theorem State.after_regs (s : State) (b : Block) : (s.after b).b.regs = b.regs := rfl
@[simp] theorem State.after_power (s : State) (b : Block) : (s.after b).b.power = b.power := rfl
@[simp] theorem State.after_obsSel (s : State) (b : Block) : (s.after b).b.obsSel = b.obsSel := rfl
@[simp] theorem State.after_xing (s : State) (b : Block) : (s.after b).b.xing = b.xing := rfl
@[simp] theorem State.after_groups (s : State) (b : Block) : (s.after b).b.groups = b.groups := rfl
@[simp] theorem State.after_mem (s : State) (b : Block) : (s.after b).b.mem = b.mem := rfl
@[simp] theorem State.after_steerSpread (s : State) (b : Block) : (s.after b).b.steerSpread = b.steerSpread := rfl
@[simp] theorem State.after_steerOver (s : State) (b : Block) : (s.after b).b.steerOver = b.steerOver := rfl
@[simp] theorem State.after_badGran (s : State) (b : Block) : (s.after b).b.badGran = b.badGran := rfl
@[simp] theorem State.after_held (s : State) (b : Block) : (s.after b).b.held = b.held := rfl
@[simp] theorem State.after_heldFlits (s : State) (b : Block) : (s.after b).b.heldFlits = b.heldFlits := rfl
@[simp] theorem State.after_received (s : State) (b : Block) : (s.after b).b.received = b.received := rfl
@[simp] theorem State.after_streams (s : State) (b : Block) : (s.after b).b.streams = b.streams := rfl
@[simp] theorem State.after_free (s : State) (b : Block) : (s.after b).b.free = b.free := rfl
@[simp] theorem State.after_chan (s : State) (b : Block) (n : Nat) : (s.after b).b.chan n = b.chan n := rfl
@[simp] theorem State.after_sport (s : State) (b : Block) (n : Nat) : (s.after b).b.sport n = b.sport n := rfl
@[simp] theorem State.after_link (s : State) (b : Block) (n : Nat) : (s.after b).b.link n = b.link n := rfl
@[simp] theorem State.after_sq (s : State) (b : Block) (n : Nat) : (s.after b).b.sq n = b.sq n := rfl
@[simp] theorem State.after_cq (s : State) (b : Block) (n : Nat) : (s.after b).b.cq n = b.cq n := rfl
@[simp] theorem State.after_mbox (s : State) (b : Block) (n : Nat) : (s.after b).b.mbox n = b.mbox n := rfl
@[simp] theorem State.after_vinst (s : State) (b : Block) (n : Nat) : (s.after b).b.vinst n = b.vinst n := rfl
@[simp] theorem State.after_slot (s : State) (b : Block) (n : Nat) : (s.after b).b.slot n = b.slot n := rfl
@[simp] theorem State.after_ctx (s : State) (b : Block) (n : Nat) : (s.after b).b.ctx n = b.ctx n := rfl
@[simp] theorem State.after_chainAt (s : State) (b : Block) (n : Nat) : (s.after b).b.chainAt n = b.chainAt n := rfl
@[simp] theorem State.after_pslot (s : State) (b : Block) (n : Nat) : (s.after b).b.pslot n = b.pslot n := rfl
@[simp] theorem State.after_arbAt (s : State) (b : Block) (n : Nat) : (s.after b).b.arbAt n = b.arbAt n := rfl
@[simp] theorem State.after_line (s : State) (b : Block) (n : Nat) : (s.after b).b.line n = b.line n := rfl
@[simp] theorem State.after_pdom (s : State) (b : Block) (n : Nat) : (s.after b).b.pdom n = b.pdom n := rfl
@[simp] theorem State.after_grp (s : State) (b : Block) (n : Nat) : (s.after b).b.grp n = b.grp n := rfl
@[simp] theorem State.after_keySlot (s : State) (b : Block) (n : Nat) : (s.after b).b.keySlot n = b.keySlot n := rfl

/-- A command that changes nothing while no control event is left. -/
theorem State.after_self (s : State) (h : s.b.ev = []) : s.after s.b = s := by
  cases s with
  | mk p a b => cases b; simp_all [State.after]

/-! ### One control event -/

theorem fuseSet_mem (l : List Nat) (i j : Nat) (h : l.contains j = true) : (fuseSet l i).contains j = true := by
  unfold fuseSet
  split
  · exact h
  · simp only [List.contains_eq_mem, List.mem_append, decide_eq_true_eq] at h ⊢
    exact .inl h

theorem fuseSet_new (l : List Nat) (i j : Nat) : (fuseSet l i).contains j = true ↔ l.contains j = true ∨ j = i := by
  unfold fuseSet
  split
  · next h =>
    constructor
    · exact .inl
    · rintro (h' | rfl)
      · exact h'
      · exact h
  · simp

theorem AO.apply_fuses (a : AO) (e : AoEvent) (j : Nat) (h : a.fuses.contains j = true) :
    (a.apply e).fuses.contains j = true := by
  cases e with
  | security => exact h
  | violation o v st => dsimp only [AO.apply]; split <;> exact h
  | fuse i => exact fuseSet_mem _ _ _ h
  | zeroised => exact h
  | tampered => exact h

@[simp] theorem AO.apply_on (a : AO) (e : AoEvent) : (a.apply e).on = a.on := by
  cases e <;> dsimp only [AO.apply] <;> (try split) <;> rfl

@[simp] theorem AO.apply_badWords (a : AO) (e : AoEvent) : (a.apply e).badWords = a.badWords := by
  cases e <;> dsimp only [AO.apply] <;> (try split) <;> rfl

@[simp] theorem AO.apply_aotime (a : AO) (e : AoEvent) : (a.apply e).aotime = a.aotime := by
  cases e <;> dsimp only [AO.apply] <;> (try split) <;> rfl

theorem AO.apply_viol (a : AO) (e : AoEvent) (h : a.viol = true) :
    (a.apply e).viol = true ∧ (a.apply e).violInfo = a.violInfo := by
  cases e with
  | violation o v st => simp [AO.apply, h]
  | _ => exact ⟨h, rfl⟩

theorem AO.apply_secEvents (a : AO) (e : AoEvent) (h : a.secEvents ≤ 2 ^ 32 - 1) :
    a.secEvents ≤ (a.apply e).secEvents ∧ (a.apply e).secEvents ≤ 2 ^ 32 - 1 := by
  cases e with
  | security => simp only [AO.apply]; omega
  | violation o v st =>
    dsimp only [AO.apply]
    split <;> (simp only; omega)
  | _ => exact ⟨Nat.le_refl _, h⟩

end Sys2Proof.Machine
end

