-- ==== Sys2Proof/Laws/Memory.lean ====
section
/-! SUPPORT. The memories behind the channels and the Palette: every operation on them keeps the canonical form; what is
written reads back, other cells stay. -/

namespace Sys2Proof.Machine

theorem memWrite_wf (b : Block) (ch pa : Nat) (d : Bytes) (h : Memory.wf b.mem = true) :
    Memory.wf (memWrite b ch pa d).mem = true := writeBytes_wf _ _ _ _ h

theorem palWrite_wf (b : Block) (o : Nat) (d : Bytes) (h : Memory.wf b.pal.mem = true) :
    Memory.wf (palWrite b o d).pal.mem = true := writeBytes_wf _ _ _ _ h

theorem palPut_wf (b : Block) (o : Nat) (d : Bytes) (h : Memory.wf b.pal.mem = true) :
    Memory.wf (palPut b o d).pal.mem = true := writeBytes_wf _ _ _ _ h

theorem palMerge_wf (b : Block) (o : Nat) (d m : Bytes) (h : Memory.wf b.pal.mem = true) :
    Memory.wf (palMerge b o d m).pal.mem = true := writeBytes_wf _ _ _ _ h

theorem zeroPal_wf (b : Block) (o n : Nat) (h : Memory.wf b.pal.mem = true) :
    Memory.wf (zeroPal b o n).pal.mem = true := Tab.wf_filter _ _ _ h

/-- An Atelier write keeps the canonical form of the memory, whatever its length. -/
theorem localWrite_wf (ksel fuel : Nat) (b b' : Block) (pa : Nat) (d : Bytes) (h : Memory.wf b.mem = true)
    (e : localWrite b ksel fuel pa d = .ok b') : Memory.wf b'.mem = true := by
  induction fuel generalizing b pa d with
  | zero => cases d <;> (simp only [localWrite, Except.ok.injEq] at e; exact e ▸ h)
  | succ n ih =>
    cases d with
    | nil => simp only [localWrite, Except.ok.injEq] at e; exact e ▸ h
    | cons x xs =>
      rw [localWrite.eq_def] at e
      simp only at e
      split at e
      · cases e
      · split at e
        · cases e
        · split at e
          · cases e
          · exact ih _ _ _ (memWrite_wf _ _ _ _ h) e

theorem memRead_memWrite (b : Block) (ch pa : Nat) (d : Bytes) : memRead (memWrite b ch pa d) ch pa d.length = d :=
  readBytes_writeBytes_same _ _ _ _

theorem palRead_palWrite (b : Block) (o : Nat) (d : Bytes) : palRead (palWrite b o d) o d.length = d :=
  readBytes_writeBytes_same _ _ _ _

theorem palPut_same (b : Block) (o : Nat) (d : Bytes) : palRead (palPut b o d) o d.length = d :=
  readBytes_writeBytes_same _ _ _ _

theorem reset_mem_wf : Memory.wf State.reset.b.mem = true := rfl
theorem reset_pal_wf : Memory.wf State.reset.b.pal.mem = true := rfl

end Sys2Proof.Machine
end

