-- ==== Sys2Proof/Laws/Rows.lean ====
section
/-! SUPPORT. What the shared wrappers of the meanings do: a Rinlin command taken from its source (serveRow), an access of the
control port (access), an instruction of a context (runInstr). -/

namespace Sys2Proof.Machine

/-! ### recForget -/

@[simp] theorem recForget_boot (b : Block) (r : Nat) : (recForget b r).boot = b.boot := rfl
@[simp] theorem recForget_setup (b : Block) (r : Nat) : (recForget b r).setup = b.setup := rfl
@[simp] theorem recForget_islands (b : Block) (r : Nat) : (recForget b r).islands = b.islands := rfl
@[simp] theorem recForget_chans (b : Block) (r : Nat) : (recForget b r).chans = b.chans := rfl
@[simp] theorem recForget_sports (b : Block) (r : Nat) : (recForget b r).sports = b.sports := rfl
@[simp] theorem recForget_links (b : Block) (r : Nat) : (recForget b r).links = b.links := rfl
@[simp] theorem recForget_rin (b : Block) (r : Nat) : (recForget b r).rin = b.rin := rfl
@[simp] theorem recForget_canv (b : Block) (r : Nat) : (recForget b r).canv = b.canv := rfl
@[simp] theorem recForget_ctxs (b : Block) (r : Nat) : (recForget b r).ctxs = b.ctxs := rfl
@[simp] theorem recForget_chains (b : Block) (r : Nat) : (recForget b r).chains = b.chains := rfl
@[simp] theorem recForget_pal (b : Block) (r : Nat) : (recForget b r).pal = b.pal := rfl
@[simp] theorem recForget_xl (b : Block) (r : Nat) : (recForget b r).xl = b.xl := rfl
@[simp] theorem recForget_arb (b : Block) (r : Nat) : (recForget b r).arb = b.arb := rfl
@[simp] theorem recForget_ring (b : Block) (r : Nat) : (recForget b r).ring = b.ring := rfl
@[simp] theorem recForget_palq (b : Block) (r : Nat) : (recForget b r).palq = b.palq := rfl
@[simp] theorem recForget_drq (b : Block) (r : Nat) : (recForget b r).drq = b.drq := rfl
@[simp] theorem recForget_pd (b : Block) (r : Nat) : (recForget b r).pd = b.pd := rfl
@[simp] theorem recForget_flt (b : Block) (r : Nat) : (recForget b r).flt = b.flt := rfl
@[simp] theorem recForget_sec (b : Block) (r : Nat) : (recForget b r).sec = b.sec := rfl
@[simp] theorem recForget_regs (b : Block) (r : Nat) : (recForget b r).regs = b.regs := rfl
@[simp] theorem recForget_power (b : Block) (r : Nat) : (recForget b r).power = b.power := rfl
@[simp] theorem recForget_obsSel (b : Block) (r : Nat) : (recForget b r).obsSel = b.obsSel := rfl
@[simp] theorem recForget_xing (b : Block) (r : Nat) : (recForget b r).xing = b.xing := rfl
@[simp] theorem recForget_groups (b : Block) (r : Nat) : (recForget b r).groups = b.groups := rfl
@[simp] theorem recForget_mem (b : Block) (r : Nat) : (recForget b r).mem = b.mem := rfl
@[simp] theorem recForget_steerSpread (b : Block) (r : Nat) : (recForget b r).steerSpread = b.steerSpread := rfl
@[simp] theorem recForget_steerOver (b : Block) (r : Nat) : (recForget b r).steerOver = b.steerOver := rfl
@[simp] theorem recForget_badGran (b : Block) (r : Nat) : (recForget b r).badGran = b.badGran := rfl
@[simp] theorem recForget_held (b : Block) (r : Nat) : (recForget b r).held = b.held := rfl
@[simp] theorem recForget_heldFlits (b : Block) (r : Nat) : (recForget b r).heldFlits = b.heldFlits := rfl
@[simp] theorem recForget_received (b : Block) (r : Nat) : (recForget b r).received = b.received := rfl
@[simp] theorem recForget_streams (b : Block) (r : Nat) : (recForget b r).streams = b.streams := rfl
@[simp] theorem recForget_free (b : Block) (r : Nat) : (recForget b r).free = b.free := rfl
@[simp] theorem recForget_ev (b : Block) (r : Nat) : (recForget b r).ev = b.ev := rfl

/-! ### Rinlin commands -/

/-- Statuses that are not of a failed access raise no pin. -/
theorem faultPin_other (b : Block) (vi va c : Nat) {st : Status} (h0 : st ≠ .route) (h1 : st ≠ .busRetryExhausted)
    (h2 : st ≠ .uncorrectable) (h3 : st ≠ .parity) : faultPin b vi va c st = b := by
  unfold faultPin; simp [h0, h1, h2, h3]

/-- A command that ends at once is completed. -/
theorem serveRow_now {op : Nat} {h : Cmd} {src : CmdSrc} {ao : AO} {b b' b2 bs : Block} {c : Bytes} {r : Reply} {st : Status}
    {res det : Nat} (hf : fetch b src op = .command b' c r bs) (hh : h ao b' c r = (b2, .now st res det)) :
    serveRow op h src ao b = endCommand b2 r st res det := by
  unfold serveRow; simp only [hf, hh]

/-- A command one of whose records cannot be accessed ends with that access's status and address. -/
theorem serveRow_lost {op : Nat} {h : Cmd} {src : CmdSrc} {ao : AO} {b b' b2 bs : Block} {c : Bytes} {r : Reply} {st : Status}
    {va : Nat} (hf : fetch b src op = .command b' c r bs) (hh : h ao b' c r = (b2, .lost st va)) (h0 : st ≠ .held) :
    serveRow op h src ao b = lostCommand b2 r st va := by
  unfold serveRow; simp only [hf, hh]

/-- A command whose access is held waits at its source, and what it waits for is sought. -/
theorem serveRow_held {op : Nat} {h : Cmd} {src : CmdSrc} {ao : AO} {b b' b2 bs : Block} {c : Bytes} {r : Reply} {va : Nat}
    (hf : fetch b src op = .command b' c r bs) (hh : h ao b' c r = (b2, .lost .held va)) :
    serveRow op h src ao b = pursue bs 256 r.vi va := by
  unfold serveRow; simp only [hf, hh]

/-- A command that owes its completion leaves the block as its handler does, what was read for it forgotten. -/
theorem serveRow_later {op : Nat} {h : Cmd} {src : CmdSrc} {ao : AO} {b b' b2 bs : Block} {c : Bytes} {r : Reply}
    (hf : fetch b src op = .command b' c r bs) (hh : h ao b' c r = (b2, .later)) :
    serveRow op h src ao b = recForget b2 256 := by
  unfold serveRow; simp only [hf, hh]

/-- A command that cannot start yet stays at its source. -/
theorem serveRow_stay {op : Nat} {h : Cmd} {src : CmdSrc} {ao : AO} {b b' b2 bs : Block} {c : Bytes} {r : Reply}
    (hf : fetch b src op = .command b' c r bs) (hh : h ao b' c r = (b2, .stay)) : serveRow op h src ao b = bs := by
  unfold serveRow; simp only [hf, hh]

/-- With nothing for the row at its source a command changes nothing. -/
theorem serveRow_nothing {op : Nat} {h : Cmd} {src : CmdSrc} {ao : AO} {b : Block} (hf : fetch b src op = .nothing) :
    serveRow op h src ao b = b := by
  unfold serveRow; simp only [hf]

/-- The statuses checks 2 to 6 give a command without a target (R104). -/
theorem check_status {b : Block} {c : Bytes} {r : Reply} {who : Issuer} {e : Nat} {u : List (Nat × Nat)} {o : Bool}
    {st : Status} (h : check b c r who none e u o = some st) :
    st = .permission ∨ st = .instanceReset ∨ st = .staleRole ∨ st = .bounds := by
  unfold check at h
  (repeat' split at h) <;> simp_all

/-! ### The control port -/

/-- An access that the port refuses. -/
theorem access_refused {a : Nat} {w : CtlWrite} {k : AO → Block → Except Status Block} {ao : AO} {b : Block} {st : Status}
    (h1 : ctUp b = true) (h2 : a % 8 = 0) (h3 : a < 2 ^ 20) (h4 : w.vi < 256) (h5 : portCheck ao b a w = some st) :
    access a w k ao b = refusePort b a w st := by
  unfold access; rw [if_neg (by simp only [h1, h2]; simp; omega)]; simp only [h5]

/-- An access that its register takes. -/
theorem access_taken {a : Nat} {w : CtlWrite} {k : AO → Block → Except Status Block} {ao : AO} {b b' : Block}
    (h1 : ctUp b = true) (h2 : a % 8 = 0) (h3 : a < 2 ^ 20) (h4 : w.vi < 256) (h5 : portCheck ao b a w = none)
    (h6 : k ao b = .ok b') : access a w k ao b = respond b' .ok := by
  unfold access; rw [if_neg (by simp only [h1, h2]; simp; omega)]; simp only [h5, h6]

/-- An access that its register refuses. -/
theorem access_error {a : Nat} {w : CtlWrite} {k : AO → Block → Except Status Block} {ao : AO} {b : Block} {st : Status}
    (h1 : ctUp b = true) (h2 : a % 8 = 0) (h3 : a < 2 ^ 20) (h4 : w.vi < 256) (h5 : portCheck ao b a w = none)
    (h6 : k ao b = .error st) : access a w k ao b = refusePort b a w st := by
  unfold access; rw [if_neg (by simp only [h1, h2]; simp; omega)]; simp only [h5, h6]

/-! ### Instructions -/

/-- An instruction that runs. -/
theorem runInstr_go {row : Bytes → Bool} {k : Block → Ctx → Bytes → Res} {c : Nat} {b b' b2 : Block} {i : Bytes}
    (h1 : canStep b c = true) (h2 : fetchInstr b c = (b', .ok i)) (h3 : listedInstr.contains (fieldAt i 0 1) = true)
    (h4 : row i = true) (h5 : k b' (b'.ctx c) i = .go b2) : runInstr row k c b = startFetch (recForget b2 c) c := by
  unfold runInstr; simp only [h1, h2, h3, h4, h5, Bool.not_true, Bool.false_eq_true, if_false]

/-- An instruction that fails with nothing in flight halts its context. -/
theorem runInstr_halt {row : Bytes → Bool} {k : Block → Ctx → Bytes → Res} {c : Nat} {b b' b2 : Block} {i : Bytes}
    {st : Status} {va : Nat} (h1 : canStep b c = true) (h2 : fetchInstr b c = (b', .ok i))
    (h3 : listedInstr.contains (fieldAt i 0 1) = true) (h4 : row i = true) (h5 : k b' (b'.ctx c) i = .halt b2 st va)
    (h6 : st ≠ .held) (h7 : (b.ctx c).execs = []) :
    runInstr row k c b = haltBegin (recForget (faultPin b2 (b.ctx c).vi va c st) c) c st va := by
  unfold runInstr
  simp only [h1, h2, h3, h4, h5, h7, Bool.not_true, Bool.false_eq_true, if_false, List.isEmpty_nil, if_true]

/-- A context that may not begin an instruction is left as it is. -/
theorem runInstr_not {row : Bytes → Bool} {k : Block → Ctx → Bytes → Res} {c : Nat} {b : Block} (h : canStep b c = false) :
    runInstr row k c b = b := by
  unfold runInstr; simp [h]

end Sys2Proof.Machine
end

