-- ==== Sys2Proof/WellFormed.lean ====
section
/-! DEFINITION. Which operands a command can have: unit numbers within the unit counts of R3, tags of 9 bits, beats and
groups of their port's width (R37, R44, R48). The meanings do not assume it. -/

namespace Sys2Proof

/-- A submission queue or mailbox that exists (R92, R96). -/
def CmdSrc.wf : CmdSrc → Bool
  | .mailbox vi => decide (vi < 256)
  | .privileged => true
  | .queue i => decide (i < 32768)

/-- OTP words, Gesso cores and Palette rows that exist (R17, R424, R436). -/
def StartIn.wf (k : StartIn) : Bool :=
  k.badWords.all (· < 1024) && k.badCores.all (· < 192) && k.badRows.all (fun r => decide (r.1 < 6) && decide (r.2 < 2048))

/-- A stream beat: 256 bytes, one parity bit each, 1 to 256 valid bytes, a 16-bit number, a 4-bit layout (R44). -/
def Beat.wf (b : Beat) : Bool :=
  b.data.length == 256 && b.par.length == 256 && decide (1 ≤ b.bytes) && decide (b.bytes ≤ 256) &&
    decide (b.cid < 65536) && decide (b.layout < 16)

/-- The issuing instance is a byte (R52). -/
def CtlWrite.wf (w : CtlWrite) : Bool := decide (w.vi < 256)

/-- An arbitration point that exists (R355). -/
def ArbPoint.wf : ArbPoint → Bool
  | .context q _ => decide (q < 4)
  | .channel n _ => decide (n < 24)
  | .ring hop => decide (hop < 8)
  | .egress p => decide (p < 8)
  | .palette bank => decide (bank < 5)

/-- How many units of a kind the block has. -/
def UnitKind.count : UnitKind → Nat
  | .lane => 64 | .channel => 24 | .link => 8 | .core => 192 | .decoder => 128 | .region => 6

/-- A detection names one of 64 sources (R411). -/
def DetIn.wf : DetIn → Bool
  | .raised => true
  | .pin s u c _ => decide (s < 64) && decide (u < 65536) && (match c with | some c => decide (c < 256) | none => true)

/-- Units a cross-check compares (R423). -/
def CrossIn.wf : CrossIn → Bool
  | .lanes a b _ _ => decide (a < 64) && decide (b < 64) && a != b
  | .third q c _ => decide (q < 4) && decide (c < 64)
  | .cores a b _ _ => decide (a < 192) && decide (b < 192) && a != b

/-- Islands a warning names (R458). -/
def WarnIn.wf : WarnIn → Bool
  | .supply i => decide (i < 38)
  | .temperature i => decide (i < 38)
  | .neighbour a b => decide (a < 38) && decide (b < 38) && a != b

/-- Ports that drive lv_alive (R35). -/
def LvPort.wf : LvPort → Bool
  | .channel n => decide (n < 24)
  | .stream n => decide (n < 8)
  | .link n => decide (n < 8)

/-- Whose open writes are bounded. -/
def WriteBound.wf : WriteBound → Bool
  | .vi v => decide (v < 256)
  | .context c => decide (c < 256)

/-- A channel number, a link or stream port, a context. -/
def chOk (n : Nat) : Bool := decide (n < 24)
def portOk (n : Nat) : Bool := decide (n < 8)
def ctxOk (n : Nat) : Bool := decide (n < 256)
def domOk (n : Nat) : Bool := decide (n < 16)
def tagOk (n : Nat) : Bool := decide (n < 512)

/-- Well-formed commands: every operand in its range. -/
def Instr.wf : Instr → Bool
  | .coldStart k => k.wf
  | .warmStart k => k.wf
  | .islandReset i _ => decide (i < 38)
  | .readyLocal => true
  | .mcReadCredit ch => chOk ch
  | .mcWriteCredit ch => chOk ch
  | .mcReadResponse ch tag resp data par chk =>
    chOk ch && tagOk tag && decide (resp < 4) && data.length == 256 && par.length == 256 && chk.length == 16
  | .mcWriteResponse ch tag resp => chOk ch && tagOk tag && decide (resp < 4)
  | .tagTimeout ch _ tag => chOk ch && tagOk tag
  | .capIVld ch _ => chOk ch
  | .channelModeFix ch => chOk ch
  | .channelNegotiationTimeout ch => chOk ch
  | .capIVldLoss ch => chOk ch
  | .channelWaitRetryTick ch => chOk ch
  | .thermChange ch _ => chOk ch
  | .streamIngressBeat p bt => portOk p && bt.wf
  | .streamEgressBeat p => portOk p
  | .drq l => decide (l < 64)
  | .pdReq d => domOk d
  | .pdAck d => domOk d
  | .drainBoundExpiry d => domOk d
  | .pdReqRelease d => domOk d
  | .trnDone p => portOk p
  | .rxLockLoss p => portOk p
  | .retrain p => portOk p
  | .fecUncorr p lane => portOk p && decide (lane < 24)
  | .trainingTimeout p => portOk p
  | .fencedPortRetry p => portOk p
  | .capabilityResend p => portOk p
  | .idMismatchRepeat p => portOk p
  | .flitGroup p g => portOk p && g.length == 1152
  | .linkEgressGroup p => portOk p
  | .linkBlockIdleClose p => portOk p
  | .write p => portOk p
  | .read p => portOk p
  | .rdata p => portOk p
  | .ack p => portOk p
  | .redAddmod p => portOk p
  | .redFp32 p => portOk p
  | .redBf16 p => portOk p
  | .redMax p => portOk p
  | .redMin p => portOk p
  | .fadd p => portOk p
  | .swatch p => portOk p
  | .keepalive p => portOk p
  | .keepaliveSend p => portOk p
  | .keepaliveLoss p => portOk p
  | .capability p => portOk p
  | .sessionInit p => portOk p
  | .sessionResp p => portOk p
  | .sessionFin p => portOk p
  | .sessionTimeout p => portOk p
  | .sessionRetry p => portOk p
  | .slip p => portOk p
  | .slipQuantum g => ctxOk g
  | .abort p => portOk p
  | .command p => portOk p
  | .completion p => portOk p
  | .linkTimeout p rix => portOk p && decide (rix < 65536)
  | .collectiveTimeout c => ctxOk c
  | .creditStall p vc dl => portOk p && decide (vc < 3) && decide (dl < 2)
  | .registerWrite a w => decide (a < 2 ^ 20) && w.wf
  | .submissionTail a w => decide (a < 2 ^ 20) && w.wf
  | .completionHead a w => decide (a < 2 ^ 20) && w.wf
  | .hostcfg w => w.wf
  | .fltStatus w => w.wf
  | .otpPgo w => w.wf
  | .otpProgramDone _ => true
  | .targetP0 w => w.wf
  | .targetP1 w => w.wf
  | .targetP2 w => w.wf
  | .targetP3 w => w.wf
  | .powerStateEntry => true
  | .powerTransitionDone => true
  | .close w => w.wf
  | .debugUnlockExpiry => true
  | .dbgPcmdRead w => w.wf
  | .dbgPcmdWrite w => w.wf
  | .dbgAtlHalt w => w.wf
  | .nop s => s.wf
  | .sqCreate s => s.wf
  | .sqDestroy s => s.wf
  | .cqCreate s => s.wf
  | .cqDestroy s => s.wf
  | .trackerAlloc s => s.wf
  | .trackerFree s => s.wf
  | .canvasCreate s => s.wf
  | .canvasDestroy s => s.wf
  | .programSubmit s => s.wf
  | .chainSubmit s => s.wf
  | .contextResume s => s.wf
  | .contextAbort s => s.wf
  | .contextInspect s => s.wf
  | .poolAlloc s => s.wf
  | .poolFree s => s.wf
  | .instanceCreate s => s.wf
  | .instanceReset s => s.wf
  | .instanceDestroy s => s.wf
  | .setupUpdate s => s.wf
  | .telemetryRead s => s.wf
  | .logConfigure s => s.wf
  | .streamOpen s => s.wf
  | .streamClose s => s.wf
  | .selftest s t => s.wf && t.badCores.all fun c => decide (c < 192)
  | .attest s => s.wf
  | .keyGenerate s => s.wf
  | .keyImport s => s.wf
  | .keyDestroy s => s.wf
  | .random s => s.wf
  | .identCertLoad s => s.wf
  | .zeroise s => s.wf
  | .lifecycleAdvance s => s.wf
  | .fwVersionRaise s => s.wf
  | .debugUnlock s => s.wf
  | .status s => s.wf
  | .move c => ctxOk c
  | .gather c => ctxOk c
  | .scatter c => ctxOk c
  | .maskmove c => ctxOk c
  | .expand c => ctxOk c
  | .automorph c => ctxOk c
  | .rnscast c => ctxOk c
  | .reduce c => ctxOk c
  | .corner c => ctxOk c
  | .loop c => ctxOk c
  | .endloop c => ctxOk c
  | .waitFlag c => ctxOk c
  | .waitRequestLine c => ctxOk c
  | .waitQueueLevel c => ctxOk c
  | .waitSatisfied c => ctxOk c
  | .flagPoll c => ctxOk c
  | .waitTimeout c => ctxOk c
  | .signalFlag c => ctxOk c
  | .signalTracker c => ctxOk c
  | .signalShift c => ctxOk c
  | .fence c => ctxOk c
  | .fenceComplete c => ctxOk c
  | .flush c => ctxOk c
  | .pred c => ctxOk c
  | .chain c => ctxOk c
  | .endProgram c => ctxOk c
  | .drainComplete c => ctxOk c
  | .unitAdmission q => decide (q < 4)
  | .burstGrant p => p.wf
  | .walkComplete _ => true
  | .ringSlotHandover c => ctxOk c
  | .unitCommit c _ _ => ctxOk c
  | .halt c => ctxOk c
  | .windowBoundary i => decide (i < 38)
  | .tamperEvent _ => true
  | .detectorWarning w => w.wf
  | .islandClockLoss i => decide (i < 38)
  | .obsSel v => decide (v < 64)
  | .detection d => d.wf
  | .quietTimer k i => decide (i < k.count)
  | .fltNHoldExpiry => true
  | .recordWrite _ => true
  | .crossCheck c => c.wf
  | .crossCheckTimeout q => decide (q < 4)
  | .scrub r w _ => decide (r < 6) && decide (w < 2 ^ 17)
  | .probe r _ _ => decide (r < 192)
  | .drbgReseed => true
  | .healthTestFailure => true
  | .lvAliveToggle p => p.wf
  | .openWriteBoundExpiry w => w.wf
  | .portNotReadyTimeout c => decide (c ≤ 256)

end Sys2Proof
end

