-- ==== Sys2Proof/Tests/Slice0.lean ====
section
/-! SUPPORT. Tests: the well-formedness smoke test, small steps against the spec's words, and for every statement with
hypotheses a concrete state and operands that meet them (the theorems named witness_). -/

namespace Sys2Proof.Tests

open Sys2Proof.Machine

set_option Elab.async false

/-! ### States to test on -/

/-- A channel in service in trusted mode, with credits. -/
def chanOn : Chan :=
  { service := .inService, rcred := 4, wcred := 4, capO := 0x1,
    mode := some { full := false, run := 16, sym8 := false, therm := true, drainable := true, trusted := true, tagMax := 511 } }

/-- A block in service: every island out of reset, channels in service, no setup image. -/
def up : Block :=
  { boot := { stage := 8 }, islands := { out := (List.range 38).map fun i => (i, true) }
    chans := (List.range 24).map fun n => (n, chanOn), steerSpread := List.range 24
    rin := { vis := [(0, { live := true }), (1, { live := true, gen := 5 })] }
    sports := (List.range 8).map fun p => (p, { ready := true }) }

/-- A state around a block, with rst_ao_n high and an in-service life cycle. -/
def st (b : Block) : State := { pending := [], ao := { on := true, fuses := [0, 1], shadow := [0, 1] }, b := b }

/-- Bytes with fields set: offset, length, value. -/
def bytes (n : Nat) (l : List (Nat × Nat × Nat)) : Bytes :=
  l.foldl (fun c f => patchAt c f.1 (natLe f.2.1 f.2.2)) (List.replicate n 0)

/-- A block with a command in a mailbox. -/
def withCmd (b : Block) (v : Nat) (l : List (Nat × Nat × Nat)) : Block := b.setMbox v { busy := true, cmd := bytes 64 l }

/-- The mailbox holds a command for the row whose taking satisfies a test. -/
def took (s : State) (src : CmdSrc) (op : Nat) (p : Block → Bytes → Reply → Bool) : Bool :=
  match fetch s.b src op with
  | .command b c r _ => p b c r
  | _ => false

theorem took_spec {s : State} {src : CmdSrc} {op : Nat} {p : Block → Bytes → Reply → Bool} (h : took s src op p = true) :
    ∃ b c r kept, fetch s.b src op = .command b c r kept ∧ p b c r = true := by
  unfold took at h; split at h
  · next b c r k e => exact ⟨b, c, r, k, e, h⟩
  · cases h

/-- An access of a context's read. -/
def acc : Acc :=
  { ch := 3, gran := 7, owner := .signal 5, write := false, data := [], mask := [], off := 0, len := 8, va := 1792, vi := 0
    ksel := 0, retries := 0, tag := none, rmw := none, combined := false, fill := false, remoteClass := false }

/-! ### Well-formedness (R3) -/

theorem test_wf_drq : (Instr.drq 63).wf = true := by decide
theorem test_wf_port : (Instr.ack 8).wf = false := by decide
theorem test_wf_channel : (Instr.mcReadCredit 24).wf = false := by decide
theorem test_wf_context : (Instr.halt 256).wf = false := by decide
theorem test_wf_domain : (Instr.pdReq 16).wf = false := by decide
theorem test_wf_tag : (Instr.mcWriteResponse 0 512 0).wf = false := by decide
theorem test_wf_response : (Instr.mcWriteResponse 0 0 4).wf = false := by decide
theorem test_wf_island : (Instr.islandReset 38 true).wf = false := by decide
theorem test_wf_line : (Instr.drq 64).wf = false := by decide
theorem test_wf_write : (Instr.hostcfg { strb := 0xFF, data := 0, vi := 256 }).wf = false := by decide
theorem test_wf_address : (Instr.registerWrite (2 ^ 20) { strb := 0xFF, data := 0, vi := 0 }).wf = false := by decide
theorem test_wf_source : (Instr.nop (.queue 32768)).wf = false := by decide
theorem test_wf_start : (Instr.coldStart { badWords := [1024], kat2 := true, health := true, kat4 := true, pairwise := true
                                           badCores := [], badRows := [] }).wf = false := by decide
theorem test_wf_beat : (Instr.streamIngressBeat 0 { data := [], par := [], bytes := 1, cid := 1, layout := 0, eot := false
                                                    eoc := false }).wf = false := by decide
theorem test_wf_group : (Instr.flitGroup 0 []).wf = false := by decide
theorem test_wf_point : (Instr.burstGrant (.egress 8)).wf = false := by decide
theorem test_wf_detection : (Instr.detection (.pin 64 0 none 0)).wf = false := by decide
theorem test_wf_crossCheck : (Instr.crossCheck (.lanes 3 3 0 1)).wf = false := by decide
theorem test_wf_warning : (Instr.detectorWarning (.neighbour 2 2)).wf = false := by decide
theorem test_wf_heartbeat : (Instr.lvAliveToggle (.stream 8)).wf = false := by decide
theorem test_wf_bound : (Instr.openWriteBoundExpiry (.vi 256)).wf = false := by decide
theorem test_wf_lane : (Instr.fecUncorr 0 24).wf = false := by decide

/-- No row gives bits. -/
theorem test_decode_none : decodeTableWord 32 0x12345678 = none := by decide

/-! ### Witnesses: the machine, memory, starts -/

theorem witness_IdleStep : State.reset.pending = [] := by decide
theorem witness_FusesNeverCleared : ∃ t, step (st up) = .next t := ⟨_, rfl⟩
theorem witness_ShadowShowsFuses : ShadowTrue (st up) ∧ ∃ t, step (st up) = .next t := ⟨fun _ h => h, _, rfl⟩
theorem witness_ViolationReport_refusal : (st up).b.ev = [] := by decide
theorem witness_ViolationReport_cold : ∃ t, exec .readyLocal (st up) = .next t ∧ isCold .readyLocal = false := ⟨_, rfl, rfl⟩
theorem witness_ViolationReport_status : took (st (withCmd up 0 [(0, 1, 0x9B)])) (.mailbox 0) 0x9B (fun b c r =>
    check0 b c r .any [] true == none && decide (b.boot.stage < 256)) = true := by decide +kernel
theorem witness_AlwaysOnFrame : (st up).ao.secEvents ≤ 2 ^ 32 - 1 := by decide
theorem witness_LocalWriteReadsBack : channelOf up 0x3FF = some 3 ∧ (up.chan 3).service = .inService ∧
    untrusted up 3 = false ∧ domStatus up 3 0x3FF = none ∧ badRead up 3 3 = none ∧ 0x3FF % 256 + 1 ≤ 256 := by decide +kernel
theorem witness_SteeringLeavesFencedChannel : ∃ n ∈ inServiceChans up, n ≠ 23 := ⟨0, by decide +kernel, by decide⟩
theorem witness_WarmStart : (st up).ao.on = true ∧ (st up).b.islands.out.get false 37 = true ∧
    State.reset.ao.on = false := by decide
theorem witness_IslandReset : State.reset.b.islands.out.get false 37 ≠ true ∧ (st up).b.islands.out.get false 3 ≠ false ∧
    State.reset.b.ev = [] := by decide
theorem witness_IslandReset_quadrant : ({ up with islands := {} } : Block).islands.out.get false 3 = false ∧ up.boot.stage = 8 := by decide
theorem witness_ReadyLocal : mayBeReady { up with boot := { stage := 7 } } = true ∧ mayBeReady up = false ∧
    (st up).b.ev = [] := by decide +kernel

theorem witness_BootStepsEnd_zeroised : lifeCycle { on := true, shadow := [4] } = 5 := by decide
theorem witness_BootStepsEnd_seed : (inService { on := true, shadow := [0, 1, 416] } && seedBad { on := true, shadow := [0, 1, 416] }) = true ∧
    lifeCycle { on := true, shadow := [0, 1, 416] } ≠ 5 := by decide +kernel
theorem witness_BootStepsEnd_firmware : (inService { on := true } && seedBad { on := true }) = false ∧
    up.islands.out.get false 5 = true ∧ (firmware { on := true } up).isNone = true := by decide +kernel

/-! ### Witnesses: channels, streams, domains -/

theorem witness_CreditsReturned : chanUp up 23 = true ∧ (up.chan 23).rcred ≠ 255 ∧ (up.chan 23).wcred ≠ 255 := by decide
theorem witness_CreditsReturned_full : let b := up.setChan 0 { chanOn with rcred := 255, wcred := 255 }
    chanUp b 0 = true ∧ (b.chan 0).rcred = 255 ∧ (b.chan 0).wcred = 255 := by decide
/-- A channel with an access outstanding in each direction and a quarantined tag in each. -/
def tagged : Block := up.setChan 3 { chanOn with rtags := [(511, acc)], wtags := [(511, { acc with write := true })]
                                                 rquar := [0], wquar := [0] }
theorem witness_ChannelResponses : takesResponses tagged 3 = true ∧ (tagged.chan 3).rquar.contains 0 = true ∧
    (tagged.chan 3).rquar.contains 511 = false ∧ (tagged.chan 3).wquar.contains 511 = false ∧
    ((tagged.chan 3).rtags.find? fun e => e.1 == 1) = none ∧ ((tagged.chan 3).wtags.find? fun e => e.1 == 1) = none ∧
    ((tagged.chan 3).rtags.find? fun e => e.1 == 511) = some (511, acc) ∧
    ((tagged.chan 3).wtags.find? fun e => e.1 == 511) = some (511, { acc with write := true }) ∧
    sym8 tagged 3 = false ∧ acc.owner ≠ .discard ∧ parityOf (List.replicate 2 1) ≠ [false, false] := by decide
/-- A channel whose word stands while its partner's has come. -/
def offered (cap : Word64) : Block := up.setChan 3 { service := .offered, capO := 0x1, capI := some cap }
theorem witness_ChannelNegotiation : ((offered 0x1FF00010711).chan 3).service = .offered ∧
    (chooseMode ((offered 0x1FF00010711).chan 3).capO.toNat (0x1FF00010711 : Word64).toNat).isSome = true ∧
    chooseMode ((offered 0x0).chan 3).capO.toNat (0x0 : Word64).toNat = none := by decide
theorem witness_ChannelNegotiation_timeout : let b := up.setChan 3 { service := .offered }
    (b.chan 3).service = .offered ∧ (b.chan 3).capI = none ∧ (up.chan 3).service = .inService ∧
    ((up.setChan 3 { service := .lost }).chan 3).service = .lost := by decide
theorem witness_ChannelNegotiation_thermal : (up.chan 23).mode = chanOn.mode ∧ (chanOn.mode.map (·.therm)) = some true ∧
    (up.chan 23).therm ≠ 3 ∧ (up.chan 23).therm ≠ 1 ∧ anyCritical (up.setChan 0 { chanOn with therm := 3 }) = true := by decide
/-- An execution of context 5 that takes 512 bytes of stream 9 at port 1. -/
def streamExec : Exec :=
  { seq := 2, pcA := 0, ins := bytes 32 [(0, 1, 1), (2, 1, 0x10), (3, 1, 1)], its := [], src := {}, dst := {}, dstSlot := 0
    cast := .bypass, scale := none, smods := [], dmods := [], seeds := [], swatch := {}, closed := true, snum := 9, slen := 512
    units := [{ n := 0, firstBurst := 0, nBursts := 1, elems := [], phase := .reading, lane := some 16, onLane := true, need := 512 }] }

def beat (d : Nat) (n : Nat) (eot : Bool) : Beat :=
  { data := List.replicate 256 (BitVec.ofNat 8 d), par := parityOf (List.replicate 256 (BitVec.ofNat 8 d)), bytes := n, cid := 9
    layout := 0, eot := eot, eoc := false }
def streamNo : StreamNo := { egress := false, vi := 0, handle := 0, layout := 0, inbuf := [], ended := false }
/-- Stream 9 open at port 1, with an execution that waits for it, and a beat standing at the port's egress. -/
def streaming : Block :=
  let b := up.setSport 1 { ready := true, openNos := [(9, streamNo)], out := [{ beat := beat 1 0 false, ctx := 5, seq := 2 }] }
  b.setCtx 5 { st := .running, execs := [streamExec] }
theorem witness_StreamBeats : quadUp streaming (quadOfPort 1) = true ∧ readyLocal streaming = true ∧
    ((streaming.sport 1).openNos.find? fun o => o.1 == 9 && !o.2.egress) = some (9, streamNo) ∧
    ((streaming.sport 1).openNos.find? fun o => o.1 == 8 && !o.2.egress) = none ∧
    consumer streaming 1 9 = some (5, streamExec) ∧ ingressOpen streaming 1 streamExec = true ∧
    beatFault streamNo (beat 1 0 false) = none ∧ beatFault streamNo (beat 1 7 false) = some .bounds ∧
    (streaming.sport 1).out = [{ beat := beat 1 0 false, ctx := 5, seq := 2 }] ∧ domainOfPort streaming 1 = none := by decide +kernel

/-- Domain 15 holds channel 23 and stream port 7. -/
def domained (p : PDom) : Block :=
  { up with setup := { domains := List.replicate 15 {} ++ [{ valid := true, chMask := 2 ^ 23, spMask := 128 }] }, pd := [(15, p)] }
theorem witness_EarlyDomainAcknowledged : ({ up with boot := { stage := 6 } } : Block).boot.stage < 7 ∧
    (up.pdom 15).req = false ∧ (up.pdom 15).ack = false ∧ (up.pdom 15).drain = false := by decide
theorem witness_DomainsAndRequestLines_request : (domainRec (domained {}) 15).isSome = true ∧ 7 ≤ (domained {}).boot.stage ∧
    (domained {}).power.state ≠ 3 ∧ ((domained {}).pdom 15).req = false ∧ ((domained {}).pdom 15).drain = false := by decide
theorem witness_DomainsAndRequestLines_drained : let b := domained { req := true, drain := true }
    (b.pdom 15).drain = true ∧ domainDrained b 15 = true := by decide +kernel
theorem witness_DomainsAndRequestLines_release : let b := domained { req := true, ack := true }
    (b.pdom 15).drain = false ∧ (b.pdom 15).ack = true := by decide
theorem witness_DomainsAndRequestLines_line : 63 < 64 ∧ (st up).b.islands.out.get false (63 / 16) = true := by decide

/-! ### Witnesses: links -/

/-- A block with port 7 as given. -/
def linked (l : Link) : Block := up.setLink 7 l
theorem witness_LinkTraining : let b := linked { phase := .training, trnReq := true, lanes := 8 }
    (b.link 7).phase = .training ∧ (b.link 7).trnReq = true ∧ (b.link 7).encoder = none ∧ 2 ≤ (b.link 7).lanes := by decide
theorem witness_LinkTraining_narrow : let b := linked { phase := .training, trnReq := true, lanes := 1 }
    (b.link 7).phase = .training ∧ (b.link 7).trnReq = true ∧ (b.link 7).encoder = none ∧ (b.link 7).lanes ≤ 1 := by decide
theorem witness_LinkTraining_again : ((linked { phase := .training }).link 7).trnReq = false ∧
    ((linked { phase := .fenced }).link 7).phase = .fenced ∧ (linked { phase := .fenced }).isFenced .link 7 = false ∧
    ((linked { phase := .exchange, mismatch := true }).link 7).peerCap = none ∧
    ((linked { phase := .exchange, mismatch := true }).link 7).mismatch = true := by decide
/-- An idle group: four flits of operation 0 under their CRCs, sequence number n. -/
def group (n : Nat) : Bytes :=
  let tail := patchAt (List.replicate 32 0) 16 (natLe 4 n)
  List.replicate 1088 0 ++ List.replicate 16 0 ++ (groupCrcs (List.replicate 1088 0) tail).flatMap (natLe 4) ++ tail
def ready : Link := { phase := .ready, trnReq := true, lanes := 8, replay := [(3, [7])], everReady := true }
theorem witness_FlitGroupReceived : portOn ((linked ready).link 7) = true ∧ islandUp (linked ready) (29 + 7) = true ∧
    (group 0).length = groupSize ∧ ((linked ready).link 7).sess.secret = [] := by decide +kernel
theorem witness_FlitGroupReceived_bad : (List.replicate 1152 (1 : Byte)).length = groupSize ∧
    crcsOk (List.replicate 1152 1) = false := by decide +kernel
theorem witness_FlitGroupReceived_good : crcsOk (group 0) = true ∧ allZero (sliceAt (trailerOf (group 0)) 0 16) = true ∧
    fieldAt (trailerOf (group 0)) 48 4 % 2 ^ 31 = (ackIn ready (trailerOf (group 0))).seqRx ∧
    crcsOk (group (2 ^ 31 - 1)) = true ∧ (fieldAt (trailerOf (group (2 ^ 31 - 1))) 48 4 % 2 ^ 31 + 1) % 2 ^ 31 =
      (ackIn ready (trailerOf (group (2 ^ 31 - 1)))).seqRx := by decide +kernel
theorem witness_FlitGroupSent : ready.resendAt = none ∧ ready.replay.length < 56 ∧
    ({ ready with resendAt := some 3, resends := [(3, 6)] } : Link).resends.get 0 3 < 7 ∧
    (ready.replay.find? fun x => x.1 == 3) = some (3, [7]) ∧ (st up).b.ev = [] ∧
    56 ≤ ({ ready with replay := List.replicate 56 (0, []) } : Link).replay.length := by decide
theorem witness_LinkGoesDown : ((linked ready).link 7).encoder = none := by decide

/-- A flit that makes a whole message. -/
def flit (op : Nat) (aux : Nat) (payload : Bytes) : Flit :=
  { vc := if op = opRdata ∨ op = opAck then vcRsp else vcReq, dl := 0, eom := true, op := op, dst := 1, src := 2, rix := 3, vi := 0, ksel := 0
    addr := 4, aux := aux, hops := 0, payload := payload }
/-- Port 7 ready, its oldest message the flits given. -/
def received (fs : List Flit) : Block := linked { ready with ingress := fs }
def full : Bytes := List.replicate 256 1
/-- The port's oldest message of an op is the flits given. -/
def holds (fs : List Flit) (op : Nat) : Bool :=
  match takeMessage (received fs) 7 op with
  | some (l, _) => l == fs
  | none => false
theorem witness_RemoteMemory_write : holds [flit opWrite 0 full] opWrite = true ∧
    ((items opWrite [flit opWrite 0 full]).map (·.length)) = some 1 ∧
    holds [flit opWrite 512 full] opWrite = true ∧ (items opWrite [flit opWrite 512 full]).isNone = true := by decide +kernel
theorem witness_RemoteMemory_read : holds [flit opRead 0 full] opRead = true := by decide +kernel
def addFlits : List Flit :=
  [{ flit opFadd 512 full with eom := false }, flit opBe 0 (0xFF :: List.replicate 255 0)]
theorem witness_RemoteMemory_add : holds addFlits opFadd = true ∧
    (items opFadd addFlits).map (fun l => l.map (·.mask)) = some [maskIn 0 8] ∧ enabledSpan (maskIn 0 8) = (0, 8) ∧
    ((8 == 1 || 8 == 4 || 8 == 8) && 0 % 8 == 0 &&
      ((List.range 8).all fun j => (maskIn 0 8).getD (0 + j) 0 == 0xFF)) = true := by decide +kernel
theorem witness_RemoteMemory_reduce : ∀ m ∈ [1, 2, 3, 4], holds [flit (5 + m) 10 full] (5 + m) = true ∧
    ((items (5 + m) [flit (5 + m) 10 full]).map fun l => l.all fun i => (redItem m [] i).isSome) = some true ∧
    (items (5 + m) [flit (5 + m) 522 full]).isNone = true := by decide +kernel
def modFlits : List Flit := [{ flit 5 (1024 + 15 * 2048) full with eom := false }, flit opModq 0 full]
theorem witness_RemoteMemory_modular : holds modFlits 5 = true ∧ holds [flit 5 (15 * 2048) full] 5 = true ∧
    (splitModq 0 [flit 5 (15 * 2048) full]).isNone = true ∧
    ((splitModq 0 modFlits).bind fun x => (items 5 x.1).map fun l => l.map fun i => (redItem 0 x.2 i).isSome) = some [true] := by decide +kernel
theorem witness_RecordsAndAnswers_swatch :
    holds [flit opSwatch 0 (bytes 2064 [(8, 2, 0x801)])] opSwatch = true ∧
    fieldAt (bytes 2064 [(8, 2, 0x801)]) 8 8 = 1 + 8 * 2 ^ 8 ∧ 16 + 2048 ≤ (bytes 2064 [(8, 2, 0x801)]).length ∧
    fieldAt (bytes 16 [(8, 2, 2)]) 8 8 % 16 = 2 ∧ fieldAt (bytes 16 [(8, 2, 3)]) 8 8 % 16 = 3 ∧
    fieldAt (bytes 16 []) 8 8 % 16 = 0 := by decide +kernel
theorem witness_RecordsAndAnswers_answer : holds [flit opRdata 0 full] opRdata = true ∧ holds [flit opAck 0 full] opAck = true := by decide +kernel
def req (op : Nat) : RemReq := { acc := { acc with write := true }, chip := 2, op := op, group := none }
theorem witness_RecordsAndAnswers_timeout :
    let b := linked { ready with reqs := [(65535, req opFadd), (9, req opWrite)] }
    ((b.link 7).reqs.find? fun e => e.1 == 65535) = some (65535, req opFadd) ∧ (req opFadd).acc.owner ≠ .discard ∧
    opFadd ≠ opRead ∧ opFadd ≠ opWrite ∧ opFadd ≠ opSwatch ∧
    ((b.link 7).reqs.find? fun e => e.1 == 9) = some (9, req opWrite) ∧ (req opWrite).op = opWrite ∧
    (retryAcc (b.setLink 7 { b.link 7 with reqs := (b.link 7).reqs.filter fun e => e.1 != 9 }) (req opWrite).acc).isSome = true := by
  decide +kernel

/-- The port's inbox holds a message. -/
def told (b : Block) (mt : Nat) : Bool := (takeMsg b 7 mt).isSome
theorem witness_KeepAlives : portOn ((linked ready).link 7) = true ∧
    told (linked { ready with inbox := [(mtKeepalive, 2, bytes 21 [])] }) mtKeepalive = true ∧
    ({ ready with egress := [(0, [flit opWrite 0 full])], credits := [(0, 0)] } : Link).outQ (flitClass 0 0) ≠ [] ∧
    ({ ready with egress := [(0, [flit opWrite 0 full])], credits := [(0, 0)] } : Link).credit (flitClass 0 0) = 0 ∧
    ({ ready with peerHeld := true } : Link).peerHeld = true ∧ ready.peerHeld = false := by decide +kernel
/-- Capability word: lanes 0xF, rate and FEC in bits 8 and 9, chip 2. -/
def peerWord : Nat := 0xF0 + 2 ^ 9 + 2 ^ 12 + 2 * 2 ^ 16
theorem witness_Sessions_capability :
    let b := linked { phase := .exchange, trnReq := true, lanes := 8, rate := 1, inbox := [(mtCapability, 2, natLe 8 peerWord)] }
    told b mtCapability = true ∧ (b.link 7).phase = .exchange ∧ (b.link 7).peerCap = none ∧
    bitOf (fieldAt (natLe 8 peerWord) 0 8) 12 = true ∧ b.boot.active = none ∧
    lanesFrom (bitsOf (fieldAt (natLe 8 peerWord) 0 8) 7 4) (b.link 7).narrow = some (b.link 7).lanes ∧
    bitsOf (fieldAt (natLe 8 peerWord) 0 8) 9 9 = 1 ∧ (b.link 7).rate = 1 ∧ (b.link 7).fec = 0 := by decide +kernel
theorem witness_Sessions_mismatch :
    let b := { up with boot := { stage := 8, active := some 0 }, setup := { neighbours := List.replicate 8 3 } }
    b.boot.active.isSome = true ∧ b.setup.neighbours.getD 7 0xFFFF ≠ 0xFFFF ∧
    b.setup.neighbours.getD 7 0xFFFF ≠ bitsOf (fieldAt (natLe 8 peerWord) 0 8) 31 16 := by decide
/-- A block with a certificate and chip identifier, port 7 in its session phase with a session as given. -/
def sessioned (chip : Nat) (x : Session) (mt : Nat) : Block :=
  let b := { up with setup := { chipId := chip }, sec := { cert := some [] } }
  b.setLink 7 { phase := .session, trnReq := true, lanes := 8, peerCap := some peerWord, sess := x, inbox := [(mt, 2, [])] }
theorem witness_Sessions_init : let b := sessioned 5 {} mtInit
    told b mtInit = true ∧ (b.link 7).phase = .session ∧ (b.link 7).sess.established = false ∧
    (b.link 7).sess.waitRetry = false ∧ isInitiator b (b.link 7) = false ∧ (b.link 7).peerCap = some peerWord ∧
    bitsOf peerWord 31 16 ≠ b.setup.chipId ∧ inService (st b).ao = true ∧ b.sec.cert.isSome = true := by decide +kernel
theorem witness_Sessions_response : let b := sessioned 1 { initiator := true, started := true } mtResp
    told b mtResp = true ∧ (b.link 7).phase = .session ∧ (b.link 7).sess.established = false ∧
    (b.link 7).sess.started = true ∧ isInitiator b (b.link 7) = true := by decide +kernel
theorem witness_Sessions_finish : let b := sessioned 5 { started := true } mtFin
    told b mtFin = true ∧ (b.link 7).phase = .session ∧ (b.link 7).sess.established = false ∧
    (b.link 7).sess.started = true ∧ isInitiator b (b.link 7) = false := by decide +kernel
theorem witness_Sessions_retry : let b := sessioned 5 { waitRetry := true } mtFin
    (b.link 7).phase = .session ∧ (b.link 7).sess.waitRetry = true := by decide
/-- Group 0 over the stream of ports 6 and 7, with one participant and a message at port 7. -/
def grouped (mt : Nat) (m : Bytes) : Block :=
  let b := { linked { ready with inbox := [(mt, 2, m)], sess := { established := true } } with
    setup := { chipId := 1, groups := [{ pa := some 7, pb := some 6 }] } }
  (b.setCtx 5 { st := .running, groups := [(0, 0)] }).setChan 3 { chanOn with therm := 3 }
theorem witness_ManagementMessages : told (grouped mtSlip (bytes 8 [])) mtSlip = true ∧
    (grouped mtSlip []).setup.groups[0]? = some { pa := some 7, pb := some 6 } ∧ (0 : Nat) ≠ 1 ∧
    anyCritical (grouped mtSlip []) = true ∧ participants (grouped mtSlip []) 0 ≠ [] ∧
    told (grouped mtAbort (bytes 8 [(1, 1, 9)])) mtAbort = true ∧ fieldAt (bytes 8 [(1, 1, 9)]) 1 1 ≠ ((grouped mtAbort []).grp 0).epoch ∧
    fieldAt (bytes 8 []) 1 1 = ((grouped mtAbort []).grp 0).epoch ∧ (grouped mtAbort []).setup.groups[255]? = none := by decide +kernel
theorem witness_ManagementMessages_command :
    let b := { grouped mtCommand (bytes 67 [(0, 1, 1), (6, 2, 5), (64, 1, 1)]) with
      rin := { vis := [(0, { live := true }), (1, { live := true, gen := 5, tpl := { remote := true } })] } }
    told b mtCommand = true ∧ atelierRuns b = true ∧ admits b 7 1 = true ∧ admits b 7 0 = false ∧ (b.vinst 1).stage = 0 := by decide +kernel
theorem witness_ManagementMessages_handled :
    (match handlerOf 1 (st up).ao up (bytes 64 [(0, 1, 1), (6, 2, 5)]) (replyOf (.mgmt 2 0 1) 1 (bytes 64 [(0, 1, 1), (6, 2, 5)])) with
      | (_, .now s _ _) => s != .held
      | _ => false) = true := by decide +kernel
theorem witness_ManagementMessages_completion : told (grouped mtCompletion []) mtCompletion = true := by decide +kernel

/-! ### Witnesses: the control port -/

/-- A whole 64-bit write by an instance. -/
def wr (d : Word64) (vi : Nat) : CtlWrite := { strb := 0xFF, data := d, vi := vi }
/-- A queue of each kind, owned by instance 0, and one of each owned by instance 1. -/
def queued : Block :=
  { up with rin := { vis := [(0, { live := true }), (1, { live := true, gen := 5 })]
                     sqs := [(0, { live := true, k := 4, cq := 0 }), (1, { live := true, vi := 1, k := 4, cq := 1 })]
                     cqs := [(0, { live := true, k := 4, irq := true, group := 63 }), (1, { live := true, vi := 1, k := 4 })] } }
theorem witness_RegisterWrites : ctUp up = true ∧ portCheck (st up).ao up 0x58 (wr 5 0) = none ∧
    portCheck (st up).ao up 0x1120 (wr 5 0) = none ∧ portCheck (st up).ao up 0x40138 (wr 5 1) = none ∧ inMbox 0x40138 = true ∧
    0x40138 % 256 < 0x40 ∧ (up.mbox 1).busy = false ∧ portCheck (st up).ao up 0x4FF60 (wr 1 255) = none ∧
    inMbox 0x4FF60 = true ∧ 0x4FF60 % 256 = 0x60 ∧ wSets (wr 1 255) 0 = true ∧
    ((up.setMbox 1 { busy := true }).mbox 1).busy = true := by decide +kernel
theorem witness_RegisterWrites_doorbell : inBell 0x10000 = true ∧ portCheck (st queued).ao queued 0x10000 { wr 15 0 with strb := 0x0F } = none ∧
    ((wBells { wr 15 0 with strb := 0x0F } 0x10000).findSome? fun e => bellCheck queued e.1 e.2) = none ∧
    firstKind 0x10000 { wr 15 0 with strb := 0x0F } = false ∧
    ((wBells { wr 16 0 with strb := 0x0F } 0x10000).findSome? fun e => bellCheck queued e.1 e.2) = some .bounds ∧
    ((wBells { wr 0x80000000 0 with strb := 0x0F } 0x10000).findSome? fun e => bellCheck queued e.1 e.2) = none ∧
    firstKind 0x10000 { wr 0x80000000 0 with strb := 0x0F } = true := by decide +kernel
theorem witness_AccessRefusedByInstance : portClosed queued 0x3F8 (wr 0 1) = false ∧ (wr 0 1).vi ≠ 0 ∧ 0x3F8 < 0x400 ∧
    portClosed queued 0x1000 (wr 0 1) = false ∧ inPriv 0x1000 = true ∧ portClosed queued 0x80000 (wr 0 1) = false ∧
    inDebug 0x80000 = true ∧ portClosed queued 0x40060 (wr 0 1) = false ∧ inMbox 0x40060 = true ∧ (0x40060 - 0x40000) / 256 ≠ 1 ∧
    portClosed queued 0x10000 { wr 0 1 with strb := 0xF0 } = false ∧ inBell 0x10000 = true ∧
    (wBells { wr 0 0 with strb := 0xF0 } 0x10000 = [(1, 0)]) ∧ (queued.sq 1).vi ≠ 0 := by decide +kernel
theorem witness_MailboxBeforeReady : let b := { up with boot := { stage := 7 } }
    ctUp b = true ∧ readyLocal b = false ∧ errorState b = false ∧ inMbox 0x4FFF8 = true ∧ inPriv 0x1000 = true ∧
    inBell 0x2FFF8 = true ∧ firstKind 0x2FFF8 (wr 0 0) = false ∧ firstKind 0x2FFF8 (wr 0x80000000 0) = true := by decide +kernel
theorem witness_CompletionInterrupt : (queued.cq 0).waiting = [] ∧
    (match writeVa queued 0 clsControl 0 (Cpl.bytes { status := 0, tag := 0, opcode := 1, sq := 0, result := 0, detail := 0, sqHead := 0 } true) with
      | .ok _ => true
      | .error _ => false) = true := by decide +kernel
theorem witness_CompletionInterrupt_create : took (st (withCmd up 0 [(0, 1, 0x12), (24, 1, 4), (26, 1, 63)])) (.mailbox 0) 0x12 (fun b c r =>
    match cmdCqCreate (st up).ao b c r with | (_, .now .ok _ 0) => true | _ => false) = true := by decide +kernel
theorem witness_GlobalAndDebugRegisters : let d : AO := { on := true, fuses := [0], shadow := [0] }
    portCheck (st up).ao up 0x50 (wr 5 0) = none ∧ portCheck (st up).ao up 0x40 (wr 5 0) = none ∧
    portClosed up 0x40 (wr 5 0) = false ∧ portCheck d up 0x80000 (wr 1 0) = none ∧ wSets (wr 1 0) 0 = true ∧
    portCheck d up 0x88008 (wr 1 0) = none ∧ dbgWord up = some 0 ∧
    dbgWord { up with regs := { dbgPaddr := 5 } } = none ∧ wSets (wr 2 0) 1 = true ∧ portCheck d up 0x88008 (wr 2 0) = none ∧
    portCheck d up 0x88100 (wr 1 0) = none ∧ (wr 1 0).strb.getLsbD 0 = true := by decide +kernel
theorem witness_GlobalAndDebugRegisters_locked :
    ({ up with regs := { hostcfg := 0x8000000000000000 } } : Block).regs.hostcfg.getLsbD 63 = true ∧
    ({ up with regs := { dbgUnlocked := true, dbgUntil := some 7 } } : Block).regs.dbgUntil.isSome = true := by decide
/-- OTP_PREC names FW_ROOT_HASH, then LIFECYCLE. -/
def precBlock (code : Word64) : Block := { up with regs := { otpPrec := code } }
theorem witness_OtpProgramming : let a : AO := { on := true, fuses := [0], shadow := [0] }
    portCheck a (precBlock 5) 0x108 (wr 1 0) = none ∧ (precBlock 5).regs.otpBusy = false ∧ wSets (wr 1 0) 0 = true ∧
    (otpCheck a (precBlock 5) (precBlock 5).regs.otpPrec.toNat).toOption.isSome = true ∧
    (otpCheck a (precBlock 15) (precBlock 15).regs.otpPrec.toNat).toOption.isSome = false ∧
    ({ up with regs := { otpJob := some (5, 0, [1]) } } : Block).regs.otpJob = some (5, 0, [1]) := by decide +kernel
theorem witness_PowerStates : ∀ t ∈ [0, 1, 2, 3], let b := { up with power := { state := if t = 0 then 1 else 0 } }
    portCheck (st b).ao b 0x70 (wr (BitVec.ofNat 64 t) 0) = none ∧ (wOver (wr (BitVec.ofNat 64 t) 0) b.power.ctl).toNat % 4 = t ∧
    b.power.busy = none ∧ b.power.state ≠ t ∧ (t ≤ 1 ∨ b.power.state ≠ 3) := by decide +kernel
theorem witness_PowerStates_entry : let b := { up with power := { pending := some 3 } }
    b.power.pending = some 3 ∧ b.power.busy = none ∧ quietFor b 3 = true ∧
    ({ up with power := { busy := some 2 } } : Block).power.busy = some 2 ∧ quietFor { up with power := { busy := some 2 } } 2 = true ∧
    ({ up with power := { busy := some 1 } } : Block).power.deferred = none := by decide +kernel

/-! ### Witnesses: Rinlin commands

A command for VI 0 stands in its mailbox with generation 0; one for VI 1 carries generation 5. -/

/-- Bytes in the memory behind the channel an address steers to. -/
def put (b : Block) (pa : Nat) (d : Bytes) : Block := memWrite b ((channelOf b pa).getD 0) pa d
/-- VI 1 with a root at 0x100000 and one leaf of 512 GiB over local memory, class control, key slot 1. -/
def tenant : Block :=
  let b : Block := { up with
    rin := { vis := [(0, { live := true }), (1, { live := true, gen := 5, root := 0xFFFF000000100000, tpl := { keys := 4 } })] }
    sec := { keys := [(1, { live := true, vi := 1, gen := 5, key := List.replicate 64 1 })], identPub := [1] } }
  put (put b 0x100000 (natLe 8 0xFFFF000000101001)) 0x101000 (natLe 8 (0xFFFF000000000000 + 0x1000 + 0xC0 + 0x18 + 7))
/-- The row takes the command from the mailbox of v, and a test on the block, the bytes and the reply holds. -/
def from0 (b : Block) (op : Nat) (l : List (Nat × Nat × Nat)) (p : Block → Bytes → Reply → Bool) : Bool :=
  took (st (withCmd b 0 ((0, 1, op) :: l))) (.mailbox 0) op p
def from1 (b : Block) (op : Nat) (l : List (Nat × Nat × Nat)) (p : Block → Bytes → Reply → Bool) : Bool :=
  took (st (withCmd b 1 ((0, 1, op) :: (6, 2, 5) :: l))) (.mailbox 1) op p
def okE {ε α : Type} (x : Except ε α) : Bool := match x with | .ok _ => true | .error _ => false

theorem witness_CommandPath : atelierRuns up = true ∧ ((withCmd up 255 [(0, 1, 1)]).mbox 255).busy = true ∧
    ((withCmd up 255 [(0, 1, 1)]).mbox 255).taken = false ∧ rowTakes 1 ((withCmd up 255 [(0, 1, 1)]).mbox 255).cmd = true ∧
    (up.vinst 255).stage = 0 ∧ (replyOf (.mailbox 255) 255 []).path = .mailbox 255 := by decide +kernel
theorem witness_CommandPath_queue : took (st (put (queued.setSq 0 { queued.sq 0 with base := 4096, head := 15 }) (4096 + 64 * 15) [1]))
    (.queue 0) 1 (fun _ _ _ => true) = true := by decide +kernel
theorem witness_CommandChecks_reserved : took (st (withCmd up 0 [(0, 1, 0xFE)])) (.mailbox 0) 1
    (fun _ c _ => !listedOpcodes.contains (fieldAt c 0 1)) = true := by decide +kernel
theorem witness_CommandChecks_refused : from0 up 1 [(6, 2, 1)] (fun b c r => listedOpcodes.contains (fieldAt c 0 1) &&
    check0 b c r .any [] true == some .instanceReset) = true := by decide +kernel
theorem witness_PlainServices_nop : from0 up 1 [] (fun b c r => listedOpcodes.contains (fieldAt c 0 1) && (check0 b c r .any [] true).isNone) = true := by
  decide +kernel
theorem witness_PlainServices_status : from0 up 0x9B [] (fun b c r => (check0 b c r .any [] true).isNone) = true := by decide +kernel
theorem witness_PlainServices_random : from0 up 0x95 [(16, 8, 512), (24, 2, 1)] (fun b c r =>
    (check0 b c r .any [(16, 25)] (decide (1 ≤ fieldAt c 24 2) && decide (fieldAt c 24 2 ≤ 4096))).isNone &&
    okE (writeVa (drbg b (fieldAt c 24 2)).2 r.vi clsControl (fieldAt c 16 8) (drbg b (fieldAt c 24 2)).1)) = true := by decide +kernel
theorem witness_PlainServices_selftest : from0 up 0x90 [] (fun b c r => (check0 b c r .vi0 [] true).isNone) = true := by decide +kernel
theorem witness_PlainServices_telemetry : from0 up 0x70 [(16, 2, 4), (24, 8, 512)] (fun b c r =>
    (check0 b c r .any [(16, 17), (24, 31)] true).isNone && (match telemetry b r.vi (fieldAt c 16 2) with
      | .ok d => okE (writeVa b r.vi clsControl (fieldAt c 24 8) d)
      | .error _ => false)) = true := by decide +kernel
theorem witness_PlainServices_log : from0 up 0x71 [(16, 8, 512), (24, 1, 3)] (fun b c r =>
    (check0 b c r .vi0 [(16, 24)] (decide (fieldAt c 24 1 < 4) &&
        (!bitOf (fieldAt c 24 1) 0 || (fieldAt c 16 8 % 32 == 0 && (localPa b (fieldAt c 16 8)).isSome)))).isNone) = true := by decide +kernel
theorem witness_QueueCommands_create : from0 queued 0x10 [(16, 8, 4096), (24, 1, 16), (26, 2, 0)] (fun b c r =>
    (check0 b c r .any [(16, 27)] (fieldAt c 16 8 % 4096 == 0 && decide (4 ≤ fieldAt c 24 1) &&
        decide (fieldAt c 24 1 ≤ 16) && decide (fieldAt c 25 1 ≤ 1))).isNone &&
    (bindCq b r.vi (fieldAt c 26 2)).isNone && lowestIn b.rin.sqs.keys 32768 == some 2 &&
    decide ((b.rin.sqs.filter fun e => e.2.live && e.2.vi == r.vi).length < quotaOf b r.vi (·.sq) 32768)) = true ∧
  from0 queued 0x12 [(16, 8, 4096), (24, 1, 4), (26, 1, 63)] (fun b c r =>
    (check0 b c r .any [(16, 26)] (fieldAt c 16 8 % 4096 == 0 && decide (4 ≤ fieldAt c 24 1) &&
        decide (fieldAt c 24 1 ≤ 16) && decide (fieldAt c 25 1 ≤ 1) && decide (fieldAt c 26 1 ≤ 63))).isNone &&
    lowestIn b.rin.cqs.keys 4096 == some 2 &&
    decide ((b.rin.cqs.filter fun e => e.2.live && e.2.vi == r.vi).length < quotaOf b r.vi (·.cq) 4096)) = true := by decide +kernel
theorem witness_QueueCommands_destroy :
    from0 queued 0x11 [] (fun b c r => (check b c r .any (sqTarget b r.vi (cmdTarget c)) 0 [] true).isNone) = true ∧
    from0 queued 0x13 [] (fun b c r => (check b c r .any (cqTarget b r.vi (cmdTarget c)) 0 [] true).isNone) = true := by decide +kernel
/-- Trackers 0 to 3 of instance 0 and 9 of instance 1. -/
def tracked : Block :=
  { up with rin := { up.rin with trackers := addTrackers (addTrackers [] 0 4 0 8) 9 1 1 8 } }
theorem witness_TrackersAndBuffers_alloc : from0 tracked 0x14 [(16, 8, 8), (24, 4, 65536)] (fun b c r =>
    (check0 b c r .any [(16, 27)] (fieldAt c 16 8 % 8 == 0 && decide (1 ≤ fieldAt c 24 4) &&
        decide (fieldAt c 24 4 ≤ 65536))).isNone &&
    decide (firstFit (fieldAt c 24 4) (b.rin.trackers.map (·.1)) 0 + fieldAt c 24 4 ≤ trackerSpace) &&
    decide ((b.rin.trackers.filter fun e => e.2.vi == r.vi).length + fieldAt c 24 4 ≤ quotaOf b r.vi (·.trackers) trackerSpace)) = true := by
  decide +kernel
theorem witness_TrackersAndBuffers_free :
    from0 tracked 0x15 [(8, 8, 3), (16, 4, 1)] (fun b c r => cmdGen c == (b.vinst r.vi).gen &&
      (trackerRows b r.vi (cmdTarget c) (fieldAt c 16 4)).isNone && (check b c r .any none 0 [(16, 19)] true).isNone) = true ∧
    from0 tracked 0x15 [(8, 8, 9), (16, 4, 1)] (fun b c r => trackerRows b r.vi (cmdTarget c) (fieldAt c 16 4) == some .notOwner) = true ∧
    from0 tracked 0x15 [(8, 8, 4), (16, 4, 1)] (fun b c r => trackerRows b r.vi (cmdTarget c) (fieldAt c 16 4) == some .doubleFree) = true := by
  decide +kernel
/-- Buffer 0 of four units, a ring of instance 0. -/
def pooled : Block := up.setPslot 0 { alloc := true, count := 1, units := 4, use := 2, epoch := 3 }
theorem witness_TrackersAndBuffers_pool :
    from0 pooled 0x40 [(16, 2, 1), (18, 1, 0xFF), (19, 1, 2)] (fun b c r =>
      (check0 b c r .any [(16, 19)] (decide (1 ≤ fieldAt c 16 2) &&
        (decide (fieldAt c 18 1 ≤ 4) || fieldAt c 18 1 == 0xFF) && decide (fieldAt c 19 1 ≤ 2))).isNone &&
      ((((if fieldAt c 18 1 = 0xFF then [0, 1, 2, 3, 4] else [fieldAt c 18 1]).filterMap fun q =>
        fitIn b q (fieldAt c 16 2)).head?) == some 4) &&
      decide (unitsOf b r.vi + fieldAt c 16 2 ≤ quotaOf b r.vi (·.palette) poolUnits)) = true ∧
    from0 pooled 0x41 [(2, 1, 3), (8, 8, 65536)] (fun b c r => decide (cmdTarget c < 2 ^ 32) && (poolRows b r.vi (cmdTarget c)).isNone &&
      (check b c r .any none (if (b.pslot (cmdTarget c % 65536)).use = 2 then (b.pslot (cmdTarget c % 65536)).epoch else 0) [] true).isNone) = true ∧
    from0 pooled 0x41 [(8, 8, 7)] (fun b c r => cmdGen c == (b.vinst r.vi).gen && poolRows b r.vi (cmdTarget c) == some .doubleFree) = true := by
  decide +kernel
/-- A descriptor of 64 bytes of UINT8, strided, at 0x10000. -/
def descriptor : Bytes :=
  bytes 128 [(0, 8, 0x10000), (8, 8, 0x10000), (16, 8, 64), (24, 4, 64), (28, 4, 1), (32, 4, 1), (36, 4, 1), (40, 4, 1), (44, 6, 1),
    (74, 2, 0x20), (93, 1, 1)]
theorem witness_CanvasesAndStreams_create : from0 (put up 0x2000 descriptor) 0x20 [(16, 8, 0x2000)] (fun b c r =>
    (check0 b c r .any [(16, 23)] (fieldAt c 16 8 % 8 == 0)).isNone &&
    (match readVa b r.vi clsControl (fieldAt c 16 8) 128 with
      | .ok d => okE (validateCanvas b r.vi d)
      | .error _ => false) && (pickSlot b).isSome &&
    decide (canvasesOf b r.vi < quotaOf b r.vi (·.canvases) 16384)) = true := by decide +kernel
/-- Slot 16383 holds a canvas of instance 0. -/
def canvased : Block := up.setSlot 16383 { used := true, canvas := { e := [64, 1, 1, 1, 1], s := [1, 0, 0, 0, 0], cls := 1 } }
theorem witness_CanvasesAndStreams_handle : let h := handleOf canvased 16383
    from0 canvased 0x21 [(8, 8, h)] (fun b c r => (check b c r .any (handleTarget b r.vi (cmdTarget c)) 0 [] true).isNone) = true ∧
    from0 canvased 0x80 [(16, 1, 7), (17, 1, 1), (24, 8, h)] (fun b c r =>
      (check0 b c r .any [(16, 17), (24, 31)] (decide (fieldAt c 16 1 < 8) && decide (fieldAt c 17 1 ≤ 1))).isNone &&
      (handleTarget b r.vi (fieldAt c 24 8)).isNone && decide ((b.sport (fieldAt c 16 1)).openNos.length < 4096)) = true := by decide +kernel
theorem witness_CanvasesAndStreams_close : from0 streaming 0x81 [(8, 8, 1 + 9 * 65536)] (fun b c r =>
    (check b c r .any (streamTarget b r.vi (cmdTarget c)) 0 [] true).isNone) = true := by decide +kernel
/-- Every context of quadrant 3 bound. -/
def bound : Block := { up with ctxs := (List.range 64).map fun i => (192 + i, { st := .running }) }
theorem witness_ProgramsBound : from0 bound 0x30 [(16, 8, 4096), (24, 1, 1), (26, 1, 0xFF)] (fun b c r =>
    (check0 b c r .any [(16, 26)] (fieldAt c 16 8 % 32 == 0 && decide (1 ≤ fieldAt c 24 1) &&
        decide (fieldAt c 25 1 < 32) && (decide (fieldAt c 26 1 ≤ 3) || fieldAt c 26 1 == 0xFF))).isNone &&
    placeCtx b r.vi (fieldAt c 26 1) == .at 0 && placeCtx b r.vi 3 == .full) = true ∧
    (match placeCtx { up with flt := { units := (List.range 64).map fun l => (healthKey .lane l, { state := .fenced }) } } 0 3 with
      | .fenced => true | _ => false) = true := by decide +kernel
/-- Two stage records over the ring in buffer 0. -/
def stages : Bytes := bytes 64 [(0, 8, 4096), (8, 1, 1), (10, 1, 0xFF), (12, 4, 65536), (16, 1, 3), (17, 1, 12), (18, 2, 4),
  (32, 8, 8192), (40, 1, 1), (42, 1, 0xFF)]
theorem witness_ProgramsBound_chain : from0 (put pooled 0x2000 stages) 0x31 [(16, 8, 0x2000), (24, 1, 2)] (fun b c r =>
    (check0 b c r .any [(16, 24)] (decide (2 ≤ fieldAt c 24 1) && decide (fieldAt c 24 1 ≤ 8))).isNone &&
    (match readVa b r.vi clsControl (fieldAt c 16 8) (32 * fieldAt c 24 1) with
      | .ok d => (checkStages b r.vi (stageRecs (fieldAt c 24 1) d)).isNone &&
        (match bindStages (lowestFree b.chains.keys 0) r.vi 0 (stageRecs (fieldAt c 24 1) d) b [] with
          | (b1, .ok cs) => okE (writeStages r.vi (fieldAt c 16 8) 0 cs b1)
          | _ => false)
      | .error _ => false)) = true := by decide +kernel
theorem witness_ContextCommands : let b := (up.setCtx 255 { st := .halted, epoch := 7 })
    from0 b 0x32 [(2, 1, 7), (8, 8, 255)] (fun b c r =>
      (check b c r .any (ctxTarget b r.vi (cmdTarget c)) (b.ctx (cmdTarget c)).epoch [] ((b.ctx (cmdTarget c)).st == .halted)).isNone &&
      (b.ctx (cmdTarget c)).execs == []) = true ∧
    from0 b 0x33 [(2, 1, 7), (8, 8, 255)] (fun b c r =>
      (check b c r .any (ctxTarget b r.vi (cmdTarget c)) (b.ctx (cmdTarget c)).epoch [] true).isNone) = true ∧
    from0 b 0x34 [(2, 1, 7), (8, 8, 255), (16, 8, 512)] (fun b c r =>
      (check b c r .any (ctxTarget b r.vi (cmdTarget c)) (b.ctx (cmdTarget c)).epoch [(16, 23)] true).isNone &&
      okE (writeVa b r.vi clsControl (fieldAt c 16 8) (inspectRec (b.ctx (cmdTarget c)) (currentIns b (cmdTarget c))))) = true := by
  decide +kernel
/-- A setup image settles one template. -/
def templated : Block := { up with setup := { templates := [{ sq := 4 }] } }
theorem witness_InstanceCommands :
    from0 templated 0x50 [(8, 8, 255), (24, 8, 0xFFFF000000000800)] (fun b c r => inService (st up).ao && decide (cmdTarget c ≠ 0) &&
      !(b.vinst (cmdTarget c)).live && (check b c r .vi0 none 0 [(16, 16), (24, 31)] (decide (cmdTarget c < 256) &&
        decide (fieldAt c 16 1 < b.setup.templates.length) && fieldAt c 24 8 % 2048 == 0 &&
        bitsOf (fieldAt c 24 8) 63 48 == 0xFFFF)).isNone) = true ∧
    from0 up 0x51 [(8, 8, 1)] (fun b c r => (check b c r .vi0 (viTarget b (cmdTarget c)) 0 [] true).isNone &&
      decide ((b.vinst (cmdTarget c)).stage = 0)) = true ∧
    from0 (up.setVinst 1 { live := true, gen := 5, stage := 3 }) 0x51 [(8, 8, 1)] (fun b c r =>
      (check b c r .vi0 (viTarget b (cmdTarget c)) 0 [] true).isNone && decide ((b.vinst (cmdTarget c)).stage ≠ 0)) = true ∧
    from0 up 0x52 [(8, 8, 1)] (fun b c r => (check b c r .vi0 (viTarget b (cmdTarget c)) 0 [] true).isNone) = true := by decide +kernel
/-- The privileged mailbox holds a command whose taking satisfies a test. -/
def fromP (a : AO) (b : Block) (op : Nat) (l : List (Nat × Nat × Nat)) (p : Block → Bytes → Reply → Bool) : Bool :=
  took { st (withCmd b 256 ((0, 1, op) :: l)) with ao := a } .privileged op fun b c r => r.path == .privileged && p b c r
theorem witness_OfficerServices_effects : let a := (st up).ao
    fromP a up 0x97 [] (fun b c r => (check0 (newNonce b 1) c r .vi0 [] true).isNone) = true ∧
    fromP a up 0x98 [(16, 1, 5)] (fun b c r =>
      (check0 (newNonce b 1) c r .vi0 [(16, 16)] ((advances (lifeCycle a)).contains (fieldAt c 16 1))).isNone &&
      (decide (lifeCycle a ≠ 1) || decide (fieldAt c 16 1 ≠ 2))) = true ∧
    fromP a { up with boot := { stage := 8, fwVersion := 128 } } 0x99 [(16, 4, 128)] (fun b c r =>
      (check0 (newNonce b 1) c r .vi0 [(16, 19)] (decide (fieldAt c 16 4 ≤ b.boot.fwVersion) && decide (fieldAt c 16 4 ≤ 128))).isNone) = true := by
  decide +kernel
theorem witness_OfficerServices_setup : fromP (st up).ao up 0x60 [(16, 8, 0x1000), (24, 4, 4736)] (fun b c r =>
    (check0 (newNonce b 1) c r .vi0 [(16, 27)] (decide (4736 ≤ fieldAt c 24 4) && decide (fieldAt c 24 4 ≤ 4194304))).isNone &&
    okE (readPa (newNonce b 1) (fieldAt c 16 8) (fieldAt c 24 4)) && (newNonce b 1).boot.active == none) = true := by decide +kernel
theorem witness_OfficerServices_slot : channelOf up (slotBase 0) = some 4 ∧ chanStatus up 256 4 (slotBase 0 / 256) = none ∧
    domStatus up 4 (slotBase 0) = none ∧ (slotReadBack up (slotBase 0) 4736).isNone = true := by decide +kernel
/-- A deployed part whose DEBUG_POLICY generation 0 allows an unlock for 7 seconds: record 0xA programmed. -/
def policyAo : AO :=
  let d := bytes 48 [(32, 2, 7), (34, 1, 3)]
  match otpRecord 0xA with
  | some (w, n, body) =>
    let l := 0 :: 1 :: 2 :: bitsFrom w (chunksLe 4 (n - 1) (d.take body) ++ [Crypto.crc32 (d.take body)])
    { on := true, fuses := l, shadow := l, inUse := l }
  | none => {}
theorem witness_OfficerServices_unlock : (otpBody policyAo 0xA).isSome = true ∧
    took { st (withCmd up 0 [(0, 1, 0x9A)]) with ao := policyAo } (.mailbox 0) 0x9A (fun b c r => r.vi == 0 &&
      (match otpBody policyAo 0xA with
        | some p => unlockAllowed policyAo (newNonce b 2) p
        | none => false) && (check0 (newNonce b 2) c r .vi0 [] true).isNone) = true := by decide +kernel
theorem witness_KeysAndIdentity_keys :
    from1 tenant 0x92 [] (fun b c r => (check0 b c r .tenant [] true).isNone && freeKey b r.vi == some 2) = true ∧
    from1 tenant 0x93 [(16, 8, 0x2000)] (fun b c r => (check0 b c r .tenant [(16, 23)] true).isNone && (freeKey b r.vi).isSome &&
      okE (readVa b r.vi clsControl (fieldAt c 16 8) 1648)) = true ∧
    from1 tenant 0x94 [(8, 8, 1)] (fun b c r => (check b c r .tenant (keyTarget b r.vi (cmdTarget c)) 0 [] true).isNone) = true := by
  decide +kernel
theorem witness_KeysAndIdentity_certificate :
    from0 (put tenant 0x2004 [0xFF, 0xFF]) 0x96 [(16, 8, 0x2000)] (fun b c r => (check0 b c r .vi0 [(16, 23)] true).isNone &&
      (match readVa b r.vi clsControl (fieldAt c 16 8) 4675 with
        | .ok d => fieldAt d 4 2 == b.setup.chipId && b.sec.identPub != []
        | .error _ => false)) = true := by decide +kernel
theorem witness_KeysAndIdentity_attest : inService (st up).ao = true ∧ from0 up 0x91 [(48, 8, 0x2000)] (fun b c r =>
    (check0 b c r .any [(16, 55)] true).isNone) = true := by decide +kernel

/-! ### Witnesses: channel programs -/

/-- Two canvases of 64 bytes of UINT8 and a flag canvas of 4 words, and context 255 of instance 0 before an instruction. -/
def programmed (i : Bytes) (x : Ctx) : Block :=
  let cv : Canvas := { base := 0x10000, allocBase := 0x10000, allocLen := 64, e := [64, 1, 1, 1, 1], s := [1, 0, 0, 0, 0], cls := 1 }
  let b := up.setSlot 0 { used := true, canvas := cv }
  let b := b.setSlot 1 { used := true, canvas := { cv with base := 0x20000, allocBase := 0x20000, writable := true } }
  let b := b.setSlot 2 { used := true, canvas := { cv with
    base := 0x30000, allocBase := 0x30000, e := [4, 1, 1, 1, 1], s := [8, 0, 0, 0, 0], type := 6, cls := 5, writable := true } }
  b.setCtx 255 { x with st := .running, pc := 4096, ibuf := [(4096, i)] }
/-- The handles of slots 0, 1 and 2 under the empty handle key. -/
def h0 : Nat := 4657417733197791232
def h1 : Nat := 5722906291661307905
def h2 : Nat := 18400530743608934402
/-- Whether context 255 may begin the instruction it holds. -/
def steps (i : Bytes) (x : Ctx) : Bool :=
  canStep (programmed i x) 255 && (match fetchInstr (programmed i x) 255 with | (_, .ok j) => j == i | _ => false)
def move : Bytes := bytes 32 [(0, 1, 1), (4, 4, 0xFFFFFFFF), (8, 8, h0), (16, 8, h1)]
theorem witness_DataInstructions : steps move {} = true ∧ dataLegal move = true ∧ skipped {} move = false ∧
    (match planExec (programmed move {}) 255 move [] 0 4096 with
      | (b, .ok e) => !footBlocked (b.ctx 255) e && !e.units.isEmpty
      | _ => false) = true := by decide +kernel
theorem witness_DataInstructions_other : ∀ op ∈ [1, 2, 3, 4, 5, 6, 7, 8, 9], steps (bytes 32 [(0, 1, op), (1, 1, 3)]) {} = true ∧
    dataLegal (bytes 32 [(0, 1, op), (1, 1, 3)]) = true ∧ skipped {} (bytes 32 [(0, 1, op), (1, 1, 3)]) = true ∧
    steps (bytes 32 [(0, 1, op), (1, 1, 128)]) {} = true ∧ dataLegal (bytes 32 [(0, 1, op), (1, 1, 128)]) = false := by decide +kernel
theorem witness_Loops : ∀ n ∈ [0, 1, 2 ^ 32 - 1], let i := bytes 32 [(0, 1, 0x10), (4, 4, n), (8, 4, 2 ^ 32 - 1)]
    steps i {} = true ∧ fieldAt i 0 1 = 0x10 ∧ zeros i 1 3 = true ∧ zeros i 12 31 = true ∧ 0 < fieldAt i 8 4 ∧ fieldAt i 4 4 = n := by
  decide +kernel
theorem witness_Loops_end : ∀ n ∈ [0, 1, 2], let x : Ctx := { loops := [{ start := 0, stop := 4096, left := n, it := 2 ^ 32 - 1 }] }
    let i := bytes 32 [(0, 1, 0x11)]
    steps i x = true ∧ zeros i 1 31 = true ∧ steps i {} = true ∧
    ((programmed i x).ctx 255).loops.getLast? = some { start := 0, stop := 4096, left := n, it := 2 ^ 32 - 1 } ∧
    ((programmed i x).ctx 255).pc = 4096 := by decide +kernel
def waitFlag (v : Nat) : Bytes := bytes 32 [(0, 1, 0x12), (8, 8, h2), (16, 4, 3), (24, 8, v)]
theorem witness_Waits_flag : steps (waitFlag 0) {} = true ∧ waitLegal (waitFlag 0) = true ∧
    skipped ((programmed (waitFlag 0) {}).ctx 255) (waitFlag 0) = false ∧
    (let b := programmed (waitFlag 0) {}
     match flagElem b (b.ctx 255) (waitFlag 0) false with
      | .ok (cv, j) => !flagBlocked (b.ctx 255) (elemVa cv j) (bytesOf cv.type) &&
        (match (readFlag b 255 cv.cached (elemVa cv j) (bytesOf cv.type)).2 with | .pending => true | _ => false)
      | .error _ => false) = true := by decide +kernel
theorem witness_Waits_others : ∀ l ∈ [48, 63], let i := bytes 32 [(0, 1, 0x12), (2, 1, 1), (16, 1, l)]
    steps i {} = true ∧ waitLegal i = true ∧ 16 * quadOfCtx 255 ≤ fieldAt i 16 1 ∧ fieldAt i 16 1 ≤ 16 * quadOfCtx 255 + 15 := by decide +kernel
def waitLevel : Bytes := bytes 32 [(0, 1, 0x12), (2, 1, 2), (16, 2, 32767), (21, 1, 1), (24, 2, 15), (26, 2, 1)]
/-- Queue 32767 is a DIRECT queue of instance 0 with a full ring. -/
def direct (b : Block) : Block := b.setSq 32767 { live := true, k := 4, direct := true, fill := 15 }
theorem witness_Waits_level : let b := direct (programmed waitLevel {})
    canStep b 255 = true ∧ waitLegal waitLevel = true ∧ (b.sq 32767).usable = true ∧ (b.sq 32767).direct = true ∧
    (b.sq 32767).vi = (b.ctx 255).vi ∧ 0 < fieldAt waitLevel 21 1 ∧ fieldAt waitLevel 21 1 ≤ fieldAt waitLevel 26 2 ∧
    fieldAt waitLevel 26 2 ≤ fieldAt waitLevel 24 2 ∧ fieldAt waitLevel 24 2 ≤ (b.sq 32767).size - 1 := by decide +kernel
/-- Context 255 waits. -/
def waits (w : WaitFor) (x : Ctx) : Block := direct (up.setCtx 255 { x with st := .waiting, wait := some w, timeout := 1 })
theorem witness_Waits_end : canWake (waits (.line 63) {}) 255 = true ∧ lineBusy (waits (.line 63) {}) 255 63 = false ∧
    (levelStep (waits (.level 32767 1 15 1) {}) 255 32767 1 15 1).2 = true ∧ canWake (waits (.level 32767 1 15 1) {}) 255 = true ∧
    ((waits (.line 63) {}).ctx 255).timeout ≠ 0 := by decide +kernel
theorem witness_Waits_poll : ∀ va ∈ [0x30000, windowBase], let b := (waits (.flag va 8 0 0 false) {}).setPslot 0 { alloc := true, units := 1 }
    canWake b 255 = true ∧ flagWatched b (b.ctx 255).vi va = decide (va = windowBase) ∧
    (match readFlag b 255 false va 8 with
      | (_, .pending) => true
      | _ => false) = true ∧ (b.ctx 255).load = none := by decide +kernel
/-- A flag word in a cached line. -/
theorem witness_Waits_cached : let b := waits (.flag 0x30000 8 0 0 true) {}
    let b : Block := { b with pal := { b.pal with lines := [(0x300, { buf := 0, pos := 0, vi := 0, ksel := 0 })] } }
    canWake b 255 = true ∧ flagWatched b (b.ctx 255).vi 0x30000 = false ∧
    (match readFlag b 255 true 0x30000 8 with | (_, .pending) => true | _ => false) = true := by decide +kernel
theorem witness_Waits_collective :
    let b := (({ up with setup := { groups := [{ lo := 0x30000, hi := 0x3FFFF }] } } : Block).setCtx 255
      { st := .waiting, wait := some (.flag 0x30000 8 0 1 false), groups := [(0, 0)], timeout := 1 })
    canWake b 255 = true ∧ waitGroup b 255 = some 0 ∧ (b.setup.groups[0]?).isSome = true := by decide +kernel
/-- SIGNAL of kind k with the flags byte f. -/
def signal (k f : Nat) : Bytes :=
  bytes 32 [(0, 1, 0x13), (1, 1, f), (2, 1, k), (8, 8, if k = 0 then h2 else if k = 2 then h1 else 0), (16, 4, if k = 1 then 3 else 0), (24, 8, 1)]
theorem witness_SignalsAndDrains : ∀ k ∈ [0, 1, 2], ∀ f ∈ [0, 4],
    let b : Block := { programmed (signal k f) {} with rin := tracked.rin }
    canStep b 255 = true ∧ signalLegal (signal k f) = true ∧ skipped (b.ctx 255) (signal k f) = false ∧
    bitOf (fieldAt (signal k f) 1 1) 2 = decide (f = 4) ∧ writesHeld (b.ctx 255) = false ∧
    (match signalAct b (b.ctx 255) (signal k f) with
      | .ok act => !actBlocked (b.ctx 255) act && (match doSignal b 255 act with | .go _ => true | _ => false)
      | .error _ => false) = true := by decide +kernel
theorem witness_SignalsAndDrains_end : steps (bytes 32 [(0, 1, 0x1F)]) {} = true ∧ zeros (bytes 32 [(0, 1, 0x1F)]) 1 31 = true := by decide +kernel
theorem witness_SignalsAndDrains_complete :
    let b := up.setCtx 255 { st := .running, drain := some { act := none, readbacks := false } }
    quadUp b (quadOfCtx 255) = true ∧ (b.ctx 255).halting = none ∧ (b.ctx 255).aborting = false ∧ drained b 255 = true ∧
    viFree b (b.ctx 255).vi = true ∧ (b.ctx 255).lastW = [] ∧ ctxAccs b 255 = [] ∧
    (match doSignal (programmed [] {}) 255 (.shift 1 (up.slot 1).uses true 0) with | .go _ => true | _ => false) = true := by decide +kernel
theorem witness_FencesAndOthers_fence : ∀ q ∈ [0, 7], let i := bytes 32 [(0, 1, 0x14), (2, 1, q)]
    steps i {} = true ∧ (zeros i 1 1 && decide (fieldAt i 2 1 < 8) && zeros i 3 31) = true ∧
    ((programmed i {}).ctx 255).fence = none := by decide +kernel
theorem witness_FencesAndOthers_flush : let i := bytes 32 [(0, 1, 0x15), (2, 1, 1), (8, 8, h1)]
    steps i {} = true ∧ (fieldAt i 1 1 / 4 == 0 && decide (fieldAt i 2 1 < 2) && zeros i 3 7 && zeros i 16 31) = true ∧
    (checkHandle (programmed i {}) 0 (fieldAt i 8 8)).toOption = some 1 ∧
    ((programmed i {}).slot 1).canvas.cached = false ∧ writesHeld ((programmed i {}).ctx 255) = false := by decide +kernel
theorem witness_FencesAndOthers_flushCached : let b := programmed [] {}
    let c := b.setSlot 1 { b.slot 1 with canvas := { (b.slot 1).canvas with cached := true } }
    (c.slot 1).canvas.cached = true ∧
    ((linesUnder c (c.ctx 255).vi (c.slot 1).canvas).any fun e => e.2.writing || e.2.filling) = false := by decide +kernel
theorem witness_FencesAndOthers_pred : ∀ k ∈ [0, 3], let i := bytes 32 [(0, 1, 0x16), (2, 1, k), (8, 8, h2), (16, 4, 3)]
    steps i {} = true ∧ (zeros i 1 1 && decide (fieldAt i 2 1 < 4) && zeros i 3 7 && zeros i 21 23) = true := by decide +kernel
theorem witness_FencesAndOthers_chain : let i := bytes 32 [(0, 1, 0x17), (1, 1, 1)]
    let b := (programmed i { chain := some (0, 0) }).setChain 0 { live := true, rings := [{ buf := 0, slotLog := 12, count := 4, cur := [1] }] }
    canStep b 255 = true ∧ (decide (fieldAt i 1 1 < 2) && zeros i 2 31) = true ∧ (b.ctx 255).execs = [] ∧
    downRing b (b.ctx 255) = some (0, 0, { buf := 0, slotLog := 12, count := 4, cur := [1] }) := by decide +kernel
theorem witness_FencesAndOthers_complete : let f : Fence := { seq := 0, rd := true, wr := true, sc := true }
    let b := up.setCtx 255 { st := .running, fence := some f }
    canIssue b 255 = true ∧ fenceHolds b 255 f = true := by decide +kernel

/-- Context 0 runs an execution with one unit of the phase given. -/
def oneUnit (p : UnitPhase) (x : Ctx) : Block :=
  up.setCtx 0 { x with execs := [{ streamExec with units := [{ n := 0, firstBurst := 0, nBursts := 1, elems := [], phase := p }] }] }
theorem witness_UnitsAndHalts : quadUp (oneUnit .waiting { st := .running }) 0 = true ∧
    quadFenced (oneUnit .waiting { st := .running }) 0 = false ∧
    (let b := { oneUnit .waiting { st := .running } with sports := [(1, { ready := true, openNos := [(9, streamNo)] })] }
     match nextAdmitted (refresh b 0) 0 with | some (c, _, u, l) => c == 0 && u.n == 0 && l == 0 | none => false) = true ∧
    quadFenced { up with flt := { units := (List.range 64).map fun l => (healthKey .lane l, { state := .fenced }) } } 3 = true := by decide +kernel
theorem witness_UnitsAndHalts_ring :
    let e : Exec := { streamExec with
      ins := bytes 32 [(0, 1, 1), (2, 1, 0x80)], dnum := 0
      units := [{ n := 0, firstBurst := 0, nBursts := 1, elems := [], phase := .waiting }] }
    let b := (up.setCtx 0 { st := .waiting, wait := some .ring, execs := [e], chain := some (0, 0) }).setChain 0
      { live := true, rings := [{ buf := 0, slotLog := 12, count := 4 }] }
    canIssue b 0 = true ∧ ((b.ctx 0).execs.any fun e => match nextUnit b e with
      | some u => (e.kindS == 2 || e.kindD == 2) && sideReady b 0 e u
      | none => false) = true := by decide +kernel
theorem witness_UnitsAndHalts_commit : let b := oneUnit .writing { st := .running }
    (match b.exec? 0 2 with
      | some e => !e.stopped && (match e.unit? 0 with | some u => delivered b 0 e u | none => false)
      | none => false) = true := by decide +kernel
theorem witness_UnitsAndHalts_halt : halted (up.setCtx 255 { st := .running, halting := some (.bounds, 0) }) 255 = true := by decide +kernel
theorem witness_GrantsAndWindows : islandUp up 28 = true ∧ quadUp up 3 = true ∧ islandUp up 36 = true ∧
    ((up.arbAt (arbPal 4)).unmark [3, 1, 2]).choose (fun _ => 128) [3, 1, 2] = some 1 ∧ islandUp up 3 = true ∧ up.power.state ≤ 1 := by decide +kernel
/-- A beat and a half of context 5 wait at hop 7 for channel 3, and a beat of it on its last. -/
def hopped (n : Nat) (path : List Nat) : Block :=
  { up.setCtx 5 { st := .running, weight := 255 } with
    ring := [(7, [{ req := 5, path := path, beats := n, size := 2, load := .write { acc with write := true } }])] }
theorem witness_GrantsAndWindows_ring :
    (((hopped 2 []).arbAt (arbRing 7)).unmark (hopWaiting (hopped 2 []) 7)).choose (weightOf (hopped 2 []))
      (hopWaiting (hopped 2 []) 7) = some 5 ∧
    hopItems (hopped 2 []) 7 = [{ req := 5, path := [], beats := 2, size := 2, load := .write { acc with write := true } }] ∧
    (hopItems (hopped 1 [0]) 7).map (·.path) = [[0]] := by decide +kernel
/-- A walk of instance 1 that context 255 waits on. -/
def walking (d : Bool) (f : Option Found) : Block :=
  { tenant.setCtx 255 { st := .running, vi := 1, gen := 5, walk := some 7 } with
    xl := { walks := [(7, { vi := 1, gen := 5, va := 4096, waiters := [.burst 255 0 4096], discard := d, level := 3, found := f })], nextWalk := 8 } }
theorem witness_WalksEnd : (walkAt (walking true none) 7).map (·.found) = some none ∧
    (walkAt (walking true (some (.leaf 7 3))) 7).map (·.discard) = some true ∧
    (walkAt (walking false (some (.leaf 7 3))) 7).map (·.gen) = some ((walking false none).vinst 1).gen ∧
    (walkAt (walking false (some (.fail .xlateFault))) 7).map (·.found) = some (some (.fail .xlateFault)) ∧
    entryAt 3 0xFFFF000000101001 = .table 0xFFFF000000101000 ∧ entryAt 3 0 = .found (.fail .xlateFault) := by decide +kernel

/-! ### Witnesses: faults, tamper, maintenance -/

def pin : Pin := { src := 63, unit := 0, status := 0, vi := 256, ctx := 256, detail := 0 }
theorem witness_Detections : let b := { up with flt := { pins := [pin] } }
    ctUp b = true ∧ b.flt.pins = [pin] ∧ severityOf { up with setup := { severities := List.replicate 64 0 } } 0 = 0 ∧
    severityOf up 61 = 1 ∧ ((up.setHealth .region 5 { state := .fault }).health .region 5).state = .fault ∧
    (up.health .region 5).state ≠ .fault ∧ (st up).b.ev = [] := by decide +kernel
/-- R429: a fenced lane's digest event only counts; a channel that is in service is no fenced unit. -/
theorem witness_Detections_fenced :
    let b := up.setHealth .lane 21 { state := .fenced }
    chargedUnit 15 21 = some (.lane, 21) ∧ b.isFenced .lane 21 = true ∧ b.isFenced .channel 23 = false ∧
    chargedUnit 40 23 = some (.channel, 23) ∧ severityOf b 40 = 1 := by decide +kernel
/-- R361: a mark stays while its requester waits, and goes with it. -/
theorem test_unmark : let a : Arb := { reqs := [(3, { bound := true, ctr := 5, marked := true })] }
    ((a.unmark [3]).reqs.get {} 3).marked = true ∧ ((a.unmark [2]).reqs.get {} 3).marked = false := by decide
/-- R459: after 1,023 full groups one slot is left for an IDLE flit. -/
theorem test_idle_slot :
    let l : Link := { staged := List.replicate 4 idleFlit, busyGroups := 1023, sess := { established := true, secret := [1] } }
    mgmtNext l = none ∧ l.sendsKeyed = true ∧ (newGroup {} up l).staged.length = 1 ∧ (newGroup {} up l).busyGroups = 0 ∧
    (newGroup {} up { l with busyGroups := 1022 }).busyGroups = 1023 := by decide +kernel
/-- R310: what is written into a line during its write-back stays dirty there. -/
theorem test_line_newer :
    let b : Block := { up with pal := { lines := [(7, { buf := 0, pos := 0, vi := 0, ksel := 0, dirty := true, writing := true, newer := true })] } }
    (writebackDone b { acc with gran := 7 }).pal.lines.map (fun e => (e.2.dirty, e.2.writing, e.2.newer)) = [(true, false, false)] := by
  decide +kernel
def record (s : Nat) : Rec :=
  { time := 0, src := s, kind := 1, sev := 2, unit := 0, status := 0, vi := 0, ctx := 0, pending := 0, detail := 0, lost := [] }
theorem witness_RecordQueueBounded : ({ queue := List.replicate 64 (record 1) } : Faults).queue.length = 64 := by decide +kernel
theorem witness_RecordsWritten : ∀ on ∈ [false, true], let f : Faults := { queue := [record 63], ringOn := on, ringPa := 4096 }
    ctUp { up with flt := f } = true ∧ (match popRecord (st up).ao f with
      | some (r, n, g) => n == 1 && g.ringOn == on && !g.traceOn && (!on || okE (ringWrite { up with flt := g } (r.bytes n)))
      | none => false) = true := by decide +kernel
theorem witness_TamperAndDetectors : (st up).ao.on = true ∧ up.boot.stage ≠ 0xE ∧ up.power.state ≠ 3 ∧ up.regs.otpJob = none ∧
    up.islands.lost.get false 37 = false ∧ otpLowest (st up).ao.fuses 1 8 = some 32 := by decide +kernel
theorem witness_Maintenance_scrub : quadUp up 3 = true ∧ bankUnits * 64 - 1 < bankUnits * 64 ∧
    up.pal.badWords.contains (regionFirst 3 * 64 + (bankUnits * 64 - 1)) = false := by decide +kernel
theorem witness_Maintenance_cross : quadOfLane 62 = quadOfLane 63 ∧ idleLane up 62 = true ∧ idleLane up 63 = true ∧
    up.flt.cross.get none (quadOfLane 62) = none ∧ (setCross up 3 (some (62, 63, 1, 2))).flt.cross.get none 3 = some (62, 63, 1, 2) ∧
    quadOfLane 48 = 3 ∧ idleLane (setCross up 3 (some (62, 63, 1, 2))) 48 = true := by decide +kernel
theorem witness_TimersAndBounds : (heartbeat up (.channel 23)).2 = true ∧ (heartbeat up (.stream 7)).2 = true ∧
    (heartbeat (linked ready) (.link 7)).2 = true ∧
    2 ^ 20 ≤ ({ up with sec := { drbgOn := true, drbgCount := 2 ^ 20 } } : Block).sec.drbgCount ∧
    boundRuns (up.setVinst 1 { live := true, gen := 5, stage := 2 }) (.vi 1) = true := by decide +kernel

/-! ### Witnesses: the other clauses of the statements -/

theorem witness_CommandPath_finish : jobOpen up up.rin.nextJob = false := by decide +kernel
theorem witness_QueueCommands_kill : ((direct up).sq 32767).direct = true ∧ (queued.sq 0).head = (queued.sq 0).tail := by
  decide +kernel
theorem witness_StreamBeats_clauses : (let o : OutBeat := { beat := beat 1 0 false, ctx := 5, seq := 2 }
      o.last = false ∧ ({ o with last := true, beat := { o.beat with eoc := true } } : OutBeat).beat.eoc = true ∧
      eocOpen up 5 = false) ∧
    beatFault streamNo { beat 1 0 false with layout := 1 } = some .badType ∧
    beatFault streamNo { beat 1 0 false with par := [] } = some .parity ∧
    laneWaits streaming 5 { streamExec with units := [] } = false ∧ consumer up 1 9 = none := by decide +kernel
theorem witness_LinkGoesDown_ring : (ringGiveBack (linked ready) 7).1 = [] := by decide +kernel
/-- Port 7 encodes for context 255: a block with a write, or none. -/
def encoding (l : List Acc) : Block :=
  linked { ready with encoder := some { ctx := 255, seq := 0, chip := 2, chips := [(2, false)], ends := [], cbits := 8, codebook := []
                                        addr := 0, data := [], accs := l } }
theorem witness_FlitGroupSent_block : (((encoding [acc]).link 7).encoder.map (·.accs)) = some [acc] ∧
    (((encoding []).link 7).encoder.map (·.accs)) = some [] ∧ ((linked ready).link 7).encoder = none ∧
    mgmtNext ready = none := by decide +kernel
theorem witness_RemoteMemory_item : bitOf (flit opWrite 256 full).aux 8 = true ∧
    remoteCheck (received []) (flit opWrite 256 full) 0 0 1024 256 = none ∧
    (remoteCheck (received []) (flit opWrite 256 full) 9 0 1024 256).isSome = true := by decide +kernel
theorem witness_RecordsAndAnswers_waits : swatchWaits (received [flit opSwatch 0 (bytes 16 [(8, 2, 3)])]) 7 = false := by decide +kernel
theorem witness_CompletionInterrupt_clauses : ctUp up = true ∧ ctUp State.reset.b = false ∧ (openReqs up) = [] ∧
    (let b := queued.setCq 0 { queued.cq 0 with out := true }
     (b.cq 0).live = true ∧ (b.cq 0).out = true ∧ (b.cq 0).waiting = []) := by decide +kernel
theorem witness_GlobalAndDebugRegisters_bad : let b := { up with pal := { badWords := [0] } }
    dbgWord b = some 0 ∧ badIn b 0 64 = true ∧ badIn up 0 64 = false ∧ 5 ≤ severityOf b (palSource 0) := by decide +kernel
theorem witness_RegisterReads_doorbell : let b := queued.setSq 1 { live := true, k := 4 }
    inBell 0x10000 = true ∧ readClosed b 0x10000 0 = false ∧ bellOwned b 0 ((0x10000 - 0x10000) / 4) = true ∧
    bellOwned b 0 ((0x10000 - 0x10000) / 4 + 1) = true ∧ (b.vinst 0).stage = 0 ∧
    bellOwned queued 1 ((0x10000 - 0x10000) / 4) = false := by decide +kernel
theorem witness_PowerStates_deep : let b := { up with power := { busy := some 3 } }
    b.power.busy = some 3 ∧ b.power.deferred = none ∧ quietFor b 3 = true := by decide +kernel
theorem witness_ContextCommands_stopped : let b := up.setCtx 255 { st := .running, execs := [{ streamExec with stopped := true }] }
    ((b.ctx 255).execs.map (·.stopped)) = [true] ∧ canIssue b 255 = true := by decide +kernel
theorem witness_DataInstructions_fetch : let b := up.setCtx 255 { st := .running, pc := 4096 }
    canIssue b 255 = true ∧ (b.ctx 255).fetch = none ∧ (b.ctx 255).fetchBad = none ∧ buffered (b.ctx 255).ibuf 16 (b.ctx 255).pc ≤ 8 ∧
    (match xlPieces 255 clsControl (pieces 3 4096 256) b with | (_, .ok _) => true | _ => false) = true ∧
    8 < buffered ((List.range 9).map fun i => (4096 + 32 * i, [])) 16 4096 := by decide +kernel
theorem witness_Waits_full : canWake (waits .cqFull {}) 255 = true ∧ endStuck (waits .cqFull {}) 255 = false := by decide +kernel
theorem witness_SignalsAndDrains_readback :
    let b := up.setCtx 255 { st := .running, drain := some { act := none, readbacks := false }, lastW := [(3, acc)] }
    drained b 255 = true ∧ (b.ctx 255).lastW ≠ [] ∧ viFree b (b.ctx 255).vi = true ∧ endStuck b 255 = false ∧ (b.ctx 255).chain = none ∧
    (trackerAt tracked 3).isSome = true ∧ (trackerAt tracked 3).map (·.told) = some false := by decide +kernel
theorem witness_FencesAndOthers_word : let i := bytes 32 [(0, 1, 0x16), (8, 8, h2), (16, 4, 3)]
    let b := programmed i {}
    (match flagElem b (b.ctx 255) i false with
      | .ok (cv, j) => !flagBlocked (b.ctx 255) (elemVa cv j) (bytesOf cv.type) &&
        (match (readFlag b 255 cv.cached (elemVa cv j) (bytesOf cv.type)).2 with | .pending => true | _ => false)
      | .error _ => false) = true := by decide +kernel
theorem witness_FencesAndOthers_arrived :
    let b := up.setCtx 255 { st := .running, wait := some (.pred 3 1), load := some { va := 512, len := 8 } }
    let a := mkAcc (.flag 255) false 2 0 8 512 0 0 [] []
    ((flagGot b 255 a full).ctx 255).wait = some (.pred 3 1) ∧ canIssue (flagGot b 255 a full) 255 = true ∧
    (((flagGot b 255 a full).ctx 255).load.map (·.whole)) = some true := by decide +kernel
theorem witness_UnitsAndHalts_none : (nextAdmitted (refresh up 3) 3).isNone = true ∧ quadUp up 3 = true ∧ quadFenced up 3 = false := by
  decide +kernel
/-- An execution with one unit, memory on both sides, and a run to read. -/
def memUnit : WorkUnit := { n := 0, firstBurst := 0, nBursts := 1, elems := [], runs := [{ va := 0, len := 64, cls := 1 }] }
def memExec : Exec := { streamExec with ins := bytes 32 [(0, 1, 1)], units := [memUnit] }
theorem witness_UnitsAndHalts_enter : memExec.kindS = 0 ∧ memExec.kindD = 0 ∧ memExec.decodes = false ∧ memExec.race = false ∧
    iOp memExec.ins ≠ opExpand ∧ memUnit.fail = none ∧ unitStreams memExec memUnit = [] ∧ memUnit.runs ≠ [] ∧
    memExec ∈ ((up.setCtx 0 { st := .running, execs := [memExec] }).ctx 0).execs ∧ memUnit ∈ memExec.units := by decide +kernel
theorem witness_ChannelNegotiation_waiting : let b := up.setChan 23 { chanOn with service := .lost, rwait := [acc] }
    (b.chan 23).rwait = [acc] ∧ (b.chan 23).wwait = [] ∧ (retryAcc b acc).isSome = true ∧
    ((retryAcc b acc).map (·.reads)) = some true ∧ (up.chan 23).service ≠ .fenced := by decide +kernel
theorem witness_ChannelResponses_again : (retryAcc up acc).isSome = true ∧ ((retryAcc up acc).map fun a => (up.chan a.ch).service) = some .inService ∧
    ((retryAcc up { acc with write := true }).map (·.reads)) = some false := by decide +kernel
theorem witness_Maintenance_cores : (190 : Nat) / 48 = 191 / 48 ∧ idleCore up 190 = true ∧ idleCore up 191 = true := by decide +kernel
theorem witness_TamperAndDetectors_failed : ({ up with boot := { stage := 0xF } } : Block).boot.stage = 0xF ∧ (st up).ao.on = true := by decide
theorem witness_WalksEnd_places : (∀ v ∈ up.xl.walks, v.2.running = true) := by decide
theorem witness_TimersAndBounds_record :
    let r : RemReq := { acc := { acc with owner := .recRead 256 }, chip := 2, op := opRead, group := none }
    let b := { up with setup := { chipId := 1, routes := [(2, 1 + 2 * 7)] }, held := [r] }
    b.held = [r] ∧ portless b 256 r = true ∧ r.acc.owner.source = 256 ∧ r.acc.fill = false := by decide +kernel
theorem witness_Starts_again : ({ up with boot := { again := true } } : Block).boot.again = true ∧ up.boot.again = false ∧
    up.boot.stalled = none := by decide
theorem witness_BootStepsEnd_waits : bootReady State.reset.b = false ∧ bootReady up = true := by decide +kernel
theorem witness_DomainsAndRequestLines_fall : ((domained { req := true, drain := true }).pdom 15).req = true ∧
    ((domained { drain := true }).pdom 15).req = false := by decide

/-! ### Witnesses: clauses over stages, waits and grants -/

theorem witness_StepAndQueue_due : ({ on := true, countDue := true } : AO).countDue = true ∧ otpLowest [] 1 8 = some 32 ∧
    (st up).ao.countDue = false := by decide
theorem witness_IslandReset_late : let off (i : Nat) : Block :=
      { up with islands := { up.islands with out := up.islands.out.put false i false }, setup := { populated := 0xFFFFFF } }
    (off 28).islands.out.get false 28 = false ∧ hasBit (off 28).setup.populated 23 = true ∧ (off 28).isFenced .channel 23 = false ∧
    (off 36).islands.safe.getLsbD 36 = false ∧ up.power.state ≠ 3 ∧ up.boot.resetChip = false ∧ up.boot.startPending = false ∧
    up.boot.stalled = none ∧ up.boot.stage = 8 ∧ quadUp up 3 = true := by decide +kernel
theorem witness_CreditsReturned_down : chanUp State.reset.b 0 = false ∧
    (∀ m < 24, (up.chan m).rcred ≤ 255 ∧ (up.chan m).wcred ≤ 255) := by decide
theorem witness_ChannelNegotiation_found : let b (k : Nat) := up.setChan 23 { chanOn with service := .lost, found := [(256, 7, k)] }
    ((b 3).chan 23).service = .lost ∧ ((b 3).chan 23).found = [(256, 7, 3)] ∧ rowLimit (b 3) 256 ≤ 3 ∧ ¬ rowLimit (b 3) 256 ≤ 1 ∧
    ((up.setChan 23 { chanOn with service := .lost }).chan 23).found = [] := by decide
/-- Context 5 stands at CHAIN with EOC, or at CHAIN, then it. -/
def chaining : Block := up.setCtx 5 { st := .running, pc := 64, ibuf := [(64, bytes 32 [(0, 1, 0x17), (1, 1, 1)])] }
theorem witness_StreamBeats_eoc : let o : OutBeat := { beat := beat 1 1 false, ctx := 5, seq := 2, last := true }
    lastOut chaining o [] = true ∧ eocNext chaining 5 = some true ∧ lastOut chaining { o with last := false } [] = false := by
  decide +kernel
theorem witness_DomainsAndRequestLines_answer : (domained { ack := true }).pd = [(15, { req := false, ack := true, drain := false })] ∧
    (domained {}).boot.stage ≠ 0xF ∧ ctUp (domained {}) = true ∧ ((domained { drain := true }).pdom 15).drain = true ∧
    domainDrained ((domained { drain := true }).setChan 23 { chanOn with rtags := [(5, acc)] }) 15 = false := by decide +kernel
theorem witness_LinkTraining_safe : let b (x : BitVec 38) := { linked { phase := .fenced } with islands := { up.islands with safe := x } }
    ((b 0).link 7).phase = .fenced ∧ (b 0).islands.safe.getLsbD 36 = false ∧ (b (BitVec.twoPow 38 36)).islands.safe.getLsbD 36 = true := by
  decide
theorem witness_RemoteMemory_served : bitOf (flit opRead 256 full).aux 8 = true ∧
    remoteCheck (received []) (flit opRead 256 full) 0 0 1024 256 = none ∧
    (remoteCheck (received []) (flit opRead 256 full) 9 0 1024 256).isSome = true := by decide +kernel
theorem witness_RecordsAndAnswers_block : let f := flit opSwatch 0 (bytes 80 [(8, 4, 2 + 255 * 2 ^ 8 + 2 ^ 20)])
    let b := linked { ready with store := some (8, List.replicate 2048 0) }
    let w := fieldAt f.payload 8 8
    w % 16 = 2 ∧ bitsOf w 7 5 = 0 ∧ w / 2 ^ 27 = 0 ∧ bitsOf w 26 20 = 1 ∧ 16 + 64 ≤ f.payload.length ∧
    (decodeStored 8 (List.replicate 2048 0) (bitOf w 4) (bitsOf w 19 8 + 1) (sliceAt f.payload 16 64)).isSome = true ∧
    (b.link 7).store.isSome = true ∧ (linkDec b 7 f).isSome = true ∧
    swatchWaits { received [f] with flt := { units := (List.range 32).map fun i => (healthKey .decoder (96 + i), { state := .fenced }) } } 7 =
      true := by decide +kernel
/-- Port 7 with one request open under index 9 for the answer flit given. -/
def asked (r : RemReq) (f : Flit) : Block := linked { ready with reqs := [(9, r)], ingress := [f] }
theorem witness_RecordsAndAnswers_found :
    let f (op aux : Nat) (d : Bytes) : Flit := { flit op aux d with rix := 7 * 8192 + 9 }
    let e : Nat := 7 * 8192 + 9 + 2 ^ 32
    (∀ x ∈ [0, 7], (match takeMessage (asked (req opRead) (f opRdata x full)) 7 opRdata with
      | some ([g], b) => g.rix / 8192 == 7 && ((b.link 7).reqs.find? fun y => y.1 == g.rix % 8192) == some (9, req opRead) && g.aux == x
      | _ => false) = true) ∧
    (∀ x ∈ [0, 7], (match takeMessage (asked (req opWrite) (flit opAck 0 (bytes 256 [(0, 5, e + x * 2 ^ 16)]))) 7 opAck with
      | some ([g], _) => ((List.range 32).map fun i => fieldAt g.payload (8 * i) 8).filter (fun e => bitOf e 32) == [e + x * 2 ^ 16]
      | _ => false) = true) ∧
    (req opRead).acc.owner ≠ .discard ∧ bitsOf e 15 0 / 8192 = 7 ∧ bitsOf e 15 0 % 8192 = 9 ∧ (req opWrite).op ≠ opRead := by
  decide +kernel
theorem witness_RecordsAndAnswers_bound : let b := up.setVinst 0 { live := true, stage := 4 }
    timeBound b (req opWrite).acc = true ∧ timeBound up (req opWrite).acc = false ∧ (retryAcc up (req opWrite).acc).isSome = true := by
  decide +kernel
/-- What ends a stop of rows whose checks come in R104's order: KEY_GENERATE of VI 0 is PERMISSION. -/
theorem witness_CommandChecks_rows : from0 up 0x92 [] (fun b c r =>
    (rowChecks (st up).ao b c r).any fun e => e.2.1 == 0x92 && e.2.2 == some .permission) = true := by decide +kernel
theorem witness_CanvasesAndStreams_lost :
    from1 tenant 0x20 [(16, 8, 2 ^ 40)] (fun b c r => (check0 b c r .any [(16, 23)] (fieldAt c 16 8 % 8 == 0)).isNone &&
      (match readVa b r.vi clsControl (fieldAt c 16 8) 128 with | .error (st, _) => st != .held | .ok _ => false)) = true ∧
    from0 ((List.range 24).foldl (fun b n => b.setChan n { chanOn with therm := 3 }) up) 0x20 [(16, 8, 0x2000)] (fun b c r =>
      (check0 b c r .any [(16, 23)] (fieldAt c 16 8 % 8 == 0)).isNone &&
      (match readVa b r.vi clsControl (fieldAt c 16 8) 128 with | .error (st, _) => st == .held | .ok _ => false)) = true := by
  decide +kernel
/-- Whether CHAIN_SUBMIT of the two stages meets no place, or a fenced quadrant. -/
def chainPlace (b : Block) (p : Place → Bool) : Bool :=
  from0 (put b 0x2000 stages) 0x31 [(16, 8, 0x2000), (24, 1, 2)] fun b c r =>
    (check0 b c r .any [(16, 24)] (decide (2 ≤ fieldAt c 24 1) && decide (fieldAt c 24 1 ≤ 8))).isNone &&
    (match readVa b r.vi clsControl (fieldAt c 16 8) (32 * fieldAt c 24 1) with
      | .ok d =>
        let b := palNote b r.vi (fieldAt c 16 8) (32 * fieldAt c 24 1)
        (checkStages b r.vi (stageRecs (fieldAt c 24 1) d)).isNone &&
        (match bindStages (lowestFree b.chains.keys 0) r.vi 0 (stageRecs (fieldAt c 24 1) d) b [] with
          | (_, .error e) => p e
          | _ => false)
      | .error _ => false)
theorem witness_ProgramsBound_none :
    chainPlace { pooled with ctxs := (List.range 255).map fun i => (i, { st := .running }) } (fun p => match p with | .full => true | _ => false) =
      true := by decide +kernel
theorem witness_ProgramsBound_fenced :
    chainPlace { pooled with flt := { units := (List.range 64).map fun l => (healthKey .lane l, { state := .fenced }) } }
      (fun p => match p with | .fenced => true | _ => false) = true := by decide +kernel
/-- Context 255 halted in a MOVE that had its first check, and now runs on. -/
def stoppedMove (b : Block) : Option (Block × Exec) :=
  match planExec b 255 move [] 0 4096 with
  | (b, .ok e) => some (b.modCtx 255 fun x => { x with execs := [{ e with stopped := true }] }, { e with stopped := true })
  | _ => none
theorem witness_ContextCommands_recheck : (match stoppedMove (programmed move {}) with
    | some (b, e) => (b.ctx 255).execs == [e] && canIssue b 255 && (match recheck b 255 e with | (_, .ok _) => true | _ => false) &&
      (match recheck (freeSlot b 0) 255 e with | (_, .error (st, _)) => st == .badHandle | _ => false)
    | none => false) = true := by decide +kernel
/-- Instance 1 under reset at step 4, with tracker 9 and, or not, a write of its own outstanding. -/
def resetting (w : Bool) : Block :=
  let b := ({ tracked with rin := { tracked.rin with trackers := [] } } : Block).setVinst 1
    { live := true, gen := 6, stage := 4, owed := [replyOf (.mailbox 0) 0 []] }
  if w then b.setChan 3 { chanOn with wtags := [(0, { acc with write := true, vi := 1 })] } else b
theorem witness_InstanceCommands_stages :
    ((resetting true).vinst 1).stage ≠ 0 ∧ openWrites (resetting true) 1 ≠ [] ∧ openWrites (resetting false) 1 = [] ∧
    (let b := nextJob (endTrackers ((resetting false).setVinst 1 { (resetting false).vinst 1 with stage := 5 }) 1)
     (b.rin.trackers.any fun e => e.2.vi == 1) = false ∧ openWrites b 1 = []) ∧
    ((resetting false).vinst 1).later = [] ∧ ((resetting false).vinst 1).owed = [replyOf (.mailbox 0) 0 []] ∧
    (let b := resetting false
     let b : Block := { b with rin := { b.rin with trackers := addTrackers [] 9 1 1 8 } }
     let b := (List.range 24).foldl (fun b n => b.setChan n { chanOn with therm := 3 }) b
     let b := nextJob (endTrackers (b.setVinst 1 { b.vinst 1 with stage := 5, root := 0xFFFF000000100000 }) 1)
     (b.rin.trackers.any fun e => e.2.vi == 1) = true ∨ openWrites b 1 ≠ []) := by decide +kernel
theorem witness_InstanceCommands_joins :
    from0 (up.setVinst 1 { live := true, gen := 5, stage := 4, destroying := true }) 0x52 [(8, 8, 1)] (fun b c r =>
      (check b c r .vi0 (viTarget b (cmdTarget c)) 0 [] true).isNone && (b.vinst (cmdTarget c)).destroying) = true ∧
    from0 (up.setVinst 1 { live := true, gen := 5, stage := 4 }) 0x52 [(8, 8, 1)] (fun b c r =>
      (check b c r .vi0 (viTarget b (cmdTarget c)) 0 [] true).isNone && !(b.vinst (cmdTarget c)).destroying) = true := by decide +kernel
theorem witness_OfficerServices_token :
    fromP (st up).ao up 0x97 [] (fun b c _ => (match tokenOk (st up).ao b c 1 with | .ok ok => !ok | .error _ => false)) = true ∧
    fromP (st up).ao ((List.range 24).foldl (fun b n => b.setChan n { chanOn with therm := 3 })
        ({ up with rin := { up.rin with tokLen := 4755, tokPa := 0x1000 } } : Block)) 0x97 []
      (fun b c _ => (match tokenOk (st up).ao b c 1 with | .ok _ => false | .error _ => true)) = true := by decide +kernel
theorem witness_DataInstructions_fetchFails :
    let b := tenant.setCtx 255 { st := .running, vi := 1, gen := 5, pc := 4096 }
    (match xlPieces 255 clsControl (pieces 3 4096 256) b with | (_, .miss _) => true | _ => false) = true ∧
    (let b : Block := { b with xl := { l1 := [(3, [{ vi := 1, gen := 5, va := 0, log := 12, leaf := 0 }])] } }
     (match xlPieces 255 clsControl (pieces 3 0 256) b with | (_, .fail _ _) => true | _ => false) = true) := by decide +kernel
theorem witness_Loops_elsewhere : let x : Ctx := { loops := [{ start := 0, stop := 8192, left := 1, it := 0 }] }
    let i := bytes 32 [(0, 1, 0x11)]
    steps i x = true ∧ zeros i 1 31 = true ∧ (((programmed i x).ctx 255).loops.getLast?.map (·.stop)) = some 8192 ∧
    ((programmed i x).ctx 255).pc = 4096 ∧ ((programmed i x).ctx 255).execs = [] := by decide +kernel
theorem witness_Loops_bad : let i := bytes 32 [(0, 1, 0x10), (4, 4, 1)]
    steps i {} = true ∧ zeros i 1 3 = true ∧ zeros i 12 31 = true ∧ fieldAt i 8 4 = 0 ∧
    (let i := bytes 32 [(0, 1, 0x10), (4, 4, 1), (8, 4, 1)]
     steps i { loops := List.replicate 4 { start := 0, stop := 8192, left := 1, it := 0 } } = true ∧ 0 < fieldAt i 8 4) := by decide +kernel
theorem witness_Waits_arrived :
    let b := up.setCtx 255 { st := .waiting, wait := some (.flag 512 8 0 1 false), load := some { va := 512, len := 8 } }
    let a := mkAcc (.flag 255) false 2 0 8 512 0 0 [] []
    ((flagGot b 255 a full).ctx 255).wait = some (.flag 512 8 0 1 false) ∧
    (((flagGot b 255 a full).ctx 255).load.map (·.whole)) = some true ∧
    canWake ((flagGot b 255 a full).setCtx 255 { (flagGot b 255 a full).ctx 255 with load := none }) 255 = true ∧
    (((flagGot b 255 { a with len := 4 } (full.take 4)).ctx 255).load.map (·.whole)) = some false := by decide +kernel
theorem witness_Waits_failed : let b := (tenant.setCtx 255 { st := .waiting, vi := 1, gen := 5, wait := some (.flag 0 8 0 0 false) })
    let b : Block := { b with xl := { l1 := [(3, [{ vi := 1, gen := 5, va := 0, log := 12, leaf := 0 }])] } }
    canWake b 255 = true ∧ (b.ctx 255).load = none ∧ (match readFlag b 255 false 0 8 with | (_, .failed _ _) => true | _ => false) = true ∧
    (b.setCtx 255 { b.ctx 255 with load := some { va := 0, len := 8 } }).ctx 255 ≠ b.ctx 255 := by decide +kernel
theorem witness_Waits_level_go : let b := waits (.level 32767 1 15 1) {}
    (b.ctx 255).hystQ ≠ some 32767 ∧ 15 ≤ (b.sq 32767).fill ∧ ¬ 16 ≤ (b.sq 32767).fill := by decide
theorem witness_RecordQueueBounded_rows : let b : Block := { up with flt := { pins := [pin] }, setup := { severities := List.replicate 64 1 } }
    ctUp b = true ∧ b.flt.pins = [pin] ∧ severityOf b pin.src ≤ 2 ∧ b.flt.queue.length ≤ 64 ∧ b.flt.ringOn = false := by decide +kernel
theorem witness_WalksEnd_waiters : (∀ u ∈ [Waiter.burst 255 0 4096, .fetch 254 4096, .flag 253 4096], u.ctx < 256) ∧
    ((walkAt (walking false none) 7).map fun w => w.waiters.filter (waitsFor (walking false none) 7)) = some [.burst 255 0 4096] := by
  decide +kernel

/-- A MOVE of context 255 with a read burst waiting. -/
def bursting : Option Block :=
  match planExec (programmed move {}) 255 move [] 0 4096 with
  | (b, .ok e) => some (b.modCtx 255 fun x => { x with execs := [{ e with units := e.units.map fun u =>
      { u with phase := .reading, lane := some 63, onLane := true } }] })
  | _ => none
theorem witness_GrantsAndWindows_context : (match bursting with
    | some b =>
      let l := waitingCtxs b 3 false
      let a := (b.arbAt (arbCtx 3)).unmark (waitingAt b 3)
      l == [255] && a.pick ((b.arbAt (arbPath 3 false)).unlock l) (weightOf b) l == some 255 &&
      (match waitingBurst b 255 false with
        | some k => (match xlBurst b 3 0 k.va k.need with
          | (.ok pa _, b') => burstDomain b' 255 k pa != .fail
          | _ => false)
        | none => false)
    | none => false) = true := by decide +kernel
theorem witness_GrantsAndWindows_channel : ∀ w ∈ [false, true], ∀ t ∈ [0, 1], let a : Acc := { acc with write := w }
    let c : Chan := { chanOn with rwait := if w then [] else [a], wwait := if w then [a] else [], budget := 2048, tokR := t, tokW := t, tokX := t }
    let b := up.setChan 3 c
    c.used < c.budget ∧ pathWaiting b 3 w = [(a.owner.source, a)] ∧ accDomEffect b a ≠ .fail ∧ (c.tagFor w a).isSome = true ∧
    ((b.arbAt (arbChan 3 w)).unmark [a.owner.source]).choose (weightOf b) [a.owner.source] = some a.owner.source ∧
    (0 < c.tok (classOf a w) ↔ t = 1) := by decide +kernel
theorem witness_GrantsAndWindows_egress :
    let b := linked { ready with egress := [(flitClass vcReq 0, [flit opWrite 0 full])], credits := [(flitClass vcReq 0, 1)] }
    portOn (b.link 7) = true ∧ (b.link 7).staged.length < 4 ∧
    (match ((b.arbAt (arbEgress 7)).unmark (egressWaiting (b.link 7))).choose (fun _ => 64) (egressWaiting (b.link 7)) with
      | some vc => ((b.link 7).pop (flitClass vc (turnDateline b 7 vc))).isSome
      | none => false) = true := by decide +kernel
theorem witness_GrantsAndWindows_palette : let i : PalItem := { req := 5, words := 2, acc := acc, off := some 0 }
    let b : Block := { up with palq := [(4, [i])] }
    b.palq.get [] 4 = [i] ∧ palWaiting b 4 = [5] ∧ ((b.arbAt (arbPal 4)).unmark [5]).choose (weightOf b) [5] = some 5 := by decide +kernel
theorem witness_WeightedCredits :
    let a : Arb := { reqs := [(3, { bound := true, ctr := 5 }), (7, { bound := true, ctr := 5 }),
      (9, { bound := true, ctr := -4, marked := true })], next := 4 }
    a.choose (fun _ => 128) [3, 7] = some 7 ∧ a.choose (fun _ => 128) [3, 7, 9] = some 9 ∧
    ({ a with next := 8 } : Arb).choose (fun _ => 128) [3, 7] = some 3 ∧
    a.pick { lock := some (3, 15) } (fun _ => 128) [3, 7] = some 3 ∧ a.pick { prev := some 7 } (fun _ => 128) [3, 7] = some 3 ∧
    ((a.boundary (fun _ => 3) [3]).reqs.get {} 3).ctr = 6 ∧ ((a.boundary (fun _ => 3) [3]).reqs.get {} 3).marked = true := by decide +kernel

/-! ### Small steps against the spec's words

The expected values are the spec's own, or those of the standard it names. -/

/-- FIPS 197, appendix C.3. -/
theorem test_aes256 : Crypto.aes256 ((List.range 32).map (BitVec.ofNat 8 ·)) ((List.range 16).map fun i => BitVec.ofNat 8 (17 * i)) =
    [0x8E, 0xA2, 0xB7, 0xCA, 0x51, 0x67, 0x45, 0xBF, 0xEA, 0xFC, 0x49, 0x90, 0x4B, 0x49, 0x60, 0x89] := by decide +kernel
/-- The check value of CRC-32 over the digits 1 to 9 (IEEE 802.3). -/
theorem test_crc32 : Crypto.crc32 [0x31, 0x32, 0x33, 0x34, 0x35, 0x36, 0x37, 0x38, 0x39] = 0xCBF43926 := by decide +kernel
/-- FIPS 202: SHA3-256 of the empty message, first bytes. -/
theorem test_sha3 : (Crypto.sha3_256 []).take 4 = [0xA7, 0xFF, 0xC6, 0xF8] := by decide +kernel
/-- R38: a 256th credit is discarded and logged under source 37. -/
theorem test_credit_255 : ((readCredit 3 (up.setChan 3 { chanOn with rcred := 255 })).flt.pins.map (·.src)) = [37] ∧
    ((readCredit 3 (up.setChan 3 chanOn)).chan 3).rcred = 5 := by decide +kernel
/-- R95: a tail beyond the ring is refused with BOUNDS, one within it moves the tail. -/
theorem test_tail : bellCheck queued 0 16 = some .bounds ∧ ((ringBell queued (0, 15)).sq 0).tail = 15 := by decide +kernel
/-- R158: LOOP with count 0 continues after its ENDLOOP. -/
theorem test_loop_zero : (match insLoop up 5 { pc := 64 } (bytes 32 [(0, 1, 0x10), (8, 4, 3)]) with
    | .go b => (b.ctx 5).pc == 64 + 32 * 3 + 32 && (b.ctx 5).loops == []
    | _ => false) = true := by decide +kernel
/-- R163: GES (compare 3) compares across the wrap of the flag's width. -/
theorem test_flag_modular : flagCmp 3 4 5 0xFFFFFFF0 = true ∧ flagCmp 2 4 5 0xFFFFFFF0 = false := by decide +kernel
/-- R418: a unit in FAULT returns with its counter one higher, at most 255. -/
theorem test_quiet : (quietTimer .lane 63 (up.setHealth .lane 63 { state := .fault, counter := 255 })).health .lane 63 =
    { state := .inService, counter := 255 } := by decide +kernel
/-- R416: FLT_STATUS clears the bits written as 1 under the strobes. -/
theorem test_w1c : ((access 0x50 { wr 0xFFFFFFFFFFFFFFFF 0 with strb := 0x0F } (fltStatusWrite { wr 0xFFFFFFFFFFFFFFFF 0 with strb := 0x0F })
    (st up).ao { up with flt := { status := 0x100000001 } }).flt.status) = 0x100000000 := by decide +kernel
/-- R54: a strobe pattern other than a half or the whole word is BOUNDS. -/
theorem test_strobes : portCheck (st up).ao up 0x58 { wr 0 0 with strb := 0x03 } = some .bounds := by decide +kernel
/-- R70: a domain request before step 6 has ended is acknowledged. -/
theorem test_early_domain : ((pdReq 15 { up with boot := { stage := 6 } }).pdom 15).ack = true := by decide +kernel

/-- The example of R141: coefficient 1,000 of limb 7 of component 1 under each polynomial layout. -/
def poly (lay lp : Nat) : Canvas :=
  { base := 0x1234400000, e := [65536, 44, 2, 1, 1], s := [0, 0, 0x1600000, 0, 0], type := 16, layout := lay, lparam := lp, rank := 3 }
theorem test_poly_addresses : ((poly 4 16).addr [1000, 7, 1, 0, 0]) = some (2 * 0x1235D81F40) ∧
    ((poly 5 16).addr [1000, 7, 1, 0, 0]) = some (2 * 0x1235A55F38) ∧
    ((poly 6 0x80810).addr [1000, 7, 1, 0, 0]) = some (2 * 0x1235DF4018) := by decide +kernel
/-- The ILV_A example of R141: element i = 37, j = 300 lies 136,624 bytes from base. -/
theorem test_ilv_address : (({ e := [4096, 1024, 1, 1, 1], type := 11, layout := 1, lparam := 0x264, rank := 2 } : Canvas).addr
    [300, 37, 0, 0, 0]) = some (2 * 136624) := by decide +kernel
/-- The example of R215: three draws of 20 bits, the second rejected. -/
theorem test_draws : drawsOf 20 786433 (leNat [0x3A, 0xF1, 0x03, 0x97, 0xE5, 0x42, 0x18, 0xB6]) 3 = [258362, 399426] := by decide +kernel
/-- The example of R76: the mode of channel M13. -/
theorem test_mode : chooseMode 0x000001FF03170731 0x000000FF01160331 =
    some { full := true, run := 4, sym8 := true, therm := true, drainable := true, trusted := true, tagMax := 255 } := by decide +kernel
/-- The example of R207: coefficient 20,000 under k = 5 becomes 34,464 with its sign turned. -/
theorem test_image : imageOf 65536 20000 5 0 = (34464, true) ∧ imageOf 65536 1000 25 0 = (25000, false) := by decide +kernel
/-- The example of R176, in small: the mask counts from the resume point. -/
theorem test_resume : resumePoint [0, 1, 3, 4] = (2, 6) := by decide +kernel
/-- The examples of R225 and R233: 80.5 rounds to even; code 0x3A under its scales becomes BF16 0x3B8C. -/
theorem test_tint : (encode 1 (scaleBy (dec 10 0x40A10000) 4)).1 = 80 ∧
    (encode 9 (expandVal 11 0x3A 0 (decScale 0 0x5C 0x3C000000))).1 = 0x3B8C := by decide +kernel
/-- The examples of R294 and R364: a steering hash, and the budget and tokens at the hot margin. -/
theorem test_steering : steerHash 0x004035D81F00 = 2818 ∧ steerOf up 2818 = 10 ∧
    (let c := ({ chanOn with therm := 2 } : Chan).refill [45, 45, 10]
     (c.budget, c.tokR, c.tokX)) = (1024, 460, 102) := by decide +kernel

/-- What reads show (R432, R433, R451): ID, GSTATUS of a warm start at READY_LOCAL in MANUFACTURE with viol, PSTATE. -/
theorem test_reads : readGlobal {} up 0 = 0x0000010000244B4C ∧
    gstatus { shadow := [0], viol := true } { up with boot := { stage := 8, warm := true } } = 0x1C0108 ∧
    pstate { up with power := { state := 1, pending := some 2 } } = 9 := by decide +kernel
/-- A tenant reads neither another mailbox nor the OTP registers (R431). -/
theorem test_read_refused : (match portRead {} up 0x40268 1 with | .error st => st == .permission | _ => false) = true ∧
    (match portRead {} up 0x110 1 with | .error st => st == .permission | _ => false) = true := by decide +kernel
theorem witness_AccessRefused_read : readClosed up 0x2FFF8 1 = false ∧ inBell 0x2FFF8 = true ∧ readClosed up 0x40000 1 = false ∧
    inMbox 0x40000 = true ∧ (0x40000 - 0x40000) / 256 ≠ 1 := by decide +kernel
theorem witness_RegisterReads : up.boot.stage < 16 ∧ lifeCycle { shadow := [0, 1] } < 8 ∧ inPriv 0x1FF8 = true ∧
    inOtp 0x3F8 = true ∧ inDebug 0x8FFF8 = true ∧ inMbox 0x4FFF8 = true ∧ (0x4FFF8 - 0x40000) / 256 ≠ 254 ∧
    inBell 0x2FFF8 = true := by decide +kernel

end Sys2Proof.Tests
end

section
/-! SUPPORT. Starts and register reads: what a start makes of the state it meets, and that no register of the control port
reads a key. -/

namespace Sys2Proof.Machine

/-! ### COLD_START and WARM_START (R64, R65, R73) -/

/-- The state at step 2 of a start, before it clears anything: the owed TAMPER_COUNT bit programmed, a programming job cut
short, the control events of both taken in. -/
def atStart (s : State) : State := takeEvents { s with ao := s.ao.countTamper, b := cutJob s.b }

theorem foldl_toAo_fuse_boot (l : List Nat) (b : Block) : (l.foldl (fun b i => toAo b (.fuse i)) b).boot = b.boot := by
  induction l generalizing b with
  | nil => rfl
  | cons i l ih => rw [List.foldl_cons, ih, toAo_boot]

@[simp] theorem cutJob_boot (b : Block) : (cutJob b).boot = b.boot := by
  unfold cutJob
  split
  · rfl
  · exact foldl_toAo_fuse_boot _ b

@[simp] theorem atStart_boot (s : State) : (atStart s).b.boot = s.b.boot := cutJob_boot s.b

theorem coldAgain_fresh {b : Block} (h : b.boot.again = false) : coldAgain b = false := by simp [coldAgain, h]

theorem coldAgain_cut {b : Block} (h : b.boot.again = true) : coldAgain b = !b.boot.warm := by simp [coldAgain, h]

/-- A start that no tamper event cut clears the block as a warm start does. -/
theorem beforeStep2_fresh {b : Block} (h : b.boot.again = false) : beforeStep2 b = cleared false b := by
  simp [beforeStep2, coldAgain_fresh h, h]

/-- A start-up that a tamper event cut goes on with its fault collector, only the unit states cleared (R73, R418). -/
theorem beforeStep2_cut {b : Block} (h : b.boot.again = true) :
    beforeStep2 b = { cleared (!b.boot.warm) b with flt := { b.flt with units := [] } } := by
  simp [beforeStep2, coldAgain_cut h, h]

/-- With AO or CT in reset WARM_START changes nothing. -/
theorem exec_warmStart_off {k : StartIn} {s : State} (h : s.ao.on = false ∨ s.b.islands.out.get false 37 = false) :
    exec (.warmStart k) s = .next s :=
  if_pos (by rcases h with h | h <;> simp [h])

/-- With AO and CT out of reset WARM_START runs the steps on the AO shadow. -/
theorem exec_warmStart_on {k : StartIn} {s : State} (hao : s.ao.on = true) (hct : s.b.islands.out.get false 37 = true) :
    exec (.warmStart k) s =
      (let ao := { (atStart s).ao with inUse := (atStart s).ao.shadow }
       .next (takeEvents { atStart s with
         ao := ao, b := bootSteps (marchMode (coldAgain s.b) s.b) k ao (beforeStep2 (atStart s).b) })) :=
  if_neg (by simp [hao, hct])

/-- Settles O10: a cold start by its definition; a warm one by whether AO and CT are out of reset, then by whether it goes
on with a start-up that was cut. -/
theorem starts : Obligations.Starts := by
  unfold Obligations.Starts
  refine ⟨fun k s => ⟨rfl, rfl, rfl⟩, fun k s => ⟨?_, exec_warmStart_off⟩⟩
  rintro ⟨hao, hct⟩
  rw [exec_warmStart_on hao hct]
  constructor
  · intro fresh
    rw [coldAgain_fresh fresh, beforeStep2_fresh (by rwa [atStart_boot])]
    rfl
  · intro cut
    rw [coldAgain_cut cut, beforeStep2_cut (by rwa [atStart_boot]), atStart_boot]
    rfl

/-! ### Reads of the control port (R54, R430 to R434) -/

/-- Nothing closes the global range to a read, in whatever state the block is. -/
theorem readCheck_global (ao : AO) (b : Block) {a : Nat} (vi : Nat) (h : a < 0x100) : readCheck ao b a vi = none := by
  have range : a < globalEnd := h
  have notClosed : readClosed b a vi = false := by simp [readClosed, range]
  have ranges : inMbox a = false ∧ inBell a = false ∧ inPriv a = false ∧ inOtp a = false ∧ inDebug a = false := by
    simp [inMbox, inBell, inPriv, inOtp, inDebug]; omega
  simp [readCheck, notClosed, ranges]

/-- The ranges of the register map do not overlap: an offset of the doorbells is in no other. -/
theorem ranges_of_inBell {a : Nat} (h : inBell a = true) :
    ¬ a < globalEnd ∧ inOtp a = false ∧ inPriv a = false ∧ inMbox a = false ∧ inDebug a = false := by
  simp [inBell, globalEnd, inMbox, inPriv, inOtp, inDebug] at *; omega

theorem portRead_global (ao : AO) (b : Block) {a : Nat} (vi : Nat) (h : a < 0x100) :
    portRead ao b a vi = .ok (readGlobal ao b a) := by
  have range : a < globalEnd := h
  simp [portRead, readCheck_global ao b vi h, range]

theorem gstatus_toNat {ao : AO} {b : Block} (hs : b.boot.stage < 16) (hl : lifeCycle ao < 8) :
    (gstatus ao b).toNat = b.boot.stage + lifeCycle ao * 2 ^ 8 + b2n ao.zeroised * 2 ^ 16 +
      b2n b.sec.cert.isSome * 2 ^ 17 + b2n ao.viol * 2 ^ 18 + b2n (windowOpen ao b false) * 2 ^ 19 +
      b2n b.boot.warm * 2 ^ 20 := by
  have bit : ∀ x : Bool, b2n x ≤ 1 := by decide
  have h1 := bit ao.zeroised
  have h2 := bit b.sec.cert.isSome
  have h3 := bit ao.viol
  have h4 := bit (windowOpen ao b false)
  have h5 := bit b.boot.warm
  rw [gstatus, word64, BitVec.toNat_ofNat, Nat.mod_eq_of_lt hs, Nat.mod_eq_of_lt]
  omega

theorem portRead_error {ao : AO} {b : Block} {a vi : Nat} (h : readCheck ao b a vi ≠ none) :
    ∃ st, portRead ao b a vi = .error st := by
  obtain ⟨st, e⟩ := Option.ne_none_iff_exists'.1 h
  exact ⟨st, by simp [portRead, e]⟩

/-- A tenant gets no register of the privileged mailbox, OTP or debug ranges (R431). -/
theorem readCheck_privileged (ao : AO) (b : Block) {a vi : Nat} (hv : vi ≠ 0)
    (h : inPriv a = true ∨ inOtp a = true ∨ inDebug a = true) : readCheck ao b a vi ≠ none := by
  have range : (inPriv a || inOtp a || inDebug a) = true := by simpa [or_assoc] using h
  unfold readCheck
  cases readClosed b a vi <;> simp [range, hv]

/-- A mailbox is read by its own VI alone (R54). -/
theorem readCheck_mbox_other (ao : AO) (b : Block) {a vi : Nat} (hm : inMbox a = true) (h : (a - 0x40000) / 256 ≠ vi) :
    readCheck ao b a vi ≠ none := by
  unfold readCheck
  cases readClosed b a vi <;> simp [hm, h]

/-- A doorbell of a queue of another VI, or of none, is refused (R54). -/
theorem readCheck_bell_other (ao : AO) (b : Block) {a vi : Nat} (hb : inBell a = true)
    (h : bellOwned b vi ((a - 0x10000) / 4) = false) : readCheck ao b a vi ≠ none := by
  unfold readCheck
  cases readClosed b a vi <;> simp [hb, h]

/-- The owner of both doorbells of 8 bytes reads 0 (R95). -/
theorem portRead_bell {ao : AO} {b : Block} {a vi : Nat} (hb : inBell a = true) (notClosed : readClosed b a vi = false)
    (h0 : bellOwned b vi ((a - 0x10000) / 4) = true) (h1 : bellOwned b vi ((a - 0x10000) / 4 + 1) = true)
    (hv : (b.vinst vi).stage = 0) : portRead ao b a vi = .ok 0 := by
  obtain ⟨notGlobal, notOtp, notPriv, notMbox, notDebug⟩ := ranges_of_inBell hb
  have passed : readCheck ao b a vi = none := by
    simp [readCheck, notClosed, h0, h1, hv, notOtp, notPriv, notMbox, notDebug]
  simp [portRead, passed, notGlobal, notOtp, notPriv, notMbox, notDebug]

/-! ### No register shows a key (R378) -/

/-- A block with other keys: the slots, the handle key, the secret halves of the identity and import keys. -/
def Block.withKeys (b : Block) (keys : Tab KeySlot) (hk ip mp : Bytes) : Block :=
  { b with sec := { b.sec with keys := keys, handleKey := hk, identPriv := ip, importPriv := mp } }

section
variable (ao : AO) (b : Block) (keys : Tab KeySlot) (hk ip mp : Bytes)

theorem readCheck_withKeys (a vi : Nat) : readCheck ao (b.withKeys keys hk ip mp) a vi = readCheck ao b a vi := rfl

theorem readGlobal_withKeys (a : Nat) : readGlobal ao (b.withKeys keys hk ip mp) a = readGlobal ao b a := rfl

theorem readOtp_withKeys (a : Nat) : readOtp (b.withKeys keys hk ip mp) a = readOtp b a := rfl

theorem readMbox_withKeys (m o : Nat) : readMbox (b.withKeys keys hk ip mp) m o = readMbox b m o := rfl

theorem readPriv_withKeys (o : Nat) : readPriv (b.withKeys keys hk ip mp) o = readPriv b o := rfl

theorem readDebug_withKeys (o : Nat) : readDebug ao (b.withKeys keys hk ip mp) o = readDebug ao b o := rfl

theorem portRead_withKeys (a vi : Nat) : portRead ao (b.withKeys keys hk ip mp) a vi = portRead ao b a vi := by
  simp only [portRead, readCheck_withKeys, readGlobal_withKeys, readOtp_withKeys, readMbox_withKeys, readPriv_withKeys,
    readDebug_withKeys]

end

/-- Settles O33: the checks of a read decide what is refused, its range what it shows, and no range reads a key. -/
theorem registerReads : Obligations.RegisterReads := by
  unfold Obligations.RegisterReads
  intro ao b a vi
  refine ⟨portRead_global ao b vi, gstatus_toNat, rfl, ?_, portRead_bell, fun keys hk ip mp =>
    portRead_withKeys ao b keys hk ip mp a vi⟩
  rintro (⟨hv, range⟩ | ⟨hm, other⟩ | ⟨hb, other⟩)
  · exact portRead_error (readCheck_privileged ao b hv range)
  · exact portRead_error (readCheck_mbox_other ao b hm other)
  · exact portRead_error (readCheck_bell_other ao b hb other)

end Sys2Proof.Machine
end

section
/-! SUPPORT. What every command does to the state as a whole, and a step with no command waiting. -/

namespace Sys2Proof.Machine

/-! ### Every command but a start runs through `lift` -/

/-- Nothing but a start reaches AO other than by control events (R15). -/
theorem exec_lift {c : Instr} (h : isStart c = false) : ∃ f, ∀ s, exec c s = lift f s := by
  cases c with
  | coldStart k => exact Bool.noConfusion h
  | warmStart k => exact Bool.noConfusion h
  | _ =>
    dsimp only [exec]
    exact ⟨_, fun _ => rfl⟩

@[simp] theorem takeEvents_pending (s : State) : (takeEvents s).pending = s.pending := rfl
@[simp] theorem takeEvents_ev (s : State) : (takeEvents s).b.ev = [] := rfl

theorem takeEvents_self {s : State} (h : s.b.ev = []) : takeEvents s = s := s.after_self h

/-- Every command is answered by a next state with the same commands waiting, and unless that is the state it met, no
control event is left in it. -/
theorem exec_next (c : Instr) (s : State) :
    ∃ t, exec c s = .next t ∧ t.pending = s.pending ∧ (t = s ∨ t.b.ev = []) := by
  cases start : isStart c with
  | false =>
    obtain ⟨f, hf⟩ := exec_lift start
    exact ⟨s.after (f s.ao s.b), by rw [hf, lift_eq], s.after_pending _, .inr (s.after_ev _)⟩
  | true =>
    cases c with
    | coldStart k => exact ⟨_, rfl, rfl, .inr rfl⟩
    | warmStart k =>
      by_cases reset : s.ao.on = false ∨ s.b.islands.out.get false 37 = false
      · exact ⟨s, exec_warmStart_off reset, rfl, .inl rfl⟩
      · rw [not_or, Bool.not_eq_false, Bool.not_eq_false] at reset
        exact ⟨_, exec_warmStart_on reset.1 reset.2, rfl, .inr rfl⟩
    | _ => exact Bool.noConfusion start

/-! ### A cycle of the always-on clock (R405, R432, R376) -/

theorem step_idle {s : State} (h : s.pending = []) : step s = .next (tick s) := by
  unfold step
  rw [h]
  rfl

theorem AO.countTamper_notDue {a : AO} (h : a.countDue = false) : a.countTamper = a := by
  simp [AO.countTamper, h]

/-- A count bit that is due is the lowest unprogrammed one of TAMPER_COUNT, in the fuses and in the shadow (R405). -/
theorem AO.countTamper_due {a : AO} {i : Nat} (due : a.countDue = true) (lowest : otpLowest a.fuses 1 8 = some i) :
    a.countTamper = { a with fuses := fuseSet a.fuses i, shadow := fuseSet a.shadow i, countDue := false } := by
  simp [AO.countTamper, due, lowest]

theorem answerFalls_none {b : Block} (h : ∀ e ∈ b.pd, e.2.ack = true → e.2.req = true) : answerFalls b = b := by
  have noFall : (b.pd.filter fun e => e.2.ack && !e.2.req) = [] := by
    simpa [List.filter_eq_nil_iff] using h
  rw [answerFalls, noFall, List.foldl_nil]

/-- A cycle in which neither a count bit is due nor a fall of pd_req waits moves AOTIME alone. -/
theorem tick_quiet {s : State} (notDue : s.ao.countDue = false) (noFall : ∀ e ∈ s.b.pd, e.2.ack = true → e.2.req = true)
    (noEvent : s.b.ev = []) : tick s = { s with ao := { s.ao with aotime := s.ao.aotime + 1 } } := by
  rw [tick, AO.countTamper_notDue notDue, answerFalls_none noFall]
  exact takeEvents_self noEvent

/-- Settles O2: the idle step is `tick`; a command is a start or runs through `lift`, and both leave the waiting commands
alone and hand every control event to AO. -/
theorem stepAndQueue : Obligations.StepAndQueue := by
  unfold Obligations.StepAndQueue
  refine ⟨fun s empty => ⟨step_idle empty, fun notDue noFall noEvent => ?_⟩, fun a i due lowest => ?_, fun c s => ?_,
    fun c s t answered => ?_⟩
  · rw [step_idle empty, tick_quiet notDue noFall noEvent]
  · rw [AO.countTamper_due due lowest]
    exact ⟨rfl, (fuseSet_new _ _ _).2 (.inr rfl)⟩
  · obtain ⟨t, answered, -⟩ := exec_next c s
    exact ⟨t, answered⟩
  · obtain ⟨u, answered', waiting, left⟩ := exec_next c s
    obtain rfl : t = u := Host.Outcome.next.inj (answered.symm.trans answered')
    refine ⟨waiting, fun noEvent => ?_⟩
    rcases left with rfl | left
    · exact noEvent
    · exact left

end Sys2Proof.Machine
end

section
/-! SUPPORT. Sensing shows programmed bits only (R65, R436, R439): at every control event, command and idle step. -/

namespace Sys2Proof.Machine

/-- The shadow of the AO island shows programmed bits only. -/
def AO.SensedTrue (a : AO) : Prop := ∀ i, a.shadow.contains i = true → a.fuses.contains i = true

theorem shadowTrue_iff (s : State) : ShadowTrue s ↔ s.ao.SensedTrue := Iff.rfl

/-- A bit that is programmed and shown at once. -/
theorem fuseSet_sensedTrue {shadow fuses : List Nat} (h : ∀ j, shadow.contains j = true → fuses.contains j = true) (i j : Nat) :
    (fuseSet shadow i).contains j = true → (fuseSet fuses i).contains j = true := by
  rw [fuseSet_new, fuseSet_new]
  exact Or.imp_left (h j)

theorem AO.apply_sensedTrue {a : AO} (h : a.SensedTrue) (e : AoEvent) : (a.apply e).SensedTrue := by
  cases e with
  | fuse i => exact fuseSet_sensedTrue h i
  | violation off vi st => dsimp only [AO.apply]; split <;> exact h
  | security => exact h
  | zeroised => exact h
  | tampered => exact h

theorem AO.foldl_apply_sensedTrue {a : AO} (h : a.SensedTrue) (l : List AoEvent) : (l.foldl AO.apply a).SensedTrue := by
  induction l generalizing a with
  | nil => exact h
  | cons e l ih => exact ih (AO.apply_sensedTrue h e)

theorem AO.countTamper_sensedTrue {a : AO} (h : a.SensedTrue) : a.countTamper.SensedTrue := by
  unfold AO.countTamper
  split
  · exact h
  · split
    · next i _ => exact fuseSet_sensedTrue h i
    · exact h

theorem takeEvents_sensedTrue {s : State} (h : s.ao.SensedTrue) : (takeEvents s).ao.SensedTrue :=
  AO.foldl_apply_sensedTrue h _

theorem atStart_sensedTrue {s : State} (h : s.ao.SensedTrue) : (atStart s).ao.SensedTrue :=
  takeEvents_sensedTrue (s := { s with ao := s.ao.countTamper, b := cutJob s.b }) (AO.countTamper_sensedTrue h)

theorem tick_sensedTrue {s : State} (h : s.ao.SensedTrue) : (tick s).ao.SensedTrue :=
  AO.foldl_apply_sensedTrue (a := { s.ao.countTamper with aotime := s.ao.aotime + 1 }) (AO.countTamper_sensedTrue h) _

/-- Every command keeps it: a cold start senses the fuses as they are, a warm one keeps the shadow, and any other command
reaches AO by control events alone. -/
theorem exec_sensedTrue {c : Instr} {s t : State} (h : s.ao.SensedTrue) (answered : exec c s = .next t) : t.ao.SensedTrue := by
  cases start : isStart c with
  | false =>
    obtain ⟨f, hf⟩ := exec_lift start
    rw [hf, lift_eq] at answered
    obtain rfl := Host.Outcome.next.inj answered
    exact AO.foldl_apply_sensedTrue h _
  | true =>
    cases c with
    | coldStart k =>
      obtain rfl := Host.Outcome.next.inj answered
      refine takeEvents_sensedTrue ?_
      exact fun _ shown => shown
    | warmStart k =>
      by_cases reset : s.ao.on = false ∨ s.b.islands.out.get false 37 = false
      · rw [exec_warmStart_off reset] at answered
        obtain rfl := Host.Outcome.next.inj answered
        exact h
      · rw [not_or, Bool.not_eq_false, Bool.not_eq_false] at reset
        rw [exec_warmStart_on reset.1 reset.2] at answered
        obtain rfl := Host.Outcome.next.inj answered
        refine takeEvents_sensedTrue ?_
        exact atStart_sensedTrue h
    | _ => exact Bool.noConfusion start

/-- Settles O5: an idle step by `tick_sensedTrue`, a command by `exec_sensedTrue`. -/
theorem shadowShowsFuses : Obligations.ShadowShowsFuses := by
  unfold Obligations.ShadowShowsFuses
  intro s t shown stepped
  rw [shadowTrue_iff] at shown ⊢
  cases waiting : s.pending with
  | nil =>
    rw [step_idle waiting] at stepped
    obtain rfl := Host.Outcome.next.inj stepped
    exact tick_sensedTrue shown
  | cons c rest =>
    rw [step, waiting] at stepped
    exact exec_sensedTrue (s := s.withPending rest) shown stepped

end Sys2Proof.Machine
end

section
/-! SUPPORT. Where the steps of a start end (R65 to R73, R397, R399): one equation per branch of `bootSteps` and
`fromStep3`, and what the steps on the way leave alone. -/

namespace Sys2Proof

/-- A key is listed, or reads as the default. -/
theorem Tab.mem_keys_or_get_default {α : Type} (d : α) (t : Tab α) (i : Nat) : i ∈ t.keys ∨ Tab.get d t i = d := by
  induction t with
  | nil => exact .inr rfl
  | cons e t ih =>
    by_cases h : e.1 = i
    · exact .inl (by simp [Tab.keys, h])
    · simpa [Tab.keys, Tab.get, h, Ne.symm h] using ih

/-- Putting made values at the keys of a list gives every one of them a made value. -/
theorem Tab.get_foldl_put_of {α : Type} [DecidableEq α] {P : α → Prop} {d : α} {f : Nat → α → α} (made : ∀ k v, P (f k v))
    (l u : Tab α) (i : Nat) (h : i ∈ l.keys ∨ P (Tab.get d u i)) :
    P (Tab.get d (l.foldl (fun a e => Tab.put d a e.1 (f e.1 e.2)) u) i) := by
  induction l generalizing u with
  | nil => simpa [Tab.keys] using h
  | cons e l ih =>
    refine ih _ ?_
    by_cases same : i = e.1
    · rw [same, Tab.get_put_same]
      exact .inr (made e.1 e.2)
    · rw [Tab.get_put_other d u _ same]
      simpa [Tab.keys, same] using h

/-- What holds of an unlisted value and of every value that `f` makes holds of every value of the mapped table. -/
theorem Tab.get_mapVals_of {α : Type} [DecidableEq α] {P : α → Prop} {d : α} {f : Nat → α → α} (default : P d)
    (made : ∀ k v, P (f k v)) (t : Tab α) (i : Nat) : P (Tab.get d (Tab.mapVals d t f) i) :=
  Tab.get_foldl_put_of made t t i ((Tab.mem_keys_or_get_default d t i).imp_right fun unlisted => by rwa [unlisted])

end Sys2Proof

namespace Sys2Proof.Machine

/-! ### The two states a start can fail into (R73, R399) -/

theorem bootFail_stage (b : Block) : (bootFail b).boot.stage = 0xF := rfl
theorem enterError_stage (b : Block) : (enterError b).boot.stage = 0xE := rfl
theorem enterError_keys (b : Block) : (enterError b).sec.keys = [] := rfl

theorem enterError_chan_reset (b : Block) (n : Nat) : ((enterError b).chan n).service = .reset := by
  have bare : ∀ t : Tab Chan, (Tab.get {} (t.mapVals {} fun _ c => { therm := c.therm }) n).service = .reset :=
    fun t => Tab.get_mapVals_of (P := fun c : Chan => c.service = .reset) rfl (fun _ _ => rfl) t n
  exact bare b.chans

/-! ### The branches of step 2 -/

section
variable {mode : Nat} {k : StartIn} {ao : AO} {b : Block}

theorem bootSteps_scrapped (h : lifeCycle ao = 5) : bootSteps mode k ao b = bootFail b := if_pos h

theorem bootSteps_katFailed (alive : lifeCycle ao ≠ 5) (failed : k.kat2 = false) :
    bootSteps mode k ao b = enterError (raise b 61 0) := by
  simp [bootSteps, alive, failed]

theorem bootSteps_healthFailed (alive : lifeCycle ao ≠ 5) (kat : k.kat2 = true) (failed : k.health = false) :
    bootSteps mode k ao b = enterError (raise b 60 0) := by
  simp [bootSteps, alive, kat, failed]

theorem bootSteps_seedBad (alive : lifeCycle ao ≠ 5) (kat : k.kat2 = true) (health : k.health = true)
    (bad : (inService ao && seedBad ao) = true) : bootSteps mode k ao b = bootFail b := by
  unfold bootSteps
  rw [if_neg alive, kat, health, if_neg (by decide), if_neg (by decide), if_pos bad]

section
variable (alive : lifeCycle ao ≠ 5) (kat : k.kat2 = true) (health : k.health = true) (seed : (inService ao && seedBad ao) = false)
include alive kat health seed

theorem bootSteps_waits (unserved : bootReady b = false) :
    bootSteps mode k ao b = { b with boot := { b.boot with stage := 3, stalled := some (mode, k) } } := by
  unfold bootSteps
  rw [if_neg alive, kat, health, seed, unserved]
  rfl

theorem bootSteps_served (served : bootReady b = true) : bootSteps mode k ao b = fromStep3 mode k ao b := by
  unfold bootSteps
  rw [if_neg alive, kat, health, seed, served]
  rfl

end

/-! ### The branches of steps 3 and 4 -/

theorem fromStep3_noFirmware (h : firmware ao b = none) : fromStep3 mode k ao b = bootFail (raise b 61 0) := by
  unfold fromStep3
  rw [h]

/-- The block with the firmware step 3 has found. -/
def withFirmware (b : Block) (fw : Firmware) : Block :=
  { b with boot := { b.boot with fwVersion := fw.version, fwDigest := fw.digest, fwKey := fw.rootKey, setupKey := fw.setupKey } }

/-- Either test of step 4 that fails puts the block in the error state (R397, R399). -/
theorem fromStep3_testFailed {fw : Firmware} (valid : firmware ao b = some fw) (failed : (k.kat4 && k.pairwise) = false) :
    ∃ b1, fromStep3 mode k ao b = enterError b1 := by
  unfold fromStep3
  rw [valid]
  cases kat : k.kat4 with
  | false => exact ⟨_, rfl⟩
  | true =>
    rw [kat, Bool.true_and] at failed
    rw [failed]
    exact ⟨_, rfl⟩

theorem fromStep3_passed {fw : Firmware} (valid : firmware ao b = some fw) (kat : k.kat4 = true) (pairwise : k.pairwise = true) :
    fromStep3 mode k ao b = lateSteps mode k ao (drawKeys ao (fenceCores (withFirmware b fw) k.badCores)) := by
  unfold fromStep3
  rw [valid, kat, pairwise]
  rfl

/-! ### What steps 4 to 6 leave alone -/

theorem foldl_fence_boot (l : List Nat) (b : Block) :
    (l.foldl (fun b c => raise (b.setHealth .core c { state := .fenced }) 61 c) b).boot = b.boot := by
  induction l generalizing b with
  | nil => rfl
  | cons c l ih => rw [List.foldl_cons, ih, raise_boot, Block.setHealth_boot]

theorem fenceCores_boot (l : List Nat) : (fenceCores b l).boot = b.boot := foldl_fence_boot _ b

theorem drawKeys_boot : (drawKeys ao b).boot = b.boot := by
  unfold drawKeys
  cases inService ao with
  | false => rfl
  | true => cases deviceSeed ao <;> rfl

theorem drawKeys_drbgOn : (drawKeys ao b).sec.drbgOn = true := by
  unfold drawKeys
  cases inService ao with
  | false => rfl
  | true => cases deviceSeed ao <;> rfl

theorem foldl_fenceBank_keeps (l : List Nat) (b : Block) :
    (l.foldl (fun b r => b.setHealth .region r { state := .fenced }) b).boot = b.boot ∧
      (l.foldl (fun b r => b.setHealth .region r { state := .fenced }) b).sec = b.sec := by
  induction l generalizing b with
  | nil => exact ⟨rfl, rfl⟩
  | cons r l ih => exact ih _

theorem foldl_raiseRow_keeps (l : List (Nat × Nat)) (b : Block) :
    (l.foldl (fun b e => raise b 8 e.1 (detail := e.2)) b).boot = b.boot ∧
      (l.foldl (fun b e => raise b 8 e.1 (detail := e.2)) b).sec = b.sec := by
  induction l generalizing b with
  | nil => exact ⟨rfl, rfl⟩
  | cons e l ih => exact ih _

theorem march_keeps (rep failing : List (Nat × Nat)) :
    (march mode rep failing b).1.boot = b.boot ∧ (march mode rep failing b).1.sec = b.sec := by
  unfold march
  dsimp only
  rw [(foldl_raiseRow_keeps _ _).1, (foldl_raiseRow_keeps _ _).2, (foldl_fenceBank_keeps _ _).1, (foldl_fenceBank_keeps _ _).2]
  split <;> exact ⟨rfl, rfl⟩

/-- Choosing the setup image leaves what the negotiation is begun with: the firmware, the DRBG and the march done. -/
theorem chooseImage_keeps :
    (chooseImage ao b).boot.fwVersion = b.boot.fwVersion ∧ (chooseImage ao b).boot.fwDigest = b.boot.fwDigest ∧
      (chooseImage ao b).boot.destructive = b.boot.destructive ∧ (chooseImage ao b).sec = b.sec := by
  unfold chooseImage
  dsimp only
  split
  · exact ⟨rfl, rfl, rfl, rfl⟩
  · split <;> exact ⟨rfl, rfl, rfl, rfl⟩

/-- The rows that fail the march, as step 5 counts them. -/
def failingRows (k : StartIn) : List (Nat × Nat) :=
  (k.badRows.filter fun e => decide (e.1 < 6) && decide (e.2 < rowCount e.1)).eraseDups

/-- Whether a march stops the start rests on its rows alone. -/
theorem march_stop (rep failing : List (Nat × Nat)) (b b' : Block) :
    (march mode rep failing b).2 = (march mode rep failing b').2 := rfl

/-- With the march good the start goes on to the negotiation (R65, R73). -/
theorem lateSteps_negotiates (good : (march mode (repairRows ao) (failingRows k) b).2 = false) :
    ∃ b1, lateSteps mode k ao b = beginNegotiation b1 ∧ b1.boot.fwVersion = b.boot.fwVersion ∧
      b1.boot.fwDigest = b.boot.fwDigest ∧ b1.boot.destructive = false ∧ b1.sec = b.sec := by
  obtain ⟨boot, sec⟩ := march_keeps (mode := mode) (b := b) (repairRows ao) (failingRows k)
  let m := (march mode (repairRows ao) (failingRows k) b).1
  obtain ⟨version, digest, marched, keys⟩ := chooseImage_keeps (ao := ao)
    (b := { m with boot := { m.boot with destructive := false } })
  refine ⟨chooseImage ao { m with boot := { m.boot with destructive := false } }, ?_, version.trans (congrArg (·.fwVersion) boot),
    digest.trans (congrArg (·.fwDigest) boot), marched, keys.trans sec⟩
  unfold lateSteps
  exact if_neg (by rw [Bool.not_eq_true]; exact good)

/-- With every test good and the firmware valid the start reaches the negotiation of step 7 with both. -/
theorem fromStep3_negotiates {fw : Firmware} (valid : firmware ao b = some fw) (kat : k.kat4 = true) (pairwise : k.pairwise = true)
    (good : (march mode (repairRows ao) (failingRows k) b).2 = false) :
    ∃ b1, fromStep3 mode k ao b = beginNegotiation b1 ∧ b1.boot.fwVersion = fw.version ∧ b1.boot.fwDigest = fw.digest ∧
      b1.sec.drbgOn = true ∧ b1.boot.destructive = false := by
  have boot : (drawKeys ao (fenceCores (withFirmware b fw) k.badCores)).boot = (withFirmware b fw).boot :=
    drawKeys_boot.trans (fenceCores_boot _)
  obtain ⟨b1, reached, version, digest, marched, sec⟩ := lateSteps_negotiates (ao := ao) (k := k)
    (b := drawKeys ao (fenceCores (withFirmware b fw) k.badCores)) ((march_stop _ _ _ b).trans good)
  rw [boot] at version digest
  exact ⟨b1, (fromStep3_passed valid kat pairwise).trans reached, version, digest, sec ▸ drawKeys_drbgOn, marched⟩

end

/-- Settles O11: a branch of `bootSteps` for each way step 2 ends, then one of `fromStep3` for steps 3 to 6. -/
theorem bootStepsEnd : Obligations.BootStepsEnd := by
  unfold Obligations.BootStepsEnd
  intro mode k ao b
  refine ⟨fun scrapped => ?_, fun alive failed => ?_, fun alive kat failed => ?_, fun alive kat health bad => ?_,
    fun alive kat health seed => ⟨fun unserved => ?_, fun served invalid => ?_, fun fw served valid => ⟨fun failed => ?_,
      fun kat4 pairwise good => ?_⟩⟩⟩
  · rw [bootSteps_scrapped scrapped, bootFail_stage]
  · rw [bootSteps_katFailed alive failed]
    exact ⟨enterError_stage _, enterError_keys _, enterError_chan_reset _⟩
  · rw [bootSteps_healthFailed alive kat failed, enterError_stage]
  · rw [bootSteps_seedBad alive kat health bad, bootFail_stage]
  · rw [bootSteps_waits alive kat health seed unserved]
    exact ⟨rfl, rfl⟩
  · rw [bootSteps_served alive kat health seed served, fromStep3_noFirmware invalid, bootFail_stage]
  · obtain ⟨b1, ended⟩ := fromStep3_testFailed (mode := mode) valid failed
    rw [bootSteps_served alive kat health seed served, ended, enterError_stage]
  · rw [bootSteps_served alive kat health seed served]
    exact fromStep3_negotiates valid kat4 pairwise good

end Sys2Proof.Machine
end

section
/-! SUPPORT. A power-domain request before step 6 has ended (R34, R70). -/

namespace Sys2Proof.Machine

theorem exec_pdReq (d : Nat) (s : State) : exec (.pdReq d) s = .next (s.after (pdReq d s.b)) := rfl

/-- While CT is clamped nothing samples pd_req (R34). -/
theorem pdReq_clamped {b : Block} {d : Nat} (clamped : ctUp b = false) : pdReq d b = b :=
  if_pos (by simp [clamped])

/-- Before step 6 has ended an idle domain's request rises and is acknowledged at once (R70). -/
theorem pdReq_early {b : Block} {d : Nat} (hd : d < 16) (early : b.boot.stage < 7) (idle : b.pdom d = {}) (up : ctUp b = true) :
    pdReq d b = (b.setPdom d { req := true, ack := false, drain := true }).setPdom d { req := true, ack := true, drain := false } := by
  have notFailed : b.boot.stage ≠ 0xF := by omega
  simp [pdReq, idle, up, notFailed, early, ackDomain, Nat.not_le.2 hd]

theorem PDom.eq_idle {x : PDom} (req : x.req = false) (ack : x.ack = false) (drain : x.drain = false) : x = {} := by
  cases x
  simp_all

/-- Settles O17: the two branches of `pdReq` by whether CT drives its outputs. -/
theorem earlyDomainAcknowledged : Obligations.EarlyDomainAcknowledged := by
  unfold Obligations.EarlyDomainAcknowledged
  intro s d hd early req ack drain
  refine ⟨fun up => ?_, fun clamped => ?_⟩
  · rw [exec_pdReq, pdReq_early hd early (PDom.eq_idle req ack drain) up]
  · rw [exec_pdReq, pdReq_clamped clamped]

end Sys2Proof.Machine
end

section
/-! SUPPORT. What a link port loses when it goes down (R81, R329, R394). -/

namespace Sys2Proof.Machine

/-- The block with a port dropped, source 45 raised and the ring cleared of what was on its way to the port, before the
writes given back are sent again. -/
def portDropped (b : Block) (p : Nat) : Block :=
  (ringGiveBack (raise (b.setLink p (dropPort (b.link p))) 45 p (status := .linkDown)) p).2

theorem ringGiveBack_link (b : Block) (p q : Nat) : (ringGiveBack b p).2.link q = b.link q := rfl

theorem portDropped_link (b : Block) (p : Nat) : (portDropped b p).link p = dropPort (b.link p) :=
  (ringGiveBack_link _ p p).trans (Block.setLink_link b p (dropPort (b.link p)))

theorem portDropped_link_other (b : Block) {p q : Nat} (other : q ≠ p) : (portDropped b p).link q = b.link q :=
  (ringGiveBack_link _ p q).trans (Block.setLink_link_other b p (dropPort (b.link p)) q other)

/-- Settles O22: the dropped port, and what `linkDown` then sends again. -/
theorem linkGoesDown : Obligations.LinkGoesDown := by
  unfold Obligations.LinkGoesDown
  intro b p
  refine ⟨portDropped b p, rfl, ?_⟩
  rw [portDropped_link]
  exact ⟨rfl, rfl, rfl, rfl, rfl, rfl, rfl, rfl, ⟨_, rfl, rfl, rfl⟩, fun q other => portDropped_link_other b other⟩

end Sys2Proof.Machine
end

section
/-! SUPPORT. Mailboxes and doorbells before READY_LOCAL (R74). -/

namespace Sys2Proof.Machine

theorem exec_registerWrite (a : Nat) (w : CtlWrite) (s : State) : exec (.registerWrite a w) s =
    .next (s.after (if ownRow a then s.b else access a w (plainWrite a w) s.ao s.b)) := rfl

theorem exec_submissionTail (a : Nat) (w : CtlWrite) (s : State) : exec (.submissionTail a w) s =
    .next (s.after (if inBell a && !firstKind a w then access a w (ringBells a w) s.ao s.b else s.b)) := rfl

theorem exec_completionHead (a : Nat) (w : CtlWrite) (s : State) : exec (.completionHead a w) s =
    .next (s.after (if inBell a && firstKind a w then access a w (ringBells a w) s.ao s.b else s.b)) := rfl

/-- The range of a mailbox or doorbell register holds no other register. -/
theorem ranges_of_inMbox {a : Nat} (h : inMbox a = true) : inPriv a = false ∧ inBell a = false ∧ ownRow a = false ∧ a ≠ 0x70 := by
  simp [inMbox, inPriv, inBell, ownRow] at *; omega

theorem ranges_of_inPriv {a : Nat} (h : inPriv a = true) : ownRow a = false ∧ a ≠ 0x70 := by
  simp [inPriv, inBell, ownRow] at *; omega

/-- Before READY_LOCAL the port is closed to every mailbox and doorbell, but for the privileged mailbox in the error state
(R74, R399). -/
theorem portClosed_notReady {b : Block} {a : Nat} (w : CtlWrite) (notReady : readyLocal b = false) (notP3Register : a ≠ 0x70)
    (range : (inMbox a || inBell a || inPriv a) = true) (unserved : inPriv a = false ∨ errorState b = false) :
    portClosed b a w = true := by
  have refused : errorState b = true → errorServes b a w = false := by
    intro failed
    simp [errorServes, unserved.resolve_right (by simp [failed])]
  unfold portClosed
  split
  · rfl
  · split
    · next failed => rw [refused failed]; rfl
    · split
      · simpa using notP3Register
      · rw [notReady, range]; rfl

/-- A closed port answers DOMAIN_OFF and changes nothing but its response. -/
theorem access_closed {a : Nat} {w : CtlWrite} {k : AO → Block → Except Status Block} {ao : AO} {b : Block}
    (up : ctUp b = true) (aligned : a % 8 = 0) (mapped : a < 2 ^ 20) (vi : w.vi < 256) (closed : portClosed b a w = true) :
    access a w k ao b = respond b .domainOff :=
  access_refused up aligned mapped vi (if_pos closed)

/-- Settles O30: the port is closed to each of the three rows. -/
theorem mailboxBeforeReady : Obligations.MailboxBeforeReady := by
  unfold Obligations.MailboxBeforeReady
  intro s a w up aligned mapped vi notReady
  have bellClosed : inBell a = true → portClosed s.b a w = true := fun bell =>
    have ⟨_, _, notPriv, _, _⟩ := ranges_of_inBell bell
    portClosed_notReady w notReady (by rintro rfl; exact absurd bell (by decide)) (by simp [bell]) (.inl notPriv)
  refine ⟨?_, fun bell kind => ?_, fun bell kind => ?_⟩
  · rintro (mbox | ⟨priv, noError⟩)
    · obtain ⟨notPriv, -, notOwn, notP3⟩ := ranges_of_inMbox mbox
      rw [exec_registerWrite, if_neg (by simp [notOwn]), access_closed up aligned mapped vi
        (portClosed_notReady w notReady notP3 (by simp [mbox]) (.inl notPriv))]
    · obtain ⟨notOwn, notP3⟩ := ranges_of_inPriv priv
      rw [exec_registerWrite, if_neg (by simp [notOwn]), access_closed up aligned mapped vi
        (portClosed_notReady w notReady notP3 (by simp [priv]) (.inr noError))]
  · rw [exec_submissionTail, if_pos (by simp [bell, kind]), access_closed up aligned mapped vi (bellClosed bell)]
  · rw [exec_completionHead, if_pos (by simp [bell, kind]), access_closed up aligned mapped vi (bellClosed bell)]

end Sys2Proof.Machine
end

section
/-! SUPPORT. Sessions of a link port (R80, R89, R391 to R394): one equation per outcome of each message, over the block
without the message. -/

namespace Sys2Proof.Machine

/-! ### What an egress leaves alone -/

theorem Block.ask_links (b : Block) (key r : Nat) (w : Nat → Nat) : (b.ask key r w).links = b.links := by
  unfold Block.ask
  dsimp only
  split <;> rfl

theorem foldl_ask_links (p : Nat) (fs : List Flit) (b : Block) :
    (fs.foldl (fun b f => if f.vc = vcMgmt then b else b.ask (arbEgress p) f.vc egressWeight) b).links = b.links := by
  induction fs generalizing b with
  | nil => rfl
  | cons f fs ih =>
    rw [List.foldl_cons, ih]
    split
    · rfl
    · exact Block.ask_links b _ _ _

/-- A message queued at a port changes that port's egress alone. -/
theorem enqueue_link (b : Block) (p : Nat) (fs : List Flit) : (enqueue b p fs).link p = fs.foldl Link.push (b.link p) := by
  unfold enqueue Block.modLink
  rw [Block.setLink_link, Block.link, foldl_ask_links]
  rfl

theorem Link.foldl_push_keeps (fs : List Flit) (l : Link) :
    (fs.foldl Link.push l).sess = l.sess ∧ (fs.foldl Link.push l).epoch = l.epoch := by
  induction fs generalizing l with
  | nil => exact ⟨rfl, rfl⟩
  | cons f fs ih => exact ih (l.push f)

theorem sendNeighbour_sess (b : Block) (p mtype : Nat) (body : Bytes) :
    ((sendNeighbour b p mtype body).link p).sess = (b.link p).sess := by
  rw [sendNeighbour, enqueue_link, (Link.foldl_push_keeps _ _).1]

theorem sendNeighbour_epoch (b : Block) (p mtype : Nat) (body : Bytes) :
    ((sendNeighbour b p mtype body).link p).epoch = (b.link p).epoch := by
  rw [sendNeighbour, enqueue_link, (Link.foldl_push_keeps _ _).2]

theorem sessionFailed_sess (b : Block) (p : Nat) : ((sessionFailed b p).link p).sess = { waitRetry := true } := by
  rw [sessionFailed, Block.modLink, Block.setLink_link]

/-! ### The rows -/

theorem exec_capability (p : Nat) (s : State) : exec (.capability p) s = .next (s.after (capability p s.ao s.b)) := rfl
theorem exec_sessionInit (p : Nat) (s : State) : exec (.sessionInit p) s = .next (s.after (sessionInit p s.ao s.b)) := rfl
theorem exec_sessionResp (p : Nat) (s : State) : exec (.sessionResp p) s = .next (s.after (sessionResp p s.ao s.b)) := rfl
theorem exec_sessionFin (p : Nat) (s : State) : exec (.sessionFin p) s = .next (s.after (sessionFin p s.ao s.b)) := rfl
theorem exec_sessionTimeout (p : Nat) (s : State) : exec (.sessionTimeout p) s = .next (s.after (sessionTimeout p s.b)) := rfl
theorem exec_sessionRetry (p : Nat) (s : State) : exec (.sessionRetry p) s = .next (s.after (sessionRetry p s.ao s.b)) := rfl

section
variable {ao : AO} {b0 b : Block} {p src : Nat} {m : Bytes}

/-! ### CAPABILITY (R80) -/

section
variable (taken : takeMsg b0 p mtCapability = some ((src, m), b)) (phase : (b.link p).phase = .exchange)
  (first : (b.link p).peerCap = none) (valid : bitOf (fieldAt m 0 8) 12 = true)
include taken phase first valid

/-- The wrong chip is an ID mismatch. -/
theorem capability_mismatch (image : b.boot.active.isSome = true) (known : b.setup.neighbours.getD p 0xFFFF ≠ 0xFFFF)
    (wrong : b.setup.neighbours.getD p 0xFFFF ≠ bitsOf (fieldAt m 0 8) 31 16) :
    capability p ao b0 =
      raise (b.setLink p { b.link p with peerCap := some (fieldAt m 0 8), mismatch := true }) 49 p (status := .route) := by
  unfold capability
  rw [taken]
  dsimp only
  rw [if_neg (by simp [phase, first]), if_neg (by simp [valid]), if_pos (by simpa [image] using ⟨known, wrong⟩)]

/-- A word that agrees with the port's settings opens the session phase. -/
theorem capability_agrees (noImage : b.boot.active = none)
    (lanes : lanesFrom (bitsOf (fieldAt m 0 8) 7 4) (b.link p).narrow = some (b.link p).lanes)
    (fast : bitsOf (fieldAt m 0 8) 9 9 = 1) (rate : (b.link p).rate = 1) (fec : (b.link p).fec = 0) :
    capability p ao b0 =
      startSession ao (b.setLink p { b.link p with peerCap := some (fieldAt m 0 8), phase := .session }) p := by
  have offersRate : bitsOf (fieldAt m 0 8) 9 8 ≠ 0 := by
    simp only [bitsOf] at fast ⊢
    omega
  unfold capability
  rw [taken]
  simp [phase, first, valid, noImage, lanes, fast, rate, fec, offersRate, b2n]

end

/-! ### SESSION_INIT (R391) -/

section
variable (taken : takeMsg b0 p mtInit = some ((src, m), b)) (phase : (b.link p).phase = .session)
  (fresh : (b.link p).sess.established = false) (notWaiting : (b.link p).sess.waitRetry = false)
  (responder : isInitiator b (b.link p) = false) {w : Nat} (peer : (b.link p).peerCap = some w)
  (other : bitsOf w 31 16 ≠ b.setup.chipId) (serves : inService ao = true) (cert : b.sec.cert.isSome = true)
include taken phase fresh notWaiting responder peer other serves cert

theorem sessionInit_bad (bad : certOk b (b.link p) (sliceAt m 0 4675) (sliceAt m 4675 2592) = false) :
    sessionInit p ao b0 = sessionFailed b p := by
  unfold sessionInit
  rw [taken]
  have noCert : b.sec.cert.isNone = false := by simpa using cert
  simp [phase, fresh, notWaiting, responder, peer, other, serves, noCert, bad]

theorem sessionInit_good (good : certOk b (b.link p) (sliceAt m 0 4675) (sliceAt m 4675 2592) = true) :
    ((sessionInit p ao b0).link p).sess.started = true ∧
      ((sessionInit p ao b0).link p).sess.initMsg = mgmtBytes mtInit m ∧
      ((sessionInit p ao b0).link p).sess.established = false := by
  unfold sessionInit
  rw [taken]
  have noCert : b.sec.cert.isNone = false := by simpa using cert
  have goesOn : ((b.link p).phase != .session || (b.link p).sess.established || (b.link p).sess.waitRetry ||
      isInitiator b (b.link p) || bitsOf w 31 16 == b.setup.chipId || !inService ao || b.sec.cert.isNone) = false := by
    simp [phase, fresh, notWaiting, responder, other, serves, noCert]
  simp only [peer, goesOn, good, Bool.not_true, Bool.false_eq_true, if_false, sendNeighbour_sess, Block.modLink,
    Block.setLink_link, and_self]

end

/-! ### SESSION_RESP (R391, R393) -/

section
variable (taken : takeMsg b0 p mtResp = some ((src, m), b)) (phase : (b.link p).phase = .session)
  (fresh : (b.link p).sess.established = false) (started : (b.link p).sess.started = true)
  (initiator : isInitiator b (b.link p) = true)
include taken phase fresh started initiator

/-- Whether the initiator's checks of a SESSION_RESP pass. -/
def respOk (b : Block) (p : Nat) (m : Bytes) : Bool :=
  certOk b (b.link p) (sliceAt m 0 4675) (sliceAt m 4675 2592) &&
    Config.mldsaVerify (sliceAt m 4675 2592)
      (transcriptOf b p (b.link p) (b.link p).sess.initMsg (mgmtBytes mtResp m)) (sliceAt m 8867 4627)

theorem sessionResp_bad (bad : respOk b p m = false) : sessionResp p ao b0 = sessionFailed b p := by
  unfold sessionResp
  rw [taken]
  dsimp only
  rw [if_neg (by simp [phase, fresh, started, initiator]), if_pos (by rw [← Bool.not_and]; exact congrArg not bad)]

theorem sessionResp_good (good : respOk b p m = true) : ∃ b1, sessionResp p ao b0 = enterReady b1 p ∧
    (b1.link p).sess.established = true ∧
    (b1.link p).sess.secret = Config.mlkemDecaps (b.link p).sess.dk (sliceAt m 7267 1568) ∧
    (b1.link p).sess.dk = [] ∧ (b1.link p).epoch = ((b.link p).epoch + 1) % 256 := by
  unfold sessionResp
  rw [taken]
  dsimp only
  rw [if_neg (by simp [phase, fresh, started, initiator]), if_neg (by simpa [respOk] using good)]
  refine ⟨_, rfl, ?_⟩
  simp only [Block.modLink, Block.setLink_link, Link.newSession, sendNeighbour_epoch]
  exact ⟨trivial, trivial, trivial, rfl⟩

end

/-! ### SESSION_FIN (R391) -/

theorem sessionFin_checked (taken : takeMsg b0 p mtFin = some ((src, m), b)) (phase : (b.link p).phase = .session)
    (fresh : (b.link p).sess.established = false) (started : (b.link p).sess.started = true)
    (responder : isInitiator b (b.link p) = false) :
    sessionFin p ao b0 =
      if Config.mldsaVerify (sliceAt (b.link p).sess.initMsg (8 + 4675) 2592)
          (Crypto.sha3_256 ((b.link p).sess.transcript ++ sliceAt (b.link p).sess.respMsg (8 + 8867) 4627)) m
      then enterReady (b.setLink p { b.link p with epoch := ((b.link p).epoch + 1) % 256
                                                   sess := { (b.link p).sess with established := true } }) p
      else sessionFailed b p := by
  unfold sessionFin
  rw [taken]
  dsimp only
  rw [if_neg (by simp [phase, fresh, started, responder])]
  cases Config.mldsaVerify (sliceAt (b.link p).sess.initMsg (8 + 4675) 2592)
    (Crypto.sha3_256 ((b.link p).sess.transcript ++ sliceAt (b.link p).sess.respMsg (8 + 8867) 4627)) m with
  | false => rw [if_pos (by decide), if_neg (by decide)]
  | true =>
    rw [if_neg (by decide), if_pos rfl]
    rfl

end

/-! ### SESSION_TIMEOUT and SESSION_RETRY (R394), LINK_READY (R80, R89) -/

theorem sessionTimeout_late {b : Block} {p : Nat} (phase : (b.link p).phase = .session)
    (started : (b.link p).sess.started = true) (fresh : (b.link p).sess.established = false) :
    sessionTimeout p b =
      raise (b.setLink p { b.link p with sess := { waitRetry := true } }) 47 p (status := .route) :=
  if_pos (by simp [phase, started, fresh])

theorem sessionRetry_waiting {ao : AO} {b : Block} {p : Nat} (phase : (b.link p).phase = .session)
    (waiting : (b.link p).sess.waitRetry = true) :
    sessionRetry p ao b = startSession ao (b.setLink p { b.link p with sess := {} }) p :=
  if_pos (by simp [phase, waiting])

theorem Block.setHealth_isFenced (b : Block) (kind : UnitKind) (n : Nat) (x : UnitHealth) :
    (b.setHealth kind n x).isFenced kind n = (x.state == .fenced) :=
  congrArg (fun h : UnitHealth => h.state == .fenced) (Tab.get_put_same _ _ _ _)

/-- The block with a port that a failed training had fenced in service again. -/
def unfenceLink (b : Block) (p : Nat) : Block :=
  if (b.health .link p).state == .fenced then b.setHealth .link p { b.health .link p with state := .inService } else b

theorem unfenceLink_keeps (b : Block) (p : Nat) : (unfenceLink b p).isFenced .link p = false ∧
    (unfenceLink b p).links = b.links ∧ (unfenceLink b p).ctxs = b.ctxs ∧ (unfenceLink b p).mem = b.mem := by
  unfold unfenceLink
  split
  · exact ⟨Block.setHealth_isFenced b .link p _, rfl, rfl, rfl⟩
  · next notFenced => exact ⟨Bool.eq_false_iff.2 notFenced, rfl, rfl, rfl⟩

theorem enterReady_eq (b : Block) (p : Nat) : enterReady b p =
    releaseAll ((unfenceLink b p).modLink p fun l => { l with phase := .ready, everReady := true }) := rfl

/-- A ready port is in service whatever fenced it, and nothing else has changed before what was held goes out. -/
theorem enterReady_releases (b : Block) (p : Nat) : ∃ b0, enterReady b p = releaseAll b0 ∧ (b0.link p).phase = .ready ∧
    (b0.link p).everReady = true ∧ b0.isFenced .link p = false ∧ (∀ q, q ≠ p → b0.link q = b.link q) ∧
    b0.ctxs = b.ctxs ∧ b0.mem = b.mem := by
  obtain ⟨inService, links, ctxs, mem⟩ := unfenceLink_keeps b p
  refine ⟨_, enterReady_eq b p, ?_, ?_, inService, fun q other => ?_, ctxs, mem⟩
  · rw [Block.modLink, Block.setLink_link]
  · rw [Block.modLink, Block.setLink_link]
  · rw [Block.modLink, Block.setLink_link_other _ _ _ _ other, Block.link, links, Block.link]

/-- Settles O26: the outcome of each message by its equation, and LINK_READY by `enterReady_releases`. -/
theorem sessions : Obligations.Sessions := by
  unfold Obligations.Sessions
  refine ⟨fun s p => ⟨fun src m b taken phase first valid => ⟨fun image known wrong => ?_, fun noImage lanes fast rate fec => ?_⟩,
    fun src m b taken phase fresh notWaiting responder peer serves cert => ?_,
    fun src m b taken phase fresh started initiator => ?_, fun src m b taken phase fresh started responder => ?_,
    fun phase started fresh => ?_, fun phase waiting => ?_⟩, enterReady_releases⟩
  · rw [exec_capability, capability_mismatch taken phase first valid image known wrong]
  · rw [exec_capability, capability_agrees taken phase first valid noImage lanes fast rate fec]
  · obtain ⟨w, peer, other⟩ := peer
    refine ⟨_, exec_sessionInit p s, ?_⟩
    split
    · next good => exact sessionInit_good taken phase fresh notWaiting responder peer other serves cert good
    · next bad =>
      rw [sessionInit_bad taken phase fresh notWaiting responder peer other serves cert
        (Bool.eq_false_iff.2 bad)]
      exact sessionFailed_sess b p
  · intro tr good
    refine ⟨exec_sessionResp p s, ?_⟩
    split
    · next passed => exact sessionResp_good taken phase fresh started initiator passed
    · next failed => exact sessionResp_bad taken phase fresh started initiator (Bool.eq_false_iff.2 failed)
  · intro x
    rw [exec_sessionFin, sessionFin_checked taken phase fresh started responder]
  · rw [exec_sessionTimeout, sessionTimeout_late phase started fresh]
  · rw [exec_sessionRetry, sessionRetry_waiting phase waiting]

end Sys2Proof.Machine
end

section
/-! SUPPORT. The Crypto Officer's services and DEBUG_UNLOCK (R379, R382 to R384): what the check of a token makes of a
command, then one equation per outcome of each service. -/

namespace Sys2Proof.Machine

theorem guarded_failed {b : Block} {st : Status} {x : Block × Done} {chk : Option Status} (h : chk = some st) :
    guarded b chk x = (b, .now st 0 0) := by
  rw [h]
  rfl

theorem guarded_passed {b : Block} {x : Block × Done} {chk : Option Status} (h : chk = none) : guarded b chk x = x := by
  rw [h]
  rfl

/-! ### Tokens (R382, R384) -/

section
variable {ao : AO} {b : Block} {c : Bytes} {r : Reply} {ty : Nat} {k : Cmd}

theorem withToken_good (h : tokenOk ao b c ty = .ok true) : withToken ty k ao b c r = k ao (newNonce b ty) c r := by
  unfold withToken
  rw [h]
  rfl

theorem withToken_bad (h : tokenOk ao b c ty = .ok false) :
    withToken ty k ao b c r = (securityRecord (newNonce b ty) .permission r.vi, .now .permission 0 0) := by
  unfold withToken
  rw [h]
  rfl

theorem withToken_held {va : Nat} (h : tokenOk ao b c ty = .error va) : withToken ty k ao b c r = (b, .lost .held va) := by
  unfold withToken
  rw [h]

theorem byOfficer_privileged (h : r.path = .privileged) : byOfficer k ao b c r = withToken 1 k ao b c r := by
  unfold byOfficer
  rw [h]

/-- By any other path an officer's service is refused (R379). -/
theorem byOfficer_other (h : r.path ≠ .privileged) : byOfficer k ao b c r = (b, .now .permission 0 0) := by
  unfold byOfficer
  split
  · next privileged => exact absurd privileged h
  · rfl

theorem newNonce_nonce (b : Block) (ty : Nat) : (newNonce b ty).sec.nonce =
    (drbg (notePa b b.rin.tokPa.toNat (if ty = 1 then 4755 else 7347)) 32).1 := rfl

end

/-! ### A service's row under its token -/

section
variable {op : Nat} {k : Cmd} {src : CmdSrc} {ao : AO} {b b' b2 kept : Block} {c : Bytes} {r : Reply}
  (taken : fetch b src op = .command b' c r kept) (path : r.path = .privileged)
include taken path

theorem serveRow_officer_bad (token : tokenOk ao b' c 1 = .ok false) : serveRow op (byOfficer k) src ao b =
    endCommand (securityRecord (newNonce b' 1) .permission r.vi) r .permission 0 0 :=
  serveRow_now taken ((byOfficer_privileged path).trans (withToken_bad token))

theorem serveRow_officer_held {va : Nat} (token : tokenOk ao b' c 1 = .error va) :
    serveRow op (byOfficer k) src ao b = pursue kept 256 r.vi va :=
  serveRow_held taken ((byOfficer_privileged path).trans (withToken_held token))

theorem serveRow_officer_now {st : Status} {res det : Nat} (token : tokenOk ao b' c 1 = .ok true)
    (done : k ao (newNonce b' 1) c r = (b2, .now st res det)) :
    serveRow op (byOfficer k) src ao b = endCommand b2 r st res det :=
  serveRow_now taken (((byOfficer_privileged path).trans (withToken_good token)).trans done)

theorem serveRow_officer_later (token : tokenOk ao b' c 1 = .ok true) (done : k ao (newNonce b' 1) c r = (b2, .later)) :
    serveRow op (byOfficer k) src ao b = recForget b2 256 :=
  serveRow_later taken (((byOfficer_privileged path).trans (withToken_good token)).trans done)

end

theorem exec_zeroise (src : CmdSrc) (s : State) :
    exec (.zeroise src) s = .next (s.after (serveRow 0x97 (byOfficer runZeroise) src s.ao s.b)) := rfl
theorem exec_lifecycleAdvance (src : CmdSrc) (s : State) :
    exec (.lifecycleAdvance src) s = .next (s.after (serveRow 0x98 (byOfficer runAdvance) src s.ao s.b)) := rfl
theorem exec_fwVersionRaise (src : CmdSrc) (s : State) :
    exec (.fwVersionRaise src) s = .next (s.after (serveRow 0x99 (byOfficer runRaise) src s.ao s.b)) := rfl
theorem exec_setupUpdate (src : CmdSrc) (s : State) :
    exec (.setupUpdate src) s = .next (s.after (serveRow 0x60 (byOfficer runSetupUpdate) src s.ao s.b)) := rfl
theorem exec_debugUnlock (src : CmdSrc) (s : State) :
    exec (.debugUnlock src) s = .next (s.after (serveRow 0x9A cmdDebugUnlock src s.ao s.b)) := rfl

/-- Each of the four services runs behind the officer's token. -/
theorem exec_officer {e : Instr × Nat} (h : e ∈ [(Instr.zeroise .privileged, 0x97), (.lifecycleAdvance .privileged, 0x98),
    (.fwVersionRaise .privileged, 0x99), (.setupUpdate .privileged, 0x60)]) :
    ∃ k, ∀ s, exec e.1 s = .next (s.after (serveRow e.2 (byOfficer k) .privileged s.ao s.b)) := by
  simp only [List.mem_cons, List.not_mem_nil, or_false] at h
  rcases h with rfl | rfl | rfl | rfl
  · exact ⟨_, exec_zeroise _⟩
  · exact ⟨_, exec_lifecycleAdvance _⟩
  · exact ⟨_, exec_fwVersionRaise _⟩
  · exact ⟨_, exec_setupUpdate _⟩

/-! ### The services under a good token -/

section
variable {ao : AO} {b : Block} {c : Bytes} {r : Reply}

/-- The step to PROVISIONED programs no seed where one is programmed (R401), and no other step programs one. -/
theorem runAdvance_moves
    (chk : check0 b c r .vi0 [(16, 16)] ((advances (lifeCycle ao)).contains (fieldAt c 16 1)) = none)
    (noSeed : lifeCycle ao ≠ 1 ∨ (seedBad ao = false ∧ (fieldAt c 16 1 ≠ 2 ∨ otpProgrammed ao.shadow 13 9 = true))) :
    runAdvance ao b c r = (orderStart (zeroSsps (toAo b (.fuse (fieldAt c 16 1 - 1)))), .later) := by
  have unchanged : (if lifeCycle ao = 1 && fieldAt c 16 1 = 2 then programSeed ao b else b) = b := by
    split
    · next toProvisioned =>
      simp only [Bool.and_eq_true, decide_eq_true_eq] at toProvisioned
      obtain ⟨-, other | programmed⟩ := noSeed.resolve_left (not_not_intro toProvisioned.1)
      · exact absurd toProvisioned.2 other
      · exact if_pos programmed
    · rfl
  have seedGood : ¬(lifeCycle ao = 1 && seedBad ao) = true := by
    simp only [Bool.and_eq_true, decide_eq_true_eq]
    rintro ⟨manufacture, bad⟩
    exact absurd bad (by simp [(noSeed.resolve_left (not_not_intro manufacture)).1])
  refine (guarded_passed chk).trans ?_
  rw [if_neg seedGood]
  simp only [unchanged]

/-- A DEVICE_SEED that reads badly is not taken to PROVISIONED (R439). -/
theorem runAdvance_seedBad
    (chk : check0 b c r .vi0 [(16, 16)] ((advances (lifeCycle ao)).contains (fieldAt c 16 1)) = none)
    (manufacture : lifeCycle ao = 1) (bad : seedBad ao = true) : runAdvance ao b c r = (b, .now .uncorrectable 0 0) := by
  refine (guarded_passed chk).trans (if_pos ?_)
  simp [manufacture, bad]

section
variable {img : Bytes}
  (chk : check0 b c r .vi0 [(16, 27)] (decide (4736 ≤ fieldAt c 24 4) && decide (fieldAt c 24 4 ≤ 4194304)) = none)
  (image : readPa b (fieldAt c 16 8) (fieldAt c 24 4) = .ok img)
include chk image

theorem runSetupUpdate_invalid {b2 : Block} (noted : b2 = notePa b (fieldAt c 16 8) (fieldAt c 24 4))
    (invalid : validImage b2.boot.setupKey img = none) : runSetupUpdate ao b c r = (b2, .now .digestMismatch 0 0) := by
  subst noted
  refine (guarded_passed chk).trans ?_
  simp only [image, invalid]

/-- An image that is not later than the active one (R87). -/
theorem runSetupUpdate_notLater {b2 : Block} (noted : b2 = notePa b (fieldAt c 16 8) (fieldAt c 24 4))
    (valid : (validImage b2.boot.setupKey img).isSome = true) (active : b2.boot.active.isSome = true)
    (old : laterThan (fieldAt img 4 4) b2.boot.seq = false) :
    runSetupUpdate ao b c r = (securityRecord b2 .writeOnce r.vi, .now .writeOnce 0 0) := by
  subst noted
  obtain ⟨l, valid⟩ := Option.isSome_iff_exists.1 valid
  refine (guarded_passed chk).trans ?_
  simp only [image, valid, active, old, Bool.not_false, Bool.and_self, if_true]

/-- A later image is written to the slot that is not active and read back. -/
theorem runSetupUpdate_written {b2 b3 : Block} {slot : Nat} (noted : b2 = notePa b (fieldAt c 16 8) (fieldAt c 24 4))
    (free : slot = if b2.boot.active = some 0 then 1 else 0)
    (valid : (validImage b2.boot.setupKey img).isSome = true)
    (later : b2.boot.active = none ∨ laterThan (fieldAt img 4 4) b2.boot.seq = true)
    (written : slotWrite (fieldAt c 24 4 / 256 + 1) (slotBase slot) img b2 = (b3, none))
    (readBack : slotReadBack b3 (slotBase slot) (fieldAt c 24 4) = none) :
    runSetupUpdate ao b c r = (b3, .now .ok slot 0) := by
  subst noted
  obtain ⟨l, valid⟩ := Option.isSome_iff_exists.1 valid
  have newer : ((notePa b (fieldAt c 16 8) (fieldAt c 24 4)).boot.active.isSome &&
      !laterThan (fieldAt img 4 4) (notePa b (fieldAt c 16 8) (fieldAt c 24 4)).boot.seq) = false := by
    rcases later with none | late
    · simp [none]
    · simp [late]
  refine (guarded_passed chk).trans ?_
  simp only [image, valid, newer, Bool.false_eq_true, if_false]
  rcases active : (notePa b (fieldAt c 16 8) (fieldAt c 24 4)).boot.active with _ | _ | n <;>
  · simp only [active, reduceCtorEq, Option.some.injEq, Nat.add_one_ne_zero, if_true, if_false] at free
    subst free
    simp only [written, readBack]

end

/-! ### DEBUG_UNLOCK (R383, R447) -/

theorem cmdDebugUnlock_tenant (h : r.vi ≠ 0) : cmdDebugUnlock ao b c r = (b, .now .permission 0 0) := if_pos h

theorem cmdDebugUnlock_host (h : r.vi = 0) : cmdDebugUnlock ao b c r = withToken 2 runUnlock ao b c r := if_neg (not_not_intro h)

theorem runUnlock_closed {p : Bytes} (policy : otpBody ao 0xA = some p) (refused : unlockAllowed ao b p = false) :
    runUnlock ao b c r = (b, .now .permission 0 0) := by
  unfold runUnlock
  simp only [policy, refused, Bool.not_false, if_true]

theorem runUnlock_open {p : Bytes} (policy : otpBody ao 0xA = some p) (allowed : unlockAllowed ao b p = true)
    (chk : check0 b c r .vi0 [] true = none) :
    runUnlock ao b c r = ({ b with regs := { b.regs with
      dbgUnlocked := true
      dbgUntil := if fieldAt p 32 2 = 0 then none else some (ao.aotime.toNat + fieldAt p 32 2 * perMs)
      dbgMask := fieldAt p 40 8 } }, .now .ok 0 0) := by
  unfold runUnlock
  simp only [policy, allowed, Bool.not_true, Bool.false_eq_true, if_false, guarded_passed chk]

end

/-- The last granule of an image, cut short, goes to its channel as it stands (R87). -/
theorem slotWrite_last {b : Block} {ch pa : Nat} (n : Nat) {d : Bytes} (steered : channelOf b pa = some ch)
    (inService : chanStatus b 256 ch (pa / 256) = none) (served : domStatus b ch pa = none) (nonempty : d ≠ [])
    (short : d.length < 256) :
    slotWrite (n + 2) pa d b = (memWrite b ch pa d, none) := by
  cases d with
  | nil => exact absurd rfl nonempty
  | cons x xs =>
    have rest : (x :: xs).drop 256 = [] := List.drop_eq_nil_of_le (Nat.le_of_lt short)
    have whole : (x :: xs).take 256 = x :: xs := List.take_of_length_le (Nat.le_of_lt short)
    rw [slotWrite.eq_def]
    simp only [steered, inService, served, Option.or_none, rest, whole, short, if_true]
    rw [slotWrite.eq_def]

/-- Settles O45: each service's outcome behind the officer's token, and DEBUG_UNLOCK's behind its own. -/
theorem officerServices : Obligations.OfficerServices := by
  unfold Obligations.OfficerServices
  refine ⟨fun ao b c r k => ⟨fun path => ?_, byOfficer_other, newNonce_nonce b⟩, fun s b kept c r path => ⟨?_, fun token => ?_⟩,
    fun b ch pa n d => slotWrite_last n, fun s src b kept c r taken => ⟨fun tenant => ?_, fun host token => ?_, fun host token => ?_⟩⟩
  · rw [byOfficer_privileged path]
    exact ⟨withToken_good, withToken_bad, fun va => withToken_held⟩
  · intro e listed taken
    obtain ⟨k, run⟩ := exec_officer listed
    refine ⟨fun token => ?_, fun va token => ?_⟩
    · rw [run, serveRow_officer_bad taken path token]
    · rw [run, serveRow_officer_held taken path token]
  · refine ⟨fun taken => ⟨fun st chk => ?_, fun chk => ?_⟩, fun taken => ⟨fun st chk => ?_, fun chk manufacture bad => ?_,
      fun chk noSeed => ?_⟩, fun taken => ⟨fun st chk => ?_, fun chk => ?_⟩, fun taken => ⟨fun st chk => ?_,
        fun img chk image => ⟨fun invalid => ?_, fun valid active old => ?_, fun b3 valid later written readBack => ?_⟩⟩⟩
    · rw [exec_zeroise, serveRow_officer_now taken path token (guarded_failed chk)]
    · rw [exec_zeroise, serveRow_officer_later taken path token (guarded_passed chk)]
    · rw [exec_lifecycleAdvance, serveRow_officer_now taken path token (guarded_failed chk)]
    · rw [exec_lifecycleAdvance, serveRow_officer_now taken path token (runAdvance_seedBad chk manufacture bad)]
    · rw [exec_lifecycleAdvance, serveRow_officer_later taken path token (runAdvance_moves chk noSeed)]
    · rw [exec_fwVersionRaise, serveRow_officer_now taken path token (guarded_failed chk)]
    · rw [exec_fwVersionRaise, serveRow_officer_now taken path token (guarded_passed chk)]
    · rw [exec_setupUpdate, serveRow_officer_now taken path token (guarded_failed chk)]
    · rw [exec_setupUpdate, serveRow_officer_now taken path token (runSetupUpdate_invalid chk image rfl invalid)]
    · rw [exec_setupUpdate, serveRow_officer_now taken path token (runSetupUpdate_notLater chk image rfl valid active old)]
    · rw [exec_setupUpdate,
        serveRow_officer_now taken path token (runSetupUpdate_written chk image rfl rfl valid later written readBack)]
  · rw [exec_debugUnlock, serveRow_now taken (cmdDebugUnlock_tenant tenant)]
  · rw [exec_debugUnlock, serveRow_now taken ((cmdDebugUnlock_host host).trans (withToken_bad token))]
  · have behind : cmdDebugUnlock s.ao b c r = runUnlock s.ao (newNonce b 2) c r :=
      (cmdDebugUnlock_host host).trans (withToken_good token)
    refine ⟨fun p policy allowed chk => ?_, fun p policy refused => ?_⟩
    · rw [exec_debugUnlock, serveRow_now taken (behind.trans (runUnlock_open policy allowed chk))]
    · rw [exec_debugUnlock, serveRow_now taken (behind.trans (runUnlock_closed policy refused))]

end Sys2Proof.Machine
end

section
/-! SUPPORT. The row of a Rinlin command: how its handler's outcome ends the row (R90, R93, R104). -/

namespace Sys2Proof.Machine

section
variable {i : Instr} {op : Nat} {k : Cmd} {src : CmdSrc} {s : State} {b kept b2 : Block} {c : Bytes} {r : Reply}
  (row : exec i s = lift (serveRow op k src) s) (taken : fetch s.b src op = .command b c r kept)
include row taken

/-- A row whose handler ends its command at once completes it. -/
theorem exec_row_now {st : Status} {res det : Nat} (done : k s.ao b c r = (b2, .now st res det)) :
    exec i s = .next (s.after (endCommand b2 r st res det)) := by
  rw [row, lift_eq, serveRow_now taken done]

/-- A row whose handler owes the completion leaves the block as the handler does. -/
theorem exec_row_later (done : k s.ao b c r = (b2, .later)) : exec i s = .next (s.after (recForget b2 256)) := by
  rw [row, lift_eq, serveRow_later taken done]

/-- A row one of whose records cannot be accessed ends with the status and the address of that access. -/
theorem exec_row_lost {st : Status} {va : Nat} (done : k s.ao b c r = (b2, .lost st va)) (failed : st ≠ .held) :
    exec i s = .next (s.after (lostCommand b2 r st va)) := by
  rw [row, lift_eq, serveRow_lost taken done failed]

/-- A row one of whose records is held waits at its source. -/
theorem exec_row_held {va : Nat} (done : k s.ao b c r = (b2, .lost .held va)) :
    exec i s = .next (s.after (pursue kept 256 r.vi va)) := by
  rw [row, lift_eq, serveRow_held taken done]

end

end Sys2Proof.Machine
end

section
/-! SUPPORT. The check order of a command (R104): which check decides, and that a refused command has no other effect. -/

namespace Sys2Proof.Machine

/-- The first check of R104 that fails decides the status. -/
theorem check_some_iff {b : Block} {c : Bytes} {r : Reply} {who : Issuer} {target : Option Status} {epoch : Nat}
    {used : List (Nat × Nat)} {operands : Bool} {st : Status} : check b c r who target epoch used operands = some st ↔
      (who.ok r.vi = false ∧ st = .permission) ∨
      (who.ok r.vi = true ∧ cmdGen c ≠ (b.vinst r.vi).gen ∧ st = .instanceReset) ∨
      (who.ok r.vi = true ∧ cmdGen c = (b.vinst r.vi).gen ∧ target = some st) ∨
      (who.ok r.vi = true ∧ cmdGen c = (b.vinst r.vi).gen ∧ target = none ∧ cmdEpoch c ≠ epoch ∧ st = .staleRole) ∨
      (who.ok r.vi = true ∧ cmdGen c = (b.vinst r.vi).gen ∧ target = none ∧ cmdEpoch c = epoch ∧
        (reservedOk c used && operands) = false ∧ st = .bounds) := by
  unfold check
  by_cases issuer : who.ok r.vi = true
  · by_cases generation : cmdGen c = (b.vinst r.vi).gen
    · cases target with
      | some refusal => simp [issuer, generation]
      | none =>
        by_cases role : cmdEpoch c = epoch
        · cases reservedOk c used <;> cases operands <;>
            simp [issuer, generation, role, eq_comm (b := st)]
        · simp [issuer, generation, role, eq_comm (b := st)]
    · simp [issuer, generation, eq_comm (b := st)]
  · simp [issuer, eq_comm (b := st)]

/-- With no check of R104 failing, the operands are in their ranges. -/
theorem operands_of_check_none {b : Block} {c : Bytes} {r : Reply} {who : Issuer} {target : Option Status} {epoch : Nat}
    {used : List (Nat × Nat)} {operands : Bool} (passed : check b c r who target epoch used operands = none) :
    operands = true := by
  unfold check at passed
  (repeat' split at passed) <;> simp_all

/-- A guarded outcome is its check's refusal, or stands behind a check that passed. -/
theorem guarded_cases {b : Block} {chk : Option Status} {x y : Block × Done} (done : guarded b chk x = y) :
    (∃ st, chk = some st ∧ y = (b, .now st 0 0)) ∨ (chk = none ∧ x = y) := by
  cases chk with
  | some st => exact .inl ⟨st, rfl, done.symm⟩
  | none => exact .inr ⟨rfl, done⟩

/-! ### NOP and the reserved opcodes -/

theorem cmdNop_reserved {ao : AO} {b : Block} {c : Bytes} {r : Reply} (reserved : listedOpcodes.contains (fieldAt c 0 1) = false) :
    cmdNop ao b c r = (b, .now .badOpcode 0 0) :=
  if_pos (by rw [reserved]; rfl)

theorem cmdNop_listed {ao : AO} {b : Block} {c : Bytes} {r : Reply} (listed : listedOpcodes.contains (fieldAt c 0 1) = true) :
    cmdNop ao b c r = guarded b (check0 b c r .any [] true) (b, .now .ok 0 0) :=
  if_neg (by rw [listed]; exact Bool.false_ne_true)

/-! ### The rows of `rowChecks` -/

/-- Past the rows of R107, TRACKER_FREE is guarded by the plain checks. -/
theorem cmdTrackerFree_guarded {ao : AO} {b : Block} {c : Bytes} {r : Reply}
    (plain : trackerRows b r.vi (cmdTarget c) (fieldAt c 16 4) = none ∨ cmdGen c ≠ (b.vinst r.vi).gen) :
    ∃ x, cmdTrackerFree ao b c r =
      guarded b (check b c r .any (trackerRows b r.vi (cmdTarget c) (fieldAt c 16 4)) 0 [(16, 19)] true) x :=
  ⟨_, if_neg (by rcases plain with rows | stale <;> simp [*])⟩

/-- Past the rows of R113, POOL_FREE is guarded by the plain checks. -/
theorem cmdPoolFree_guarded {ao : AO} {b : Block} {c : Bytes} {r : Reply}
    (plain : poolRows b r.vi (cmdTarget c % 2 ^ 32) = none ∨ cmdGen c ≠ (b.vinst r.vi).gen) :
    ∃ x, cmdPoolFree ao b c r = guarded b (check b c r .any (poolRows b r.vi (cmdTarget c % 2 ^ 32))
      (if (b.pslot (cmdTarget c % 65536)).use = 2 then (b.pslot (cmdTarget c % 65536)).epoch else 0) []
      (decide (cmdTarget c < 2 ^ 32))) x :=
  ⟨_, if_neg (by
    rcases plain with rows | stale
    · rw [rows]
      simp
    · simp [stale])⟩

/-- A service open only in PROVISIONED and DEPLOYED (R400) has one chain of checks. -/
theorem guarded_serves {b : Block} {serves : Bool} {chk : Option Status} {x : Block × Done} {st : Status}
    (failed : (if serves then chk else some .permission) = some st) :
    guarded b (if serves then none else some .permission) (guarded b chk x) = (b, .now st 0 0) := by
  cases serves with
  | true => exact guarded_failed (b := b) (x := x) failed
  | false => exact guarded_failed failed

section
variable {i : Instr} {op : Nat} {k : Cmd} {src : CmdSrc} {s : State} {b kept : Block} {c : Bytes} {r : Reply}
  {chk : Option Status} {x : Block × Done} {st : Status}

/-- A row whose handler stands behind a check refuses with the check's status and has no other effect. -/
theorem row_refused (row : exec i s = lift (serveRow op k src) s) (guards : k s.ao b c r = guarded b chk x) :
    fetch s.b src op = .command b c r kept → chk = some st → exec i s = .next (s.after (endCommand b r st 0 0)) :=
  fun taken failed => exec_row_now row taken (guards.trans (guarded_failed failed))

/-- A row with a way of its own past its checks refuses as the others where `plain` holds. -/
theorem row_refused_of {plain : Prop} [Decidable plain] (row : exec i s = lift (serveRow op k src) s)
    (guards : plain → ∃ x, k s.ao b c r = guarded b chk x) : fetch s.b src op = .command b c r kept →
      (if plain then chk else none) = some st → exec i s = .next (s.after (endCommand b r st 0 0)) := by
  intro taken failed
  obtain ⟨applies, failed⟩ : plain ∧ chk = some st := by simpa using failed
  obtain ⟨x, guards⟩ := guards applies
  exact row_refused row guards taken failed

end

/-- Settles O37: the order by `check_some_iff`, and each row by the check its handler stands behind. -/
theorem commandChecks : Obligations.CommandChecks := by
  unfold Obligations.CommandChecks
  refine ⟨fun b c r who target epoch used operands st => check_some_iff, fun s src b kept c r st taken =>
    ⟨fun reserved => exec_row_now rfl taken (cmdNop_reserved reserved), fun listed failed =>
      exec_row_now rfl taken ((cmdNop_listed listed).trans (guarded_failed failed))⟩, fun s src b kept c r st => ?_⟩
  simp only [rowChecks, List.forall_mem_cons]
  refine ⟨row_refused rfl rfl, row_refused rfl rfl, row_refused rfl rfl, row_refused rfl rfl, row_refused rfl rfl,
    row_refused_of rfl cmdTrackerFree_guarded, row_refused rfl rfl, row_refused rfl rfl, row_refused rfl rfl,
    row_refused rfl rfl, row_refused rfl rfl, row_refused rfl rfl, row_refused rfl rfl, row_refused rfl rfl,
    row_refused_of rfl cmdPoolFree_guarded, fun taken failed => exec_row_now rfl taken (guarded_serves failed),
    row_refused rfl rfl, row_refused rfl rfl, row_refused rfl rfl, row_refused rfl rfl, row_refused rfl rfl,
    row_refused rfl rfl, row_refused rfl rfl, fun taken failed => exec_row_now rfl taken (guarded_serves failed),
    row_refused rfl rfl, row_refused rfl rfl, row_refused rfl rfl, row_refused rfl rfl, row_refused rfl rfl,
    row_refused rfl rfl, nofun⟩

end Sys2Proof.Machine
end

section
/-! SUPPORT. Completion queues and their interrupt lines (R34, R55, R99 to R101, R305). -/

namespace Sys2Proof.Machine

/-! ### ctl_irq (R55) -/

/-- While CT drives it, ctl_irq[g] is the OR over the queues of its group that hold an unacknowledged entry. -/
theorem ctlIrq_up {b : Block} (g : Nat) (up : ctUp b = true) : ctlIrq b g = true ↔
    ∃ e ∈ b.rin.cqs, e.2.live = true ∧ e.2.irq = true ∧ e.2.group = g ∧ e.2.head ≠ e.2.tail := by
  simp [ctlIrq, up, and_assoc]

theorem ctlIrq_clamped {b : Block} (g : Nat) (clamped : ctUp b = false) : ctlIrq b g = false := by
  simp [ctlIrq, clamped]

/-! ### An entry is written (R99, R305) -/

section
variable {b b' : Block} {i : Nat} {c : Cpl}
  (written : writeVa b (b.cq i).vi clsControl ((b.cq i).base + 32 * (b.cq i).tail) (c.bytes (b.cq i).phase) (some i) = .ok b')
include written

/-- An entry on this chip is written at once. -/
theorem writeEntry_here (here : ((openReqs b').any fun r => entryOf r.acc.owner == some i) = false) :
    writeEntry b i c = b'.setCq i (b.cq i).step := by
  simp only [writeEntry, written, here, Bool.false_eq_true, if_false]

/-- An entry on another chip counts as written when its WRITE is answered. -/
theorem writeEntry_away (away : ((openReqs b').any fun r => entryOf r.acc.owner == some i) = true) :
    writeEntry b i c = b'.setCq i { b.cq i with out := true } := by
  simp only [writeEntry, written, away, if_true]

end

/-- The answer of an entry's WRITE moves the tail on; with nothing waiting that is all. -/
theorem entryDone_last {b : Block} {i : Nat} (live : (b.cq i).live = true) (out : (b.cq i).out = true)
    (last : (b.cq i).waiting = []) : entryDone b i = b.setCq i (b.cq i).step := by
  simp only [entryDone, live, out, last, Bool.and_self, if_true, List.length_nil, drainWaiting]

/-- A completion head moves the head (R101); with nothing waiting no entry is written. -/
theorem ringHead_idle {b : Block} {c : Nat} (x : Nat) (idle : (b.cq c).waiting = []) :
    ringHead b c x = settleWrites (b.setCq c { b.cq c with head := x }) := by
  simp only [ringHead, idle, List.length_nil, drainWaiting]

/-! ### CQ_CREATE (R96, R101) -/

/-- The queue a CQ_CREATE makes: its group is the command's operand, and it holds no entry. -/
def createdCq (c : Bytes) (vi : Nat) : Cq :=
  { live := true, vi := vi, base := fieldAt c 16 8, k := fieldAt c 24 1, irq := fieldAt c 25 1 == 1, group := fieldAt c 26 1 }

theorem cmdCqCreate_ok {ao : AO} {b b' : Block} {c : Bytes} {r : Reply} {i : Nat}
    (done : cmdCqCreate ao b c r = (b', .now .ok i 0)) : fieldAt c 26 1 ≤ 63 ∧ b' = b.setCq i (createdCq c r.vi) := by
  rcases guarded_cases done with ⟨st, failed, refusal⟩ | ⟨passed, made⟩
  · obtain ⟨-, rfl, -⟩ : b' = b ∧ Status.ok = st ∧ i = 0 := by simpa using refusal
    simpa using check_status failed
  · have ranges := operands_of_check_none passed
    simp only [Bool.and_eq_true, decide_eq_true_eq] at ranges
    obtain ⟨⟨-, group⟩, -⟩ := ranges
    refine ⟨group, ?_⟩
    split at made
    · split at made
      · obtain ⟨block, ended⟩ := Prod.mk.inj made
        obtain ⟨-, rfl, -⟩ := Done.now.inj ended
        exact block.symm
      · simp at made
    · simp at made

/-- Settles O31: the interrupt line by its definition, an entry by where it is written, and the new queue by `cmdCqCreate_ok`. -/
theorem completionInterrupt : Obligations.CompletionInterrupt := by
  unfold Obligations.CompletionInterrupt
  refine ⟨fun b g => ⟨ctlIrq_up g, ctlIrq_clamped g⟩, fun b b' i c written => ⟨fun here => ?_, fun away => ?_⟩,
    fun b i live out last => ?_, fun b c x idle => ringHead_idle x idle, fun ao b b' c r i done => ?_⟩
  · rw [writeEntry_here written here, Block.setCq_cq]
    exact ⟨rfl, rfl⟩
  · rw [writeEntry_away written away, Block.setCq_cq]
    exact ⟨rfl, rfl⟩
  · rw [entryDone_last live out last, Block.setCq_cq]
    rfl
  · obtain ⟨group, rfl⟩ := cmdCqCreate_ok done
    rw [Block.setCq_cq]
    exact ⟨rfl, group, rfl, rfl⟩

end Sys2Proof.Machine
end

section
/-! SUPPORT. Reading a record leaves everything but the fault collector as it was (R412, R422). -/

namespace Sys2Proof.Machine

theorem palRaise_flt (b : Block) (o n vi ctx : Nat) : ∃ f : Faults, palRaise b o n vi ctx = { b with flt := f } := by
  unfold palRaise
  split
  · exact ⟨_, rfl⟩
  · exact ⟨b.flt, rfl⟩

/-- A fold whose every step changes the fault collector alone changes it alone. -/
theorem foldl_flt {α : Type} {step : Block → α → Block} (touches : ∀ b a, ∃ f : Faults, step b a = { b with flt := f })
    (l : List α) (b : Block) : ∃ f : Faults, l.foldl step b = { b with flt := f } := by
  induction l generalizing b with
  | nil => exact ⟨b.flt, rfl⟩
  | cons a l ih =>
    obtain ⟨f, first⟩ := touches b a
    obtain ⟨g, rest⟩ := ih { b with flt := f }
    exact ⟨g, by rw [List.foldl_cons, first, rest]⟩

theorem palNote_flt (b : Block) (vi va n : Nat) (cached : Bool) : ∃ f : Faults, palNote b vi va n cached = { b with flt := f } := by
  refine foldl_flt (fun b i => ?_) _ b
  dsimp only
  split
  · exact ⟨b.flt, rfl⟩
  · split
    · exact palRaise_flt b _ _ _ _
    · exact ⟨b.flt, rfl⟩

theorem noteModuli_flt (b : Block) (vi : Nat) (cv : Canvas) : ∃ f : Faults, noteModuli b vi cv = { b with flt := f } := by
  unfold noteModuli
  split
  · exact palNote_flt b _ _ _ _
  · exact ⟨b.flt, rfl⟩

end Sys2Proof.Machine
end

section
/-! SUPPORT. Taking a command from its source and delivering its completion (R90, R93, R97, R98, R106). -/

namespace Sys2Proof.Machine

/-! ### The mailbox -/

theorem fetch_mailbox {b : Block} {v op : Nat} (runs : atelierRuns b = true) (busy : (b.mbox v).busy = true)
    (untaken : (b.mbox v).taken = false) (takes : rowTakes op (b.mbox v).cmd = true) (free : (b.vinst v).stage = 0) :
    fetch b (.mailbox v) op = .command (b.setMbox v { b.mbox v with taken := true }) (b.mbox v).cmd
      (replyOf (.mailbox v) v (b.mbox v).cmd) b :=
  if_pos (by simp [runs, busy, untaken, takes, free])

/-! ### The queue whose turn it is (R97, R98) -/

theorem nextAfter_mem {last n : Nat} {l : List Nat} (next : nextAfter last l = some n) : n ∈ l := by
  unfold nextAfter at next
  split at next
  · next m least =>
    obtain rfl := Option.some.inj next
    exact (List.mem_filter.1 (List.min?_mem least)).1
  · exact List.min?_mem next

/-- The turn is a ready queue's. -/
theorem turnOf_ready {b : Block} {i : Nat} (turn : turnOf b = some i) : queueReady b (b.sq i) = true := by
  obtain ⟨v, -, next⟩ := Option.bind_eq_some_iff.1 turn
  have ready := (List.mem_filter.1 (nextAfter_mem next)).1
  exact (List.mem_filter.1 ready).2

/-- A queue's command is taken in its turn: the head moves past the entry, one more command is started, and the turn passes. -/
theorem fetchQueue_command {b b' kept : Block} {i op : Nat} {c : Bytes} {r : Reply}
    (taken : fetchQueue b i op = .command b' c r kept) : turnOf b = some i ∧ kept = passTurn b i ∧
      b' = palNote ((passTurn b i).setSq i
        { b.sq i with head := ((b.sq i).head + 1) % (b.sq i).size, started := (b.sq i).started + 1 })
        (b.sq i).vi ((b.sq i).base + 64 * (b.sq i).head) 64 := by
  unfold fetchQueue at taken
  split at taken
  · cases taken
  · next turn =>
    obtain ⟨-, turn⟩ : atelierRuns b = true ∧ turnOf b = some i := by simpa using turn
    refine ⟨turn, ?_⟩
    dsimp only at taken
    split at taken
    · cases taken
    · split at taken <;> cases taken
    · split at taken
      · cases taken
      · split at taken
        · cases taken
        · obtain ⟨rfl, -, -, rfl⟩ := Got.command.inj taken
          exact ⟨rfl, rfl⟩

/-- What a queue's command changes in its fetch: the queue itself and the turn. -/
theorem fetchQueue_changes {b b' kept : Block} {i op : Nat} {c : Bytes} {r : Reply}
    (taken : fetchQueue b i op = .command b' c r kept) :
    b'.sq i = { b.sq i with head := ((b.sq i).head + 1) % (b.sq i).size, started := (b.sq i).started + 1 } ∧
      (∀ j, j ≠ i → b'.sq j = b.sq j) ∧ b'.rin.lastVi = (b.sq i).vi ∧ b'.rin.lastSq.get 32767 (b.sq i).vi = i ∧
      b'.rin.cqs = b.rin.cqs ∧ b'.mem = b.mem := by
  obtain ⟨-, -, fetched⟩ := fetchQueue_command taken
  obtain ⟨f, noted⟩ := palNote_flt _ (b.sq i).vi _ 64 false
  rw [fetched, noted]
  exact ⟨Block.setSq_sq _ i _, fun j other => Block.setSq_sq_other _ i _ j other, rfl, Tab.get_put_same _ _ _ _, rfl, rfl⟩

/-! ### The completion (R93, R106) -/

/-- A command's completion leaves its mailbox idle and done, its bytes written unless it is a QUIET one that ended OK. -/
theorem deliver_mailbox {b : Block} {r : Reply} {v : Nat} (st : Status) (res det : Nat) (path : r.path = .mailbox v) :
    deliver b r st res det = b.setMbox v { b.mbox v with
      cpl := if r.quiet && st == .ok then (b.mbox v).cpl else
        Cpl.bytes { status := st.code, tag := r.tag, opcode := r.opcode, sq := 0xFFFF, result := res, detail := det, sqHead := 0 } false
      busy := false, done := true, taken := false } := by
  unfold deliver
  rw [path]

/-- A command none of whose own writes is open completes at once (R305). -/
theorem finishRow_closed {b : Block} (r : Reply) (st : Status) (res det : Nat) (closed : jobOpen b b.rin.nextJob = false) :
    finishRow b r st res det = settleAll (endStarted (deliver b r st res det) r) :=
  if_neg (by simp [closed])

/-- Settles O36: the mailbox by `fetch_mailbox`, a queue by `fetchQueue_changes`, and a delivery by its path. -/
theorem commandPath : Obligations.CommandPath := by
  unfold Obligations.CommandPath
  refine ⟨fun b op => ⟨fun v => fetch_mailbox, fun i b' c r kept taken => ?_⟩,
    fun b r st res det => finishRow_closed r st res det, fun b r st res det v path => ?_⟩
  · obtain ⟨turn, rfl, -⟩ := fetchQueue_command taken
    obtain ⟨here, others, lastVi, lastSq, cqs, mem⟩ := fetchQueue_changes taken
    have ready := turnOf_ready turn
    simp only [queueReady, Bool.and_eq_true, Bool.not_eq_true', bne_iff_ne] at ready
    obtain ⟨⟨⟨⟨⟨-, normal⟩, pending⟩, -⟩, -⟩, -⟩ := ready
    exact ⟨normal, pending, turn, congrArg Sq.head here, congrArg Sq.started here, others, lastVi, lastSq, fun _ => rfl, rfl,
      cqs, mem⟩
  · rw [deliver_mailbox st res det path]
    dsimp only
    rw [Block.setMbox_mbox]
    exact ⟨rfl, rfl, rfl, rfl, fun u other => Block.setMbox_mbox_other _ v _ u other, rfl, rfl⟩

end Sys2Proof.Machine
end

section
/-! SUPPORT. The plain services past their checks (R103, R381, R395, R398, R427, R428). -/

namespace Sys2Proof.Machine

/-! ### Records of a command -/

theorem writeRecord_written {b b' : Block} {vi va : Nat} {d : Bytes} (written : writeVa b vi clsControl va d = .ok b') :
    writeRecord b vi va d = (b', .now .ok d.length 0) := by
  unfold writeRecord
  rw [written]

theorem drbg_length (b : Block) (n : Nat) : (drbg b n).1.length = n := by
  simp [drbg, drawFree]

/-! ### The services -/

section
variable {ao : AO} {b b' : Block} {c : Bytes} {r : Reply}

/-- RANDOM writes as many free bytes as it is asked for (R395). -/
theorem cmdRandom_written
    (passed : check0 b c r .any [(16, 25)] (decide (1 ≤ fieldAt c 24 2) && decide (fieldAt c 24 2 ≤ 4096)) = none)
    (written : writeVa (drbg b (fieldAt c 24 2)).2 r.vi clsControl (fieldAt c 16 8) (drbg b (fieldAt c 24 2)).1 = .ok b') :
    cmdRandom ao b c r = (b', .now .ok (fieldAt c 24 2) 0) := by
  refine (guarded_passed passed).trans ((writeRecord_written written).trans ?_)
  rw [drbg_length]

section
variable (passed : check0 b c r .vi0 [] true = none) (cores : List Nat)
include passed

/-- A SELFTEST whose tests pass, but for those of cores, fences those cores (R398). -/
theorem cmdSelftest_passed : cmdSelftest { passed := true, badCores := cores } ao b c r =
    (fenceCores (wakeP2 b) cores, .now .ok 0 0) :=
  guarded_passed passed

/-- Any other failure enters the error state, without a completion (R398). -/
theorem cmdSelftest_failed : cmdSelftest { passed := false, badCores := cores } ao b c r =
    (enterError (raise (wakeP2 b) 61 0), .later) :=
  guarded_passed passed

end

/-- TELEMETRY_READ writes its group's contents (R428). -/
theorem cmdTelemetryRead_written {d : Bytes} (passed : check0 b c r .any [(16, 17), (24, 31)] true = none)
    (contents : telemetry b r.vi (fieldAt c 16 2) = .ok d)
    (written : writeVa b r.vi clsControl (fieldAt c 24 8) d = .ok b') :
    cmdTelemetryRead ao b c r = (b', .now .ok d.length 0) := by
  refine (guarded_passed passed).trans ?_
  rw [contents]
  exact writeRecord_written written

end

theorem fenceCores_single (b : Block) {c : Nat} (core : c < 192) :
    fenceCores b [c] = raise (b.setHealth .core c { state := .fenced }) 61 c := by
  have cores : [c].filter (· < 192) = [c] := by simp [core]
  rw [fenceCores, cores]
  rfl

/-- Settles O38: each service by the outcome of its handler. -/
theorem plainServices : Obligations.PlainServices := by
  unfold Obligations.PlainServices
  refine ⟨fun s src b kept c r => ⟨fun taken listed passed => ?_, fun taken passed => ?_, fun b' taken passed written => ?_,
      fun taken passed cores => ⟨?_, ?_⟩⟩, fun b c core => fenceCores_single b core, fun s src b kept c r =>
    ⟨fun d b' taken passed contents written => ?_, fun taken passed => ?_⟩⟩
  · exact exec_row_now rfl taken ((cmdNop_listed listed).trans (guarded_passed passed))
  · exact exec_row_now (k := cmdStatus) rfl taken (guarded_passed passed)
  · exact exec_row_now rfl taken (cmdRandom_written passed written)
  · exact exec_row_now rfl taken (cmdSelftest_passed passed cores)
  · exact exec_row_later rfl taken (cmdSelftest_failed passed cores)
  · exact exec_row_now rfl taken (cmdTelemetryRead_written passed contents written)
  · exact exec_row_now (k := cmdLogConfigure) rfl taken (guarded_passed passed)

end Sys2Proof.Machine
end

section
/-! SUPPORT. Queues made and taken out of use (R96, R105). -/

namespace Sys2Proof.Machine

section
variable {ao : AO} {b : Block} {c : Bytes} {r : Reply} {i : Nat}

theorem cmdSqCreate_makes
    (passed : check0 b c r .any [(16, 27)] (fieldAt c 16 8 % 4096 == 0 && decide (4 ≤ fieldAt c 24 1) &&
      decide (fieldAt c 24 1 ≤ 16) && decide (fieldAt c 25 1 ≤ 1)) = none)
    (bound : bindCq b r.vi (fieldAt c 26 2) = none) (free : lowestIn b.rin.sqs.keys 32768 = some i)
    (room : (b.rin.sqs.filter fun e => e.2.live && e.2.vi == r.vi).length < quotaOf b r.vi (·.sq) 32768) :
    cmdSqCreate ao b c r = (b.setSq i { live := true, vi := r.vi, base := fieldAt c 16 8, k := fieldAt c 24 1
                                        direct := fieldAt c 25 1 == 1, cq := fieldAt c 26 2 }, .now .ok i 0) := by
  refine (guarded_passed passed).trans ((guarded_passed bound).trans ?_)
  rw [free]
  exact if_pos room

theorem cmdCqCreate_makes
    (passed : check0 b c r .any [(16, 26)] (fieldAt c 16 8 % 4096 == 0 && decide (4 ≤ fieldAt c 24 1) &&
      decide (fieldAt c 24 1 ≤ 16) && decide (fieldAt c 25 1 ≤ 1) && decide (fieldAt c 26 1 ≤ 63)) = none)
    (free : lowestIn b.rin.cqs.keys 4096 = some i)
    (room : (b.rin.cqs.filter fun e => e.2.live && e.2.vi == r.vi).length < quotaOf b r.vi (·.cq) 4096) :
    cmdCqCreate ao b c r = (b.setCq i (createdCq c r.vi), .now .ok i 0) := by
  refine (guarded_passed passed).trans ?_
  rw [free]
  exact if_pos room

end

/-- A queue with no unstarted entry is answered none (R105). -/
theorem abortEntries_empty {b : Block} {i : Nat} (n : Nat) (empty : (b.sq i).head = (b.sq i).tail) :
    abortEntries i n b = b := by
  cases n with
  | zero => rfl
  | succ n => exact if_pos empty

/-- A destroyed queue that is DIRECT, or holds no entry, is only marked (R105). -/
theorem killSq_idle {b : Block} {i : Nat} (o : Option Reply) (idle : (b.sq i).direct = true ∨ (b.sq i).head = (b.sq i).tail) :
    killSq b i o = b.setSq i { b.sq i with dying := true, owed := o } := by
  have unanswered : (if (b.sq i).direct then b else abortEntries i (b.sq i).size b) = b := by
    rcases idle with direct | empty
    · exact if_pos direct
    · rw [abortEntries_empty _ empty, ite_self]
  simp only [killSq, unanswered]

/-- Settles O39: the created queues by their handlers, a destroyed one by `killSq`. -/
theorem queueCommands : Obligations.QueueCommands := by
  unfold Obligations.QueueCommands
  refine ⟨fun s src b kept c r i => ⟨fun taken passed bound free room => ?_, fun taken passed free room => ?_⟩,
    fun s src b kept c r => ⟨fun taken passed => ?_, fun taken passed => ?_, fun i o => ⟨?_, ?_, killSq_idle o⟩⟩⟩
  · exact exec_row_now rfl taken (cmdSqCreate_makes passed bound free room)
  · exact exec_row_now rfl taken (cmdCqCreate_makes passed free room)
  · exact exec_row_later (k := cmdSqDestroy) rfl taken (guarded_passed passed)
  · exact exec_row_later (k := cmdCqDestroy) rfl taken (guarded_passed passed)
  · exact congrArg Sq.dying (Block.setSq_sq _ i _)
  · exact congrArg Sq.owed (Block.setSq_sq _ i _)

end Sys2Proof.Machine
end

section
/-! SUPPORT. Trackers and Palette buffers taken and given up (R107, R112 to R114, R464). -/

namespace Sys2Proof.Machine

/-! ### Trackers (R107) -/

section
variable {ao : AO} {b : Block} {c : Bytes} {r : Reply}

theorem cmdTrackerAlloc_takes
    (passed : check0 b c r .any [(16, 27)] (fieldAt c 16 8 % 8 == 0 && decide (1 ≤ fieldAt c 24 4) &&
      decide (fieldAt c 24 4 ≤ 65536)) = none)
    (fits : firstFit (fieldAt c 24 4) (b.rin.trackers.map (·.1)) 0 + fieldAt c 24 4 ≤ trackerSpace)
    (room : (b.rin.trackers.filter fun e => e.2.vi == r.vi).length + fieldAt c 24 4 ≤
      quotaOf b r.vi (·.trackers) trackerSpace) :
    cmdTrackerAlloc ao b c r = ({ b with rin := { b.rin with trackers := (addTrackers b.rin.trackers
        (firstFit (fieldAt c 24 4) (b.rin.trackers.map (·.1)) 0) (fieldAt c 24 4) r.vi (fieldAt c 16 8)) } },
      .now .ok (firstFit (fieldAt c 24 4) (b.rin.trackers.map (·.1)) 0) 0) :=
  (guarded_passed passed).trans (if_pos (by simp [fits, room]))

/-- TRACKER_FREE of the owner's trackers takes them away and leaves the rest. -/
theorem cmdTrackerFree_frees (rows : trackerRows b r.vi (cmdTarget c) (fieldAt c 16 4) = none)
    (passed : check b c r .any none 0 [(16, 19)] true = none) :
    cmdTrackerFree ao b c r = ({ b with rin := { b.rin with trackers := (b.rin.trackers.filter fun e =>
      decide (e.1 < cmdTarget c) || decide (cmdTarget c + fieldAt c 16 4 ≤ e.1)) } }, .now .ok 0 0) := by
  refine (if_neg (by simp [rows])).trans (guarded_passed ?_)
  rw [rows]
  exact passed

/-- A TRACKER_FREE that a row of R107 refuses changes no tracker and raises source 53 (log 50). -/
theorem cmdTrackerFree_refused {st : Status} (current : cmdGen c = (b.vinst r.vi).gen)
    (rows : trackerRows b r.vi (cmdTarget c) (fieldAt c 16 4) = some st) :
    cmdTrackerFree ao b c r = (raise b 53 0 (status := st) (vi := r.vi) (detail := cmdTarget c), .now st 0 0) := by
  refine (if_pos (by simp [Issuer.ok, current, rows])).trans ?_
  rw [rows]

/-! ### Palette buffers (R112, R113) -/

/-- What POOL_ALLOC makes of the slot at a unit. -/
def takenBuf (b : Block) (c : Bytes) (vi u : Nat) : PoolSlot :=
  { alloc := true, count := ((b.pslot u).count + 1) % 65536, units := fieldAt c 16 2, use := fieldAt c 19 1, vi := vi
    gen := (b.vinst vi).gen, epoch := if fieldAt c 19 1 = 2 then ((b.pslot u).epoch + 1) % 256 else (b.pslot u).epoch }

theorem cmdPoolAlloc_takes {u : Nat}
    (passed : check0 b c r .any [(16, 19)] (decide (1 ≤ fieldAt c 16 2) &&
      (decide (fieldAt c 18 1 ≤ 4) || fieldAt c 18 1 == 0xFF) && decide (fieldAt c 19 1 ≤ 2)) = none)
    (fits : ((if fieldAt c 18 1 = 0xFF then [0, 1, 2, 3, 4] else [fieldAt c 18 1]).filterMap fun q =>
      fitIn b q (fieldAt c 16 2)).head? = some u)
    (room : unitsOf b r.vi + fieldAt c 16 2 ≤ quotaOf b r.vi (·.palette) poolUnits) :
    cmdPoolAlloc ao b c r = (b.setPslot u (takenBuf b c r.vi u), .now .ok (bufId u (takenBuf b c r.vi u) +
      (if fieldAt c 19 1 = 2 then (takenBuf b c r.vi u).epoch else 0) * 2 ^ 32) (palOffset (u * 4096))) := by
  refine (guarded_passed passed).trans ?_
  dsimp only
  rw [fits]
  exact if_pos room

/-- POOL_FREE of the owner's buffer marks it, and frees it if nobody names it. -/
theorem cmdPoolFree_frees (id : cmdTarget c < 2 ^ 32) (rows : poolRows b r.vi (cmdTarget c) = none)
    (passed : check b c r .any none (if (b.pslot (cmdTarget c % 65536)).use = 2 then (b.pslot (cmdTarget c % 65536)).epoch
      else 0) [] true = none) :
    cmdPoolFree ao b c r = (tryFree
      ((if (linesIn b (cmdTarget c % 65536)).any (fun e => e.2.dirty) then wakeP2 b else b).setPslot (cmdTarget c % 65536)
        { b.pslot (cmdTarget c % 65536) with freeing := true, owed := some r }) (cmdTarget c % 65536), .later) := by
  have rows : poolRows b r.vi (cmdTarget c % 2 ^ 32) = none := by rw [Nat.mod_eq_of_lt id, rows]
  refine (if_neg (by rw [rows]; simp)).trans (guarded_passed ?_)
  rw [rows, decide_eq_true id]
  exact passed

/-- A POOL_FREE that a row of R113 refuses leaves the pool and raises source 53 (R464). -/
theorem cmdPoolFree_refused {st : Status} (id : cmdTarget c < 2 ^ 32) (current : cmdGen c = (b.vinst r.vi).gen)
    (rows : poolRows b r.vi (cmdTarget c) = some st) :
    cmdPoolFree ao b c r = (raise b 53 0 (status := st) (vi := r.vi) (detail := cmdTarget c), .now st 0 0) := by
  have rows : poolRows b r.vi (cmdTarget c % 2 ^ 32) = some st := by rw [Nat.mod_eq_of_lt id, rows]
  refine (if_pos (by rw [rows]; simp [current])).trans ?_
  rw [rows]
  rfl

end

/-- Settles O40: each command by the outcome of its handler. -/
theorem trackersAndBuffers : Obligations.TrackersAndBuffers := by
  unfold Obligations.TrackersAndBuffers
  refine ⟨fun s src b kept c r => ⟨fun taken passed fits room => ?_, fun taken current => ⟨fun rows passed => ?_,
      fun st rows => ?_⟩⟩, fun s src b kept c r => ⟨fun u taken passed fits room => ⟨takenBuf b c r.vi u, rfl, rfl, rfl, rfl,
      rfl, rfl, ?_⟩, fun taken id => ⟨fun rows passed => ?_, fun st current rows => ?_⟩⟩⟩
  · exact exec_row_now rfl taken (cmdTrackerAlloc_takes passed fits room)
  · exact exec_row_now rfl taken (cmdTrackerFree_frees rows passed)
  · exact exec_row_now rfl taken (cmdTrackerFree_refused current rows)
  · exact exec_row_now rfl taken (cmdPoolAlloc_takes passed fits room)
  · exact exec_row_later rfl taken (cmdPoolFree_frees id rows passed)
  · exact exec_row_now rfl taken (cmdPoolFree_refused id current rows)

end Sys2Proof.Machine
end

section
/-! SUPPORT. Canvases and stream numbers taken and given up (R108, R118, R137, R140). -/

namespace Sys2Proof.Machine

section
variable {ao : AO} {b : Block} {c : Bytes} {r : Reply}

/-! ### CANVAS_CREATE and CANVAS_DESTROY -/

section
variable (passed : check0 b c r .any [(16, 23)] (fieldAt c 16 8 % 8 == 0) = none)
include passed

/-- A valid descriptor takes the slot that is picked. -/
theorem cmdCanvasCreate_takes {d : Bytes} {cv : Canvas} {n : Nat} {b1 : Block}
    (read : readVa b r.vi clsControl (fieldAt c 16 8) 128 = .ok d)
    (valid : validateCanvas (palNote b r.vi (fieldAt c 16 8) 128) r.vi d = .ok cv)
    (noted : b1 = noteModuli (palNote b r.vi (fieldAt c 16 8) 128) r.vi cv)
    (picked : pickSlot b1 = some n) (room : canvasesOf b1 r.vi < quotaOf b1 r.vi (·.canvases) 16384) :
    cmdCanvasCreate ao b c r = (takeSlot b1 n r.vi cv, .now .ok (handleOf (takeSlot b1 n r.vi cv) n) 0) := by
  refine (guarded_passed passed).trans ?_
  rw [read]
  dsimp only
  rw [valid]
  dsimp only
  rw [← noted, picked]
  exact if_pos room

theorem cmdCanvasCreate_unread {st : Status} {va : Nat}
    (unread : readVa b r.vi clsControl (fieldAt c 16 8) 128 = .error (st, va)) :
    cmdCanvasCreate ao b c r = (b, .lost st va) := by
  refine (guarded_passed passed).trans ?_
  rw [unread]

end

/-- A freed slot is free, and no other slot changes. -/
theorem freeSlot_slot (b : Block) (n : Nat) :
    ((freeSlot b n).slot n).used = false ∧ ∀ i, i ≠ n → (freeSlot b n).slot i = b.slot i :=
  ⟨congrArg Slot.used (Block.setSlot_slot _ n _), fun i other => Block.setSlot_slot_other _ n _ i other⟩

/-! ### STREAM_OPEN and STREAM_CLOSE (R108) -/

/-- The stream number a STREAM_OPEN makes. -/
def openedStream (b : Block) (c : Bytes) (vi : Nat) : StreamNo :=
  { egress := fieldAt c 17 1 == 1, vi := vi, handle := fieldAt c 24 8
    layout := (b.slot (fieldAt c 24 8 % 2 ^ 14)).canvas.layout, inbuf := [], ended := false }

theorem cmdStreamOpen_opens
    (passed : check0 b c r .any [(16, 17), (24, 31)] (decide (fieldAt c 16 1 < 8) && decide (fieldAt c 17 1 ≤ 1)) = none)
    (canvas : handleTarget b r.vi (fieldAt c 24 8) = none) (room : (b.sport (fieldAt c 16 1)).openNos.length < 4096) :
    cmdStreamOpen ao b c r =
      (b.setSport (fieldAt c 16 1) { b.sport (fieldAt c 16 1) with
        openNos := (Tab.insert (b.sport (fieldAt c 16 1)).openNos
          (lowestFree ((b.sport (fieldAt c 16 1)).openNos.map (·.1)) 1) (openedStream b c r.vi)) },
        .now .ok (lowestFree ((b.sport (fieldAt c 16 1)).openNos.map (·.1)) 1) 0) :=
  (guarded_passed passed).trans ((guarded_passed canvas).trans (if_neg (Nat.not_le.2 room)))

/-- A closed number is open no more. -/
theorem closeStream_gone (b : Block) (p n : Nat) :
    ((closeStream b p n).sport p).openNos.find? (fun e => e.1 == n) = none := by
  rw [closeStream, Block.setSport_sport, List.find?_eq_none]
  intro e open_
  simpa using (List.mem_filter.1 open_).2

end

/-- Settles O41: each command by the outcome of its handler. -/
theorem canvasesAndStreams : Obligations.CanvasesAndStreams := by
  unfold Obligations.CanvasesAndStreams
  refine ⟨fun s src b kept c r => ⟨fun d cv n taken passed read valid => ?_, fun st va taken passed unread =>
      ⟨fun failed => ?_, ?_⟩, fun b vi va n cv => ?_, fun taken passed => ?_, fun n => freeSlot_slot b n⟩,
    fun s src b kept c r => ⟨fun taken passed canvas room => ?_, fun taken passed => ?_, fun p n => closeStream_gone b p n⟩⟩
  · intro b1 picked room
    exact exec_row_now rfl taken (cmdCanvasCreate_takes passed read valid rfl picked room)
  · exact exec_row_lost rfl taken (cmdCanvasCreate_unread passed unread) failed
  · rintro rfl
    exact exec_row_held rfl taken (cmdCanvasCreate_unread passed unread)
  · obtain ⟨f, record⟩ := palNote_flt b vi va n false
    obtain ⟨g, moduli⟩ := noteModuli_flt b vi cv
    exact ⟨f, g, record, moduli⟩
  · exact exec_row_now (k := cmdCanvasDestroy) rfl taken (guarded_passed passed)
  · exact exec_row_now rfl taken (cmdStreamOpen_opens passed canvas room)
  · exact exec_row_now (k := cmdStreamClose) rfl taken (guarded_passed passed)

end Sys2Proof.Machine
end

section
/-! SUPPORT. Instances: creation, and the steps of a reset or a destruction (R110, R115, R116). -/

namespace Sys2Proof.Machine

/-! ### The commands -/

section
variable {ao : AO} {b : Block} {c : Bytes} {r : Reply}

theorem cmdInstanceCreate_makes (serves : inService ao = true) (tenant : cmdTarget c ≠ 0)
    (unused : (b.vinst (cmdTarget c)).live = false)
    (passed : check b c r .vi0 none 0 [(16, 16), (24, 31)] (decide (cmdTarget c < 256) &&
      decide (fieldAt c 16 1 < b.setup.templates.length) && fieldAt c 24 8 % 2048 == 0 &&
      bitsOf (fieldAt c 24 8) 63 48 == 0xFFFF) = none) :
    cmdInstanceCreate ao b c r = (b.setVinst (cmdTarget c)
      { live := true, gen := ((b.vinst (cmdTarget c)).gen + 1) % 65536, tpl := b.setup.templates.getD (fieldAt c 16 1) {}
        root := fieldAt c 24 8, bucket := (b.setup.templates.getD (fieldAt c 16 1) {}).depth },
      .now .ok (((b.vinst (cmdTarget c)).gen + 1) % 65536) 0) := by
  have target : (if cmdTarget c = 0 || (b.vinst (cmdTarget c)).live then some Status.badHandle else none) = none :=
    if_neg (by simp [tenant, unused])
  refine (guarded_passed (if_pos serves)).trans (guarded_passed ?_)
  rw [target]
  exact passed

section
variable (passed : check b c r .vi0 (viTarget b (cmdTarget c)) 0 [] true = none)
include passed

theorem cmdInstanceReset_begins (idle : (b.vinst (cmdTarget c)).stage = 0) :
    cmdInstanceReset ao b c r = (settleWrites (beginReset (wakeP2 b) (cmdTarget c) false r), .later) :=
  (guarded_passed passed).trans (if_neg (not_not_intro idle))

/-- An INSTANCE_RESET that finds a reset under way completes with it (R116). -/
theorem cmdInstanceReset_joins (under : (b.vinst (cmdTarget c)).stage ≠ 0) :
    cmdInstanceReset ao b c r = (b.setVinst (cmdTarget c)
      { b.vinst (cmdTarget c) with owed := (b.vinst (cmdTarget c)).owed ++ [r] }, .later) :=
  (guarded_passed passed).trans (if_pos under)

theorem cmdInstanceDestroy_begins (idle : (b.vinst (cmdTarget c)).stage = 0) :
    cmdInstanceDestroy ao b c r = (settleWrites (beginReset (wakeP2 b) (cmdTarget c) true r), .later) :=
  (guarded_passed passed).trans (if_pos idle)

theorem cmdInstanceDestroy_joins (under : (b.vinst (cmdTarget c)).stage ≠ 0)
    (destroying : (b.vinst (cmdTarget c)).destroying = true) :
    cmdInstanceDestroy ao b c r = (b.setVinst (cmdTarget c)
      { b.vinst (cmdTarget c) with owed := (b.vinst (cmdTarget c)).owed ++ [r] }, .later) :=
  (guarded_passed passed).trans ((if_neg under).trans (if_pos destroying))

/-- An INSTANCE_DESTROY that finds a reset under way follows it (R116). -/
theorem cmdInstanceDestroy_follows (under : (b.vinst (cmdTarget c)).stage ≠ 0)
    (resetting : (b.vinst (cmdTarget c)).destroying = false) :
    cmdInstanceDestroy ao b c r = (b.setVinst (cmdTarget c)
      { b.vinst (cmdTarget c) with later := (b.vinst (cmdTarget c)).later ++ [r] }, .later) :=
  (guarded_passed passed).trans ((if_neg under).trans (if_neg (by simp [resetting])))

end

end

/-! ### Steps 1 to 3 (R115) -/

/-- Stopping contexts moves no VI and writes no memory. -/
theorem foldl_stopCtx (l : List Nat) (b : Block) : (l.foldl stopCtx b).rin = b.rin ∧ (l.foldl stopCtx b).mem = b.mem := by
  induction l generalizing b with
  | nil => exact ⟨rfl, rfl⟩
  | cons c l ih => exact ih (stopCtx b c)

section
variable (b : Block) (v : Nat) (d : Bool) (r : Reply)

/-- The VI of a reset: its generation has moved on and nothing of it issues. -/
def resetVinst : Vinst :=
  { b.vinst v with gen := ((b.vinst v).gen + 1) % 65536, stage := 4, destroying := d, owed := [r] }

theorem beginReset_rin : (beginReset b v d r).rin = (b.setVinst v (resetVinst b v d r)).rin :=
  (foldl_stopCtx _ (b.setVinst v (resetVinst b v d r))).1

theorem beginReset_mem : (beginReset b v d r).mem = b.mem := (foldl_stopCtx _ (b.setVinst v (resetVinst b v d r))).2

theorem beginReset_vinst : (beginReset b v d r).vinst v = resetVinst b v d r := by
  rw [Block.vinst, beginReset_rin]
  exact Block.setVinst_vinst b v _

theorem beginReset_vinst_other {u : Nat} (other : u ≠ v) : (beginReset b v d r).vinst u = b.vinst u := by
  rw [Block.vinst, beginReset_rin]
  exact Block.setVinst_vinst_other b v _ u other

/-- While its VI is being reset a context issues nothing. -/
theorem beginReset_stops {n : Nat} (his : ((beginReset b v d r).ctx n).vi = v) : canIssue (beginReset b v d r) n = false := by
  have stopped : viFree (beginReset b v d r) v = false := by
    rw [viFree, beginReset_vinst]
    rfl
  simp [canIssue, his, stopped]

end

/-! ### Steps 4 and 5 -/

section
variable {b : Block} {v : Nat} (under : (b.vinst v).stage ≠ 0)

theorem settleReset_waits (open_ : openWrites b v ≠ []) : settleReset b v = b :=
  if_pos (by simp [open_])

include under

/-- With no write open every tracker word is written; the reset ends once these writes, too, are answered. -/
theorem settleReset_answered (closed : openWrites b v = []) {b1 : Block}
    (told : b1 = nextJob (endTrackers (b.setVinst v { b.vinst v with stage := 5 }) v)) :
    settleReset b v =
      if (b1.rin.trackers.any fun e => e.2.vi == v) || !(openWrites b1 v).isEmpty then b1 else endReset b1 v := by
  rw [told]
  exact if_neg (by simp [under, closed])

end

/-! ### Steps 6 and 7 (R115, R116) -/

/-- What a VI held is gone: its keys, its queues and its mailbox's command. -/
theorem endResources_gives_up (b : Block) (v : Nat) :
    (∀ e ∈ (endResources b v).sec.keys, e.2.vi ≠ v) ∧ (∀ e ∈ (endResources b v).rin.sqs, e.2.vi ≠ v) ∧
      (∀ e ∈ (endResources b v).rin.cqs, e.2.vi ≠ v) ∧ ((endResources b v).mbox v).busy = false :=
  ⟨fun _ kept => by simpa using (List.mem_filter.1 kept).2, fun _ kept => by simpa using (List.mem_filter.1 kept).2,
    fun _ kept => by simpa using (List.mem_filter.1 kept).2, congrArg Mbox.busy (Block.setMbox_mbox _ v _)⟩

section
variable {b : Block} {v : Nat} {r : Reply} (only : (b.vinst v).owed = [r]) (last : (b.vinst v).later = [])
include only last

/-- After a reset the VI lives on with its new generation. -/
theorem endReset_lives (resetting : (b.vinst v).destroying = false) :
    endReset b v = complete ((endResources b v).setVinst v
      { b.vinst v with stage := 0, owed := [], later := [], bucket := (b.vinst v).tpl.depth }) r .ok (b.vinst v).gen 0 := by
  simp only [endReset, only, last, resetting, Bool.false_eq_true, if_false, List.foldl_nil]

/-- After a destroy the VI is gone, and its TLB entries with it. -/
theorem endReset_gone (destroying : (b.vinst v).destroying = true) :
    endReset b v = complete ((tlbDrop (endResources b v) v).setVinst v { gen := (b.vinst v).gen }) r .ok (b.vinst v).gen 0 := by
  simp only [endReset, only, last, destroying, if_true, List.foldl_nil]

end

/-- Settles O44: the commands by their handlers, then a reset's steps in their order. -/
theorem instanceCommands : Obligations.InstanceCommands := by
  unfold Obligations.InstanceCommands
  intro s src b kept c r
  refine ⟨fun taken serves tenant unused passed => ?_, fun taken passed => ⟨fun idle => ?_, fun under => ?_⟩,
    fun taken passed => ⟨fun idle => ?_, fun under destroying => ?_, fun under resetting => ?_⟩, fun b v d r => ?_,
    fun b v under => ⟨fun waits => ?_, fun closed => ⟨fun waits => ?_, fun told answered => ?_⟩⟩, fun b v r only last =>
    ⟨fun resetting => ?_, fun destroying => ?_, endResources_gives_up b v⟩⟩
  · exact exec_row_now rfl taken (cmdInstanceCreate_makes serves tenant unused passed)
  · exact exec_row_later rfl taken (cmdInstanceReset_begins passed idle)
  · exact exec_row_later rfl taken (cmdInstanceReset_joins passed under)
  · exact exec_row_later rfl taken (cmdInstanceDestroy_begins passed idle)
  · exact exec_row_later rfl taken (cmdInstanceDestroy_joins passed under destroying)
  · exact exec_row_later rfl taken (cmdInstanceDestroy_follows passed under resetting)
  · exact ⟨beginReset_vinst b v d r, fun u other => beginReset_vinst_other b v d r other, fun n => beginReset_stops b v d r,
      beginReset_mem b v d r⟩
  · exact settleReset_waits waits
  · exact (settleReset_answered under closed rfl).trans (if_pos (by simpa using waits))
  · exact (settleReset_answered under closed rfl).trans (if_neg (by simp [told, answered]))
  · exact endReset_lives only last resetting
  · exact endReset_gone only last destroying

end Sys2Proof.Machine
end

section
/-! SUPPORT. How an instruction that may begin goes on (R145, R147). -/

namespace Sys2Proof.Machine

section
variable {ins : Instr} {row : Bytes → Bool} {k : Block → Ctx → Bytes → Res} {s : State} {c : Nat} {b b2 : Block} {i : Bytes}
  (runs : exec ins s = lift (fun _ b => runInstr row k c b) s) (may : canStep s.b c = true)
  (fetched : fetchInstr s.b c = (b, .ok i)) (listed : listedInstr.contains (fieldAt i 0 1) = true) (his : row i = true)
include runs may fetched listed his

theorem exec_instr_go (done : k b (b.ctx c) i = .go b2) : exec ins s = .next (s.after (goOn b2 c)) := by
  rw [runs, lift_eq, runInstr_go may fetched listed his done, goOn]

/-- An instruction that is held up with what it has begun is looked at again. -/
theorem exec_instr_hold (done : k b (b.ctx c) i = .hold b2) :
    exec ins s = .next (s.after (b2.modCtx c fun x => { x with stuckAt := some x.pc })) := by
  rw [runs, lift_eq]
  simp only [runInstr, may, fetched, listed, his, done, Bool.not_true, Bool.false_eq_true, if_false]

end

theorem listedInstr_of {i : Bytes} {n : Nat} (op : fieldAt i 0 1 = n) (listed : listedInstr.contains n = true) :
    listedInstr.contains (fieldAt i 0 1) = true := by
  rw [op, listed]

end Sys2Proof.Machine
end

section
/-! SUPPORT. WAIT and the events that end it (R163 to R166, R348). -/

namespace Sys2Proof.Machine

/-! ### A WAIT begins -/

section
variable {b b' : Block} {c : Nat} {i : Bytes}

theorem insWait_runs {k : Block → Ctx → Bytes → Res} {x : Ctx} (legal : waitLegal i = true) (runs : skipped x i = false) :
    insWait k b c x i = k b x i := by
  simp only [insWait, legal, runs, Bool.not_true, Bool.false_eq_true, if_false]

section
variable {x : Ctx} {cv : Canvas} {j : Nat} (flag : flagElem b x i false = .ok (cv, j))
  (free : flagBlocked x (elemVa cv j) (bytesOf cv.type) = false)
include flag free

/-- A flag wait whose word is under way waits with its timeout (R163, R166). -/
theorem waitOnFlag_pending (read : readFlag b c cv.cached (elemVa cv j) (bytesOf cv.type) = (b', .pending)) :
    waitOnFlag c b x i = .go (block b' c
      (.flag (elemVa cv j) (bytesOf cv.type) (fieldAt i 3 1) (fieldAt i 24 8) cv.cached) (fieldAt i 4 4)) := by
  simp only [waitOnFlag, flag, free, read, Bool.false_eq_true, if_false]

theorem waitOnFlag_stay (read : readFlag b c cv.cached (elemVa cv j) (bytesOf cv.type) = (b', .stay)) :
    waitOnFlag c b x i = .hold b' := by
  simp only [waitOnFlag, flag, free, read, Bool.false_eq_true, if_false]

end

/-- A line of the context's quadrant is waited for while it serves another context, else taken (R164). -/
theorem waitOnLine_quadrant {x : Ctx} (low : 16 * quadOfCtx c ≤ fieldAt i 16 1) (high : fieldAt i 16 1 ≤ 16 * quadOfCtx c + 15) :
    waitOnLine c b x i = .go (if lineBusy b c (fieldAt i 16 1) then block b c (.line (fieldAt i 16 1)) (fieldAt i 4 4)
      else advance (takeLineFor b c (fieldAt i 16 1)) c) := by
  unfold waitOnLine
  rw [if_neg (by simp; omega)]
  split <;> rfl

/-- A WAIT on a DIRECT queue of its VI, with levels in order, takes one look at its fill (R165). -/
theorem waitOnLevel_legal {x : Ctx} (usable : (b.sq (fieldAt i 16 2)).usable = true)
    (direct : (b.sq (fieldAt i 16 2)).direct = true) (his : (b.sq (fieldAt i 16 2)).vi = x.vi) (some_ : 0 < fieldAt i 21 1)
    (low : fieldAt i 21 1 ≤ fieldAt i 26 2) (high : fieldAt i 26 2 ≤ fieldAt i 24 2)
    (size : fieldAt i 24 2 ≤ (b.sq (fieldAt i 16 2)).size - 1) :
    waitOnLevel c b x i = .go
      (if (levelStep b c (fieldAt i 16 2) (fieldAt i 21 1) (fieldAt i 24 2) (fieldAt i 26 2)).2 then
        advance (levelStep b c (fieldAt i 16 2) (fieldAt i 21 1) (fieldAt i 24 2) (fieldAt i 26 2)).1 c
      else block (levelStep b c (fieldAt i 16 2) (fieldAt i 21 1) (fieldAt i 24 2) (fieldAt i 26 2)).1 c
        (.level (fieldAt i 16 2) (fieldAt i 21 1) (fieldAt i 24 2) (fieldAt i 26 2)) (fieldAt i 4 4)) := by
  have ranges : ¬(fieldAt i 21 1 = 0 ∨ fieldAt i 26 2 < fieldAt i 21 1 ∨ fieldAt i 24 2 < fieldAt i 26 2 ∨
    (b.sq (fieldAt i 16 2)).size - 1 < fieldAt i 24 2) := by omega
  unfold waitOnLevel
  rw [if_neg (by simp [usable, direct, his]), if_neg (by simpa [or_assoc] using ranges)]
  split <;> next look => rw [look]; rfl

end

/-! ### One look at a queue's level (R165) -/

section
variable (b : Block) (c q n h l : Nat)

/-- Whether a look at a queue's fill finds it at its level: the low one once the high one has been reached. -/
def levelReached (b : Block) (c q h l : Nat) : Bool :=
  if (b.ctx c).hystQ == some q && (b.ctx c).hystHigh then decide (l ≤ (b.sq q).fill) else decide (h ≤ (b.sq q).fill)

theorem levelStep_reached (reached : levelReached b c q h l = true) : levelStep b c q n h l =
    ((b.setSq q { b.sq q with fill := (b.sq q).fill - n, head := ((b.sq q).head + n) % (b.sq q).size }).setCtx c
      { b.ctx c with hystQ := some q, hystHigh := true }, true) :=
  if_pos reached

theorem levelStep_short (short : levelReached b c q h l = false) :
    levelStep b c q n h l = (b.setCtx c { b.ctx c with hystQ := some q, hystHigh := false }, false) :=
  if_neg (Bool.eq_false_iff.1 short)

end

/-! ### A waiting context is looked at again -/

theorem exec_waitSatisfied (c : Nat) (s : State) : exec (.waitSatisfied c) s = .next (s.after (waitSatisfied c s.b)) := rfl
theorem exec_flagPoll (c : Nat) (s : State) : exec (.flagPoll c) s = .next (s.after (flagPoll c s.b)) := rfl
theorem exec_waitTimeout (c : Nat) (s : State) : exec (.waitTimeout c) s = .next (s.after (waitTimeout c s.b)) := rfl
theorem exec_collectiveTimeout (c : Nat) (s : State) :
    exec (.collectiveTimeout c) s = .next (s.after (collectiveTimeout c s.b)) := rfl

section
variable {b : Block} {c : Nat} (may : canWake b c = true)
include may

theorem waitSatisfied_line {l : Nat} (wait : (b.ctx c).wait = some (.line l)) (idle : lineBusy b c l = false) :
    waitSatisfied c b = startFetch (wake (takeLineFor b c l) c) c := by
  simp only [waitSatisfied, may, wait, idle, Bool.not_true, Bool.false_eq_true, if_false]

theorem waitSatisfied_level {q n h l : Nat} (wait : (b.ctx c).wait = some (.level q n h l)) : waitSatisfied c b =
    if (levelStep b c q n h l).2 then startFetch (wake (levelStep b c q n h l).1 c) c else (levelStep b c q n h l).1 := by
  simp only [waitSatisfied, may, wait, Bool.not_true, Bool.false_eq_true, if_false]
  split <;> next look => rw [look]; rfl

/-- An END that waited for room goes on once there is (R100). -/
theorem waitSatisfied_room (wait : (b.ctx c).wait = some .cqFull) (room : endStuck b c = false) :
    waitSatisfied c b = b.modCtx c fun x => { x with st := .running, wait := none } := by
  simp only [waitSatisfied, may, wait, room, Bool.not_true, Bool.false_eq_true, if_false]

/-- A flag in the window is watched, any other is polled (R163): either row reads it again. -/
theorem exec_flagLook {s : State} (here : b = s.b) {b' : Block} {va n cmp v : Nat} {k : Bool}
    (wait : (b.ctx c).wait = some (.flag va n cmp v k)) (look : pollFlag b c va n k = b') :
    exec (if flagWatched b (b.ctx c).vi va then .waitSatisfied c else .flagPoll c) s = .next (s.after b') := by
  subst here
  split
  · next watched =>
    simp only [exec_waitSatisfied, waitSatisfied, may, wait, watched, look, Bool.not_true, Bool.false_eq_true, if_false, if_true]
  · next polled =>
    simp only [exec_flagPoll, flagPoll, may, wait, polled, look, Bool.not_true, Bool.false_eq_true, if_false]

theorem waitTimeout_line {l : Nat} (wait : (b.ctx c).wait = some (.line l)) (timed : (b.ctx c).timeout ≠ 0) :
    waitTimeout c b = haltBegin b c .taskAborted 0 := by
  simp [waitTimeout, waitGroup, may, wait, timed]

theorem collectiveTimeout_group {g : Nat} {r : GroupCfg} (group : waitGroup b c = some g)
    (known : b.setup.groups[g]? = some r) : collectiveTimeout c b =
      haltBegin b c (if (portsOfGroup r).all fun p => linkReady b p then .taskAborted else .linkDown) 0 := by
  simp only [collectiveTimeout, may, group, known, Bool.not_true, Bool.false_eq_true, if_false]

end

/-! ### The word of a flag (R163) -/

section
variable {b : Block} {c va n : Nat} {k : Bool}

theorem pollFlag_underway (underway : (b.ctx c).load.isSome = true) : pollFlag b c va n k = b := if_pos underway

section
variable {b' : Block} (idle : (b.ctx c).load = none)
include idle

theorem pollFlag_pending (read : readFlag b c k va n = (b', .pending)) : pollFlag b c va n k = b' := by
  simp only [pollFlag, idle, read, Option.isSome_none, Bool.false_eq_true, if_false]

theorem pollFlag_stay (read : readFlag b c k va n = (b', .stay)) : pollFlag b c va n k = b' := by
  simp only [pollFlag, idle, read, Option.isSome_none, Bool.false_eq_true, if_false]

theorem pollFlag_failed {st : Status} {at_ : Nat} (read : readFlag b c k va n = (b', .failed st at_)) :
    pollFlag b c va n k = haltBegin (faultPin b' (b'.ctx c).vi at_ c st) c st at_ := by
  simp only [pollFlag, idle, read, Option.isSome_none, Bool.false_eq_true, if_false]

end

/-- The code of a difference is the difference modulo the word's size. -/
theorem codeOf_sub {N w v : Nat} (small : v < 2 ^ N) : codeOf N ((w : Int) - v) = (w + 2 ^ N - v) % 2 ^ N := by
  have shifted : ((w + 2 ^ N - v : Nat) : Int) = (w - v) + ((2 ^ N : Nat) : Int) := by omega
  have wrapped : ((w : Int) - v) % ((2 ^ N : Nat) : Int) = (((w + 2 ^ N - v) % 2 ^ N : Nat) : Int) := by
    rw [Int.natCast_emod, shifted, Int.add_emod_right]
  rw [codeOf, wrapped, Int.toNat_natCast]

/-- The four compares of a WAIT; the last is modular. -/
theorem flagCmp_iff {w v : Nat} (small : v < 2 ^ (8 * n)) :
    (flagCmp 0 n w v = true ↔ w = v) ∧ (flagCmp 1 n w v = true ↔ w ≠ v) ∧ (flagCmp 2 n w v = true ↔ v ≤ w) ∧
      (flagCmp 3 n w v = true ↔ (w + 2 ^ (8 * n) - v) % 2 ^ (8 * n) < 2 ^ (8 * n - 1)) := by
  refine ⟨beq_iff_eq, bne_iff_ne, decide_eq_true_iff, ?_⟩
  rw [← codeOf_sub small]
  exact decide_eq_true_iff

section
variable {a : Acc} {d : Bytes} {l : SmallRead} (load : ((flagGot b c a d).ctx c).load = some l)
include load

theorem flagArrived_part (part : l.whole = false) : flagArrived b c a d = flagGot b c a d := by
  simp only [flagArrived, load, part, Bool.not_false, if_true]

/-- With its last byte a waiting context's word is compared. -/
theorem flagArrived_whole {cmp v : Nat} (wait : ((flagGot b c a d).ctx c).wait = some (.flag va n cmp v k))
    (whole : l.whole = true) {b1 : Block}
    (got : b1 = (flagGot b c a d).setCtx c { (flagGot b c a d).ctx c with load := none }) (may : canWake b1 c = true) :
    flagArrived b c a d = if flagCmp cmp n (leNat (l.got.map (·.2))) v then startFetch (wake b1 c) c else b1 := by
  subst got
  unfold flagArrived
  dsimp only at may ⊢
  rw [load]
  dsimp only
  rw [if_neg (by simp [whole])]
  split
  · next look =>
    obtain ⟨rfl, rfl, rfl, rfl, rfl⟩ := WaitFor.flag.inj (Option.some.inj (wait.symm.trans look))
    rw [may, Bool.true_and]
  · next look => cases wait.symm.trans look
  · next other _ => exact absurd wait (other _ _ _ _ _)

end

end

/-- Settles O49: a WAIT by its kind, the events by what the context waits for, and the word of a flag by its compare. -/
theorem waits : Obligations.Waits := by
  unfold Obligations.Waits
  refine ⟨fun s c b i may fetched op legal runs => ?_, fun s c may => ?_, fun b c q n h l =>
    ⟨levelStep_reached b c q n h l, levelStep_short b c q n h l⟩, fun b c va n cmp v w k =>
    ⟨rfl, fun _ _ small => flagCmp_iff small, rfl⟩, fun b a d c va n cmp v k l load wait =>
    ⟨flagArrived_part load, fun whole may => flagArrived_whole load wait whole rfl may⟩⟩
  · have listed := listedInstr_of op (by decide)
    refine ⟨fun cv j b' kind flag free => ⟨fun read => ?_, fun read => ?_⟩, fun kind low high => ?_,
      fun kind usable direct his some_ low high size => ?_⟩
    · exact exec_instr_go rfl may fetched listed (by simp [rowWaitFlag, opIs, op, kind])
        ((insWait_runs legal runs).trans (waitOnFlag_pending flag free read))
    · exact exec_instr_hold rfl may fetched listed (by simp [rowWaitFlag, opIs, op, kind])
        ((insWait_runs legal runs).trans (waitOnFlag_stay flag free read))
    · exact exec_instr_go rfl may fetched listed (by simp [opIs, op, kind])
        ((insWait_runs legal runs).trans (waitOnLine_quadrant low high))
    · exact exec_instr_go rfl may fetched listed (by simp [opIs, op, kind])
        ((insWait_runs legal runs).trans (waitOnLevel_legal usable direct his some_ low high size))
  · refine ⟨fun l wait idle => ?_, fun q n h l wait => ?_, fun va n cmp v k wait => ⟨fun underway => ?_, fun idle =>
      ⟨fun b read => ?_, fun b read => ?_, fun b st at_ read => ?_⟩⟩, fun wait room => ?_, fun l wait timed => ?_,
      fun g r group known => ?_⟩
    · rw [exec_waitSatisfied, waitSatisfied_line may wait idle]
    · rw [exec_waitSatisfied, waitSatisfied_level may wait]
    · exact exec_flagLook may rfl wait (pollFlag_underway underway)
    · exact exec_flagLook may rfl wait (pollFlag_pending idle read)
    · exact exec_flagLook may rfl wait (pollFlag_stay idle read)
    · exact exec_flagLook may rfl wait (pollFlag_failed idle read)
    · rw [exec_waitSatisfied, waitSatisfied_room may wait room]
    · rw [exec_waitTimeout, waitTimeout_line may wait timed]
    · rw [exec_collectiveTimeout, collectiveTimeout_group may group known]

end Sys2Proof.Machine
end

section
/-! SUPPORT. SIGNAL, END and the drain (R107, R167, R168, R239, R306). -/

namespace Sys2Proof.Machine

/-! ### SIGNAL (R167) -/

section
variable {b b' : Block} {c : Nat} {x : Ctx} {i : Bytes} {act : SigAct} (legal : signalLegal i = true)
  (runs : skipped x i = false) (acts : signalAct b x i = .ok act)
include legal runs acts

/-- A SIGNAL without FINAL acts at once, on another chip once the earlier writes have been issued (R306). -/
theorem insSignal_acts (plain : bitOf (fieldAt i 1 1) 2 = false) (unfenced : writesHeld x = false)
    (free : actBlocked x act = false)
    (inOrder : remoteAct b x act = false ∨ (x.execs.all fun e => e.dfoot.isNone || allIssued e) = true)
    (done : doSignal b c act = .go b') : insSignal b c x i = .go (advance b' c) := by
  have issued : (remoteAct b x act && !x.execs.all fun e => e.dfoot.isNone || allIssued e) = false := by
    rcases inOrder with here | issued
    · rw [here, Bool.false_and]
    · rw [issued, Bool.not_true, Bool.and_false]
  simp only [insSignal, legal, runs, acts, plain, unfenced, free, issued, done, Bool.not_true, Bool.false_eq_true, if_false,
    Bool.or_self]

/-- With FINAL the drain begins (R168). -/
theorem insSignal_drains (final : bitOf (fieldAt i 1 1) 2 = true) : insSignal b c x i =
    .go (drainStep c (b.setCtx c { x with drain := some { act := some act, readbacks := false } })) := by
  simp only [insSignal, legal, runs, acts, final, Bool.not_true, Bool.false_eq_true, if_false, if_true]

end

/-- The rows of SIGNAL by their target. -/
theorem signal_row {c k : Nat} {ins : Instr} {i : Bytes}
    (listed : (ins, k) ∈ [(Instr.signalFlag c, 0), (Instr.signalTracker c, 1), (Instr.signalShift c, 2)])
    (op : fieldAt i 0 1 = 0x13) (target : fieldAt i 2 1 = k) : ∃ row, row i = true ∧
      ∀ s, exec ins s = lift (fun _ b => runInstr row (fun b x i => insSignal b c x i) c b) s := by
  simp only [List.mem_cons, Prod.mk.injEq, List.not_mem_nil, or_false] at listed
  rcases listed with ⟨rfl, rfl⟩ | ⟨rfl, rfl⟩ | ⟨rfl, rfl⟩
  · exact ⟨rowSignalFlag, by simp [rowSignalFlag, opIs, op, target], fun _ => rfl⟩
  · exact ⟨_, by simp [opIs, op, target], fun _ => rfl⟩
  · exact ⟨_, by simp [opIs, op, target], fun _ => rfl⟩

/-! ### The effect of a SIGNAL (R107, R167) -/

section
variable {b b' : Block} {c : Nat}

theorem doSignal_shift {n u v : Nat} {apply : Bool} (used : (b.slot n).used = true) (same : (b.slot n).uses = u) :
    doSignal b c (.shift n u apply v) = .go (b.setSlot n (signalShift apply v (b.slot n))) :=
  if_pos (by simp [used, same])

/-- The count a SIGNAL gives a tracker. -/
def signalCount (k : Tracker) (add : Bool) (v : Nat) : Nat := if add then (k.count + v) % 2 ^ 32 else v % 2 ^ 32

section
variable {t v : Nat} {add : Bool} {k : Tracker} (tracker : trackerAt b t = some k)
include tracker

/-- A count that stays, once told, is not written (R107). -/
theorem doSignal_tracker_same (told : k.told = true) (same : signalCount k add v = k.count) :
    doSignal b c (.tracker t add v) = .go b := by
  rw [signalCount] at same
  simp only [doSignal, tracker]
  exact if_pos (by rw [told, same, decide_eq_true rfl, Bool.and_self])

/-- A new count, or the first, is written and then recorded. -/
theorem doSignal_tracker_new (news : k.told = false ∨ signalCount k add v ≠ k.count)
    (written : issueWrite b c clsControl false none k.va (trackerWord (signalCount k add v) 0 (b.vinst k.vi).gen) = .go b') :
    doSignal b c (.tracker t add v) = .go (setTracker b' t { k with count := signalCount k add v, told := true }) := by
  simp only [doSignal, tracker]
  rw [signalCount] at news written
  have writes : ¬(k.told && decide ((if add then (k.count + v) % 2 ^ 32 else v % 2 ^ 32) = k.count)) = true := by
    rcases news with untold | changed
    · simp [untold]
    · simp only [decide_eq_false changed, Bool.and_false, Bool.false_eq_true, not_false_eq_true]
  rw [if_neg writes, written, signalCount]

end

end

/-! ### END and the drain (R168) -/

theorem exec_drainComplete_up {c : Nat} {s : State} (up : quadUp s.b (quadOfCtx c) = true) :
    exec (.drainComplete c) s = .next (s.after (drainStep c s.b)) :=
  congrArg (fun b => Host.Outcome.next (s.after b)) (if_pos up)

theorem insEnd_drains {b : Block} {c : Nat} {x : Ctx} {i : Bytes} (legal : zeros i 1 31 = true) :
    insEnd b c x i = .go (drainStep c (b.setCtx c { x with drain := some { act := none, readbacks := false } })) :=
  if_neg (by simp [legal])

section
variable {b : Block} {c : Nat} {d : Drain} (draining : (b.ctx c).drain = some d) (running : (b.ctx c).halting = none)
  (bound : (b.ctx c).aborting = false) (acknowledged : drained b c = true) (here : (b.ctx c).st = .running)
  (free : viFree b (b.ctx c).vi = true)
include draining running bound acknowledged here free

/-- Once every write is acknowledged the last granule of each destination is read back. -/
theorem drainStep_readsBack (first : d.readbacks = false) (written : (b.ctx c).lastW ≠ []) :
    drainStep c b = (b.ctx c).lastW.foldl (fun b e => readback b c e)
      (b.setCtx c { b.ctx c with drain := some { d with readbacks := true } }) := by
  unfold drainStep
  dsimp only
  rw [draining]
  dsimp only
  rw [if_neg (by simp [running, bound, acknowledged, here, free]), if_pos (by simp [first, written])]

section
variable (read : d.readbacks = true ∨ (b.ctx c).lastW = []) (answered : drainAccs b c = [])
include read answered

theorem drainStep_ends (ends : d.act = none) : drainStep c b = endContext b c := by
  unfold drainStep
  dsimp only
  rw [draining]
  dsimp only
  rw [if_neg (by simp [running, bound, acknowledged, here, free]), if_neg (by rcases read with r | r <;> simp [r]),
    if_neg (by simp [answered]), ends]

/-- A FINAL signal acts with its drain over, and the program goes on. -/
theorem drainStep_signals {act : SigAct} {b' : Block} (signals : d.act = some act)
    (done : doSignal (b.setCtx c { b.ctx c with drain := none, lastW := [] }) c act = .go b') :
    drainStep c b = startFetch (advance b' c) c := by
  unfold drainStep
  dsimp only
  rw [draining]
  dsimp only
  rw [if_neg (by simp [running, bound, acknowledged, here, free]), if_neg (by rcases read with r | r <;> simp [r]),
    if_neg (by simp [answered]), signals]
  dsimp only
  rw [done]

end

end

/-- An ended program posts its completion and is unbound (R144, R168). -/
theorem endContext_alone {b : Block} {c : Nat} (room : endStuck b c = false) (alone : (b.ctx c).chain = none) :
    endContext b c = unbind (postOwed b c .ok 0) c := by
  simp only [endContext, room, alone, Bool.false_eq_true, if_false]

/-- Settles O50: a SIGNAL by FINAL, its effect by its target, and a drain by how far it has come. -/
theorem signalsAndDrains : Obligations.SignalsAndDrains := by
  unfold Obligations.SignalsAndDrains
  refine ⟨fun s c b i ins k mem may fetched op target legal runs act acts => ?_, fun b c => ⟨fun n u apply v used same =>
      doSignal_shift used same, fun t add v k b' tracker => ⟨fun told same => doSignal_tracker_same tracker told same,
      fun news written => doSignal_tracker_new tracker news written⟩⟩, fun s c => ⟨fun b i may fetched op legal => ?_,
      fun d up draining running bound acknowledged here free => ⟨fun first written => ?_, fun read answered =>
      ⟨fun ends => ?_, fun act b' signals done => ?_⟩⟩⟩, fun b c => endContext_alone⟩
  · have listed := listedInstr_of op (by decide)
    obtain ⟨row, his, runsRow⟩ := signal_row mem op target
    refine ⟨fun b' plain unfenced free inOrder done => ?_, fun final => ?_⟩
    · exact exec_instr_go (runsRow s) may fetched listed his (insSignal_acts legal runs acts plain unfenced free inOrder done)
    · exact exec_instr_go (runsRow s) may fetched listed his (insSignal_drains legal runs acts final)
  · exact exec_instr_go rfl may fetched (listedInstr_of op (by decide)) (by simp [opIs, op]) (insEnd_drains legal)
  · rw [exec_drainComplete_up up, drainStep_readsBack draining running bound acknowledged here free first written]
  · rw [exec_drainComplete_up up, drainStep_ends draining running bound acknowledged here free read answered ends]
  · rw [exec_drainComplete_up up, drainStep_signals draining running bound acknowledged here free read answered signals done]

end Sys2Proof.Machine
end

section
/-! SUPPORT. SLIP, ABORT, COMMAND and COMPLETION (R91, R334, R335, R349 to R351). -/

namespace Sys2Proof.Machine

/-! ### Each message's row is its function on the block -/

theorem exec_slip (p : Nat) (s : State) : exec (.slip p) s = .next (s.after (slipIn p s.b)) := rfl
theorem exec_abort (p : Nat) (s : State) : exec (.abort p) s = .next (s.after (abortIn p s.b)) := rfl
theorem exec_command (p : Nat) (s : State) : exec (.command p) s = .next (s.after (command p s.ao s.b)) := rfl

theorem exec_slipQuantum_critical {g : Nat} {s : State} (critical : anyCritical s.b = true) :
    exec (.slipQuantum g) s = .next (s.after (originSlip s.b g)) :=
  congrArg (fun b => Host.Outcome.next (s.after b)) (if_pos critical)

/-- A COMPLETION is delivered with its sender (R334). -/
theorem exec_completion_taken {p : Nat} {s : State} {m : Nat × Bytes} {b : Block}
    (taken : takeMsg s.b p mtCompletion = some (m, b)) :
    exec (.completion p) s = .next (s.after { b with received := b.received ++ [m] }) := by
  rw [show exec (.completion p) s = execCompletion p s from rfl, execCompletion, lift_eq, taken]

/-! ### The end of an epoch -/

theorem haltBegin_setup (b : Block) (c : Nat) (st : Status) (va : Nat) : (haltBegin b c st va).setup = b.setup := by
  unfold haltBegin
  dsimp only
  split
  · rfl
  · exact Block.setCtx_setup ..

theorem foldl_haltBegin_setup (st : Status) (va : Nat) (cs : List Nat) (b : Block) :
    (cs.foldl (fun b c => haltBegin b c st va) b).setup = b.setup := by
  induction cs generalizing b with
  | nil => rfl
  | cons c cs ih => rw [List.foldl_cons, ih, haltBegin_setup]

theorem endGroup_setup (b : Block) (g : Nat) : (endGroup b g).setup = b.setup :=
  (foldl_haltBegin_setup ..).trans (Block.setGrp_setup ..)

/-- The participants of a group do not depend on its counts. -/
theorem participants_setGrp (b : Block) (g h : Nat) (x : GroupSt) : participants (b.setGrp h x) g = participants b g := rfl

section
variable {b : Block} {g : Nat} (alone : participants b g = [])
include alone

theorem applySlip_alone {us : Nat} {r : GroupCfg} (known : b.setup.groups[g]? = some r) :
    applySlip b g us = b.setGrp g { b.grp g with slip := (b.grp g).slip + us } := by
  simp only [applySlip, known, participants_setGrp, alone, List.filter_nil, List.foldl_nil, ite_self]

theorem endGroup_alone : endGroup b g = b.setGrp g { b.grp g with epoch := ((b.grp g).epoch + 1) % 256 } := by
  simp only [endGroup, alone, List.foldl_nil]

end

/-- Only on a ring does a chip's own message come back to it (R351). -/
theorem not_returned {topo origin chip : Nat} (others : topo ≠ 1 ∨ origin ≠ chip) : ¬(topo = 1 && origin = chip) = true := by
  rcases others with noRing | another
  · simp only [noRing, decide_false, Bool.false_and, Bool.false_eq_true, not_false_eq_true]
  · simp only [another, decide_false, Bool.and_false, Bool.false_eq_true, not_false_eq_true]

/-! ### SLIP (R335, R350, R351) -/

theorem originSlip_participants {b : Block} {g : Nat} {r : GroupCfg} (known : b.setup.groups[g]? = some r)
    (some_here : participants b g ≠ []) :
    originSlip b g = applySlip (groupSend b g mtSlip (slipBody g b.setup.chipId r.quantum) none) g r.quantum := by
  simp only [originSlip, known, List.isEmpty_iff, some_here, if_false]

section
variable {b0 b : Block} {p src : Nat} {m : Bytes}

/-- A SLIP that is not the chip's own on a ring is counted and forwarded. -/
theorem slipIn_counted {r : GroupCfg} (taken : takeMsg b0 p mtSlip = some ((src, m), b))
    (known : b.setup.groups[fieldAt m 0 1]? = some r) (others : r.topo ≠ 1 ∨ fieldAt m 2 2 ≠ b.setup.chipId) :
    slipIn p b0 = applySlip (groupSend b (fieldAt m 0 1) mtSlip m (some p)) (fieldAt m 0 1) (fieldAt m 4 4) := by
  simp only [slipIn, taken, known]
  exact if_neg (not_returned others)

/-! ### ABORT (R349) -/

section
variable (taken : takeMsg b0 p mtAbort = some ((src, m), b))
include taken

theorem abortIn_unknown (unknown : b.setup.groups[fieldAt m 0 1]? = none) : abortIn p b0 = raise b 49 p (status := .route) := by
  simp only [abortIn, taken, unknown]

section
variable {r : GroupCfg} (known : b.setup.groups[fieldAt m 0 1]? = some r)
include known

theorem abortIn_stale (stale : fieldAt m 1 1 ≠ (b.grp (fieldAt m 0 1)).epoch) : abortIn p b0 = b := by
  simp only [abortIn, taken, known]
  exact if_pos stale

/-- An ABORT of the current epoch ends the collective here and goes on its way. -/
theorem abortIn_current (current : fieldAt m 1 1 = (b.grp (fieldAt m 0 1)).epoch)
    (others : r.topo ≠ 1 ∨ fieldAt m 2 2 ≠ b.setup.chipId) :
    abortIn p b0 = groupSend (endGroup (raise b 50 (fieldAt m 0 1) (status := statusOf (fieldAt m 4 2))) (fieldAt m 0 1))
      (fieldAt m 0 1) mtAbort m (some p) := by
  simp only [abortIn, taken, known, endGroup_setup, raise_setup]
  rw [if_neg (not_not_intro current), if_neg (not_returned others)]

end

end

/-! ### COMMAND (R91, R334) -/

section
variable {ao : AO} (taken : takeMsg b0 p mtCommand = some ((src, m), b)) (runs : atelierRuns b0 = true)
include taken runs

theorem command_refused (closed : admits b0 p (fieldAt m 64 1) = false) : command p ao b0 =
    complete b (replyOf (.mgmt src (fieldAt m 66 2) (fieldAt m 64 1)) (fieldAt m 64 1) (m.take 64)) .permission 0 0 := by
  simp only [command, taken, runs, closed, Bool.not_true, Bool.not_false, Bool.false_eq_true, if_false, if_true]

/-- An admitted COMMAND is run by its opcode's handler and answered along MGMT. -/
theorem command_answered (admitted : admits b0 p (fieldAt m 64 1) = true) (alive : (b0.vinst (fieldAt m 64 1)).stage = 0)
    {b' : Block} {st : Status} {res det : Nat}
    (handled : handlerOf (fieldAt (m.take 64) 0 1) ao b (m.take 64)
      (replyOf (.mgmt src (fieldAt m 66 2) (fieldAt m 64 1)) (fieldAt m 64 1) (m.take 64)) = (b', .now st res det)) :
    command p ao b0 =
      endCommand b' (replyOf (.mgmt src (fieldAt m 66 2) (fieldAt m 64 1)) (fieldAt m 64 1) (m.take 64)) st res det := by
  simp only [command, taken, runs, admitted, alive, handled, Bool.not_true, Bool.false_eq_true, if_false, ne_eq,
    not_true_eq_false]

end

end

/-- Settles O27: a group's SLIP and ABORT by whether the group is known and the epoch current, a COMMAND by whether the
VI takes it. -/
theorem managementMessages : Obligations.ManagementMessages := by
  unfold Obligations.ManagementMessages
  refine ⟨fun s p => ⟨fun src m b r taken known others => ?_, fun g r critical known some_here => ?_, fun src m b r taken known =>
      ⟨fun stale => ?_, fun current others => ?_⟩, fun src m b taken unknown => ?_⟩,
    fun b g us r known alone => ⟨applySlip_alone alone known, endGroup_alone alone⟩,
    fun s p => ⟨fun src m b taken runs => ⟨fun closed => ?_, fun admitted alive b' st res det handled => ?_⟩, fun m b taken =>
      exec_completion_taken taken⟩⟩
  · rw [exec_slip, slipIn_counted taken known others]
  · rw [exec_slipQuantum_critical critical, originSlip_participants known some_here]
  · rw [exec_abort, abortIn_stale taken known stale]
  · rw [exec_abort, abortIn_current taken known current others]
  · rw [exec_abort, abortIn_unknown taken unknown]
  · rw [exec_command, command_refused taken runs closed]
  · rw [exec_command, command_answered taken runs admitted alive handled]

end Sys2Proof.Machine
end

section
/-! SUPPORT. Swatch records (R266, R273, R274), the answers to this chip's requests (R142, R321) and the link timeout
(R115, R178, R330). -/

namespace Sys2Proof.Machine

/-! ### Each message's row is its function on the block -/

theorem exec_swatch (p : Nat) (s : State) : exec (.swatch p) s = .next (s.after (remSwatch p s.b)) := rfl
theorem exec_linkTimeout (p rix : Nat) (s : State) : exec (.linkTimeout p rix) s = .next (s.after (linkTimeout p rix s.b)) := rfl

theorem exec_rdata_taken {p : Nat} {s : State} {fs : List Flit} {b : Block} (taken : takeMessage s.b p opRdata = some (fs, b)) :
    exec (.rdata p) s = .next (s.after (settleWrites (fs.foldl (rdataIn p) b))) := by
  rw [show exec (.rdata p) s = execRdata p s from rfl, execRdata, lift_eq, taken]

/-- The entries of an ACK flit that name a request (R321). -/
def ackEntries (f : Flit) : List Nat := ((List.range 32).map fun i => fieldAt f.payload (8 * i) 8).filter fun e => bitOf e 32

theorem exec_ack_taken {p : Nat} {s : State} {f : Flit} {b : Block} (taken : takeMessage s.b p opAck = some ([f], b)) :
    exec (.ack p) s = .next (s.after (settleWrites ((ackEntries f).foldl (ackEntry p) b))) := by
  rw [show exec (.ack p) s = execAck p s from rfl, execAck, lift_eq, taken]
  simp only [List.flatMap_cons, List.flatMap_nil, List.append_nil, ackEntries]

/-! ### Swatch records (R273, R274) -/

theorem remSwatch_waits {p : Nat} {b : Block} (waits : swatchWaits b p = true) : remSwatch p b = b := if_pos waits

section
variable {b0 b : Block} {p : Nat} {f : Flit} {t : List Flit} (taken : takeMessage b0 p opSwatch = some (f :: t, b))
  (next : swatchWaits b0 p = false)
include taken next

/-- A codebook record of 8 or 12 bits loads the port's store. -/
theorem remSwatch_codebook {cb : Nat} (bits : cb = 8 ∨ cb = 12) (word : fieldAt f.payload 8 8 = 1 + cb * 2 ^ 8)
    (whole : 16 + 8 * 2 ^ cb ≤ f.payload.length) :
    remSwatch p b0 = b.setLink p { b.link p with store := some (cb, sliceAt f.payload 16 (8 * 2 ^ cb)) } := by
  have kind : (1 + cb * 2 ^ 8) % 16 = 1 := by omega
  have width : bitsOf (1 + cb * 2 ^ 8) 11 8 = cb := by
    unfold bitsOf
    omega
  have zeros : bitsOf (1 + cb * 2 ^ 8) 7 4 = 0 := by
    unfold bitsOf
    omega
  have high : (1 + cb * 2 ^ 8) / 2 ^ 12 = 0 := by omega
  have known : (cb == 8 || cb == 12) = true := by simpa using bits
  simp only [remSwatch, next, taken, List.headD_cons, word, kind, width, zeros, high, known, decide_eq_true whole,
    beq_self_eq_true, Bool.and_self, Bool.false_eq_true, if_false, if_true, Block.modLink]

/-- The end record releases the store. -/
theorem remSwatch_end (kind : fieldAt f.payload 8 8 % 16 = 3) :
    remSwatch p b0 = b.setLink p { b.link p with store := none } := by
  simp only [remSwatch, next, taken, List.headD_cons, kind, Bool.false_eq_true, if_false, Block.modLink]

theorem remSwatch_unknown (kind : fieldAt f.payload 8 8 % 16 = 0) : remSwatch p b0 = refuse b p f.rix f.src true .bounds := by
  simp only [remSwatch, next, taken, List.headD_cons, kind, Bool.false_eq_true, if_false]

theorem remSwatch_block (kind : fieldAt f.payload 8 8 % 16 = 2) : remSwatch p b0 = swatchBlock p f b := by
  simp only [remSwatch, next, taken, List.headD_cons, kind, Bool.false_eq_true, if_false]

end

section
variable {b : Block} {p : Nat} {f : Flit}

theorem swatchBlock_noStore (noStore : (b.link p).store = none) : swatchBlock p f b = refuse b p f.rix f.src true .bounds := by
  simp only [swatchBlock, noStore]

/-- A block record's address, its stream, and the accesses that write its decoded bytes. -/
def blockKey (f : Flit) : Nat := (streamOf f).getD (2 ^ 40 + f.src * 2 ^ 16 + f.rix)
def blockAccs (p : Nat) (f : Flit) (d : Bytes) : List Acc :=
  swatchAccs p (some (blockKey f)) f (f.addr * 256 + fieldAt f.payload 0 8 % 256) d

/-- The first check of R337 that one of a block's granules fails. -/
def blockCheck (b : Block) (p : Nat) (f : Flit) (d : Bytes) : Option Status :=
  (blockAccs p f d).findSome? fun a => remoteCheck b f f.vi f.ksel (a.gran * 256 + a.off) a.len

section
variable {cb : Nat} {book d : Bytes} (store : (b.link p).store = some (cb, book))
  (reserved : bitsOf (fieldAt f.payload 8 8) 7 5 = 0) (high : fieldAt f.payload 8 8 / 2 ^ 27 = 0)
  (nonempty : bitsOf (fieldAt f.payload 8 8) 26 20 ≠ 0) (fits : bitsOf (fieldAt f.payload 8 8) 26 20 ≤ 64)
  (whole : 16 + bitsOf (fieldAt f.payload 8 8) 26 20 * 64 ≤ f.payload.length)
  (decodes : decodeStored cb book (bitOf (fieldAt f.payload 8 8) 4) (bitsOf (fieldAt f.payload 8 8) 19 8 + 1)
    (sliceAt f.payload 16 (bitsOf (fieldAt f.payload 8 8) 26 20 * 64)) = some d)
include store reserved high nonempty fits whole decodes

/-- A block record of the right form is decoded with the port's store. -/
theorem swatchBlock_decoded : swatchBlock p f b = match blockCheck b p f d with
    | some st => refuse b p f.rix f.src true st
    | none => presentIn (chargeDec b p f) (some (blockKey f)) (blockAccs p f d) := by
  have formed : ¬(bitsOf (fieldAt f.payload 8 8) 7 5 ≠ 0 || fieldAt f.payload 8 8 / 2 ^ 27 ≠ 0 ||
      bitsOf (fieldAt f.payload 8 8) 26 20 * 64 = 0 || 64 * 64 < bitsOf (fieldAt f.payload 8 8) 26 20 * 64 ||
      f.payload.length < 16 + bitsOf (fieldAt f.payload 8 8) 26 20 * 64) = true := by
    simp only [Bool.or_eq_true, decide_eq_true_eq]
    omega
  unfold swatchBlock
  rw [store]
  dsimp only
  rw [if_neg formed, decodes]
  rfl

theorem swatchBlock_presented (admitted : blockCheck b p f d = none) :
    swatchBlock p f b = presentIn (chargeDec b p f) (some (blockKey f)) (blockAccs p f d) := by
  rw [swatchBlock_decoded store reserved high nonempty fits whole decodes, admitted]

theorem swatchBlock_refused {st : Status} (failed : blockCheck b p f d = some st) :
    swatchBlock p f b = refuse b p f.rix f.src true st := by
  rw [swatchBlock_decoded store reserved high nonempty fits whole decodes, failed]

end

end

/-! ### Answers (R321) -/

/-- A request is taken off its port. -/
def dropReq (b : Block) (q i : Nat) : Block :=
  b.setLink q { b.link q with reqs := (b.link q).reqs.filter fun e => e.1 != i }

section
variable {b : Block} {rix : Nat} {read : Bool}

theorem takeReq_absent (absent : ((b.link (rix / 8192)).reqs.find? fun e => e.1 == rix % 8192) = none) :
    takeReq b rix read = none := by
  simp only [takeReq, absent]

theorem takeReq_found {i : Nat} {r : RemReq} (found : ((b.link (rix / 8192)).reqs.find? fun e => e.1 == rix % 8192) = some (i, r))
    (kind : (r.op == opRead) = read) : takeReq b rix read = some (r, dropReq b (rix / 8192) i) := by
  simp only [takeReq, found, kind, bne_self_eq_false, Bool.false_eq_true, if_false, dropReq]

end

section
variable {b : Block} {p : Nat} {f : Flit}

theorem rdataIn_absent (absent : takeReq b f.rix true = none) : rdataIn p b f = protoError b p := by
  simp only [rdataIn, absent]

section
variable {gone : Block} {r : RemReq} (taken : takeReq b f.rix true = some (r, gone)) (owned : r.acc.owner ≠ .discard)
include taken owned

/-- A read ends with its data. -/
theorem rdataIn_read (good : f.aux = 0) (reads : r.acc.write = false) :
    rdataIn p b f = releaseAll (readBack gone (quadOfPort p) r.acc f.payload) := by
  simp [rdataIn, taken, owned, good, reads]

/-- The granule a merge needs is combined and written (R142). -/
theorem rdataIn_merge (good : f.aux = 0) (merges : r.acc.write = true) :
    rdataIn p b f = releaseAll (sendWrite gone (r.acc.combine f.payload) r.chip) := by
  simp [rdataIn, taken, owned, good, merges]

theorem rdataIn_fails (bad : f.aux ≠ 0) : rdataIn p b f = releaseAll (failAcc gone r.acc (statusOf f.aux)) := by
  simp [rdataIn, taken, owned, bad]

end

end

section
variable {b : Block} {p e : Nat}

theorem ackEntry_absent (absent : takeReq b (bitsOf e 15 0) false = none) : ackEntry p b e = protoError b p := by
  simp only [ackEntry, absent]

section
variable {gone : Block} {r : RemReq} (taken : takeReq b (bitsOf e 15 0) false = some (r, gone))
include taken

theorem ackEntry_done (good : bitsOf e 31 16 = 0) :
    ackEntry p b e = releaseAll ((r.acc :: r.also).foldl writeDone gone) := by
  simp only [ackEntry, taken, good, if_true]

theorem ackEntry_fails (bad : bitsOf e 31 16 ≠ 0) : ackEntry p b e =
    releaseAll ((r.acc :: r.also).foldl (fun b a => failAcc b a (statusOf (bitsOf e 31 16))) gone) := by
  simp only [ackEntry, taken, bad, if_false]

end

end

/-! ### The link timeout (R115, R178, R330) -/

/-- A write, a read or a SWATCH is no arithmetic request. -/
theorem not_arithmetic {r : RemReq} (plain : r.op = opWrite ∨ r.op = opRead ∨ r.op = opSwatch) :
    ¬(r.op != opRead && r.op != opWrite && r.op != opSwatch) = true := by
  rcases plain with writes | reads | swatch
  · simp [writes]
  · simp [reads]
  · simp [swatch]

section
variable {b : Block} {p rix i : Nat} {r : RemReq} (found : ((b.link p).reqs.find? fun e => e.1 == rix) = some (i, r))
  (owned : r.acc.owner ≠ .discard)
include found owned

/-- An arithmetic request fails. -/
theorem linkTimeout_arithmetic (notRead : r.op ≠ opRead) (notWrite : r.op ≠ opWrite) (notSwatch : r.op ≠ opSwatch) :
    linkTimeout p rix b = settleWrites (releaseAll (failAcc (dropReq b p i) r.acc .linkDown)) := by
  simp [linkTimeout, found, owned, notRead, notWrite, notSwatch, dropReq]

section
variable (plain : r.op = opWrite ∨ r.op = opRead ∨ r.op = opSwatch)
include plain

/-- So does a write that a reset or an abort waits for no longer. -/
theorem linkTimeout_timeBound (bound : timeBound (dropReq b p i) r.acc = true) : linkTimeout p rix b =
    settleWrites (releaseAll ((r.acc :: r.also).foldl (fun b a => failAcc b a .linkDown) (dropReq b p i))) := by
  unfold linkTimeout
  dsimp only
  rw [found]
  dsimp only
  unfold dropReq at bound ⊢
  rw [if_neg (by simpa using owned), if_neg (not_arithmetic plain), if_pos bound]

/-- A write, a read or a SWATCH goes out again. -/
theorem linkTimeout_resent {a : Acc} (free : timeBound (dropReq b p i) r.acc = false)
    (again : retryAcc (dropReq b p i) r.acc = some a) :
    linkTimeout p rix b = settleWrites (releaseAll (sendRemote (dropReq b p i) { r with acc := a })) := by
  unfold linkTimeout
  dsimp only
  rw [found]
  dsimp only
  unfold dropReq at free again ⊢
  rw [if_neg (by simpa using owned), if_neg (not_arithmetic plain), if_neg (ne_true_of_eq_false free), again]

end

end

/-- Settles O24: a Swatch record by its kind, an answer by the request it names, and a timeout by its request's kind. -/
theorem recordsAndAnswers : Obligations.RecordsAndAnswers := by
  unfold Obligations.RecordsAndAnswers
  refine ⟨fun s p f t b taken next => ⟨fun cb bits word whole => ?_, fun kind noStore => ?_,
      fun cb book d kind store reserved high nonempty fits whole decodes => ⟨fun admitted => ?_, fun e failed => ?_⟩,
      fun kind => ?_, fun kind => ?_⟩,
    fun s p => ⟨fun waits => ?_, fun f b taken => ⟨fun absent => ?_, fun i r found isRead owned => ⟨fun good reads => ?_,
        fun good merges => ?_, fun bad => ?_⟩⟩, fun f b e taken only => ⟨fun absent => ?_, fun i r found notRead =>
        ⟨fun good => ?_, fun bad => ?_⟩⟩, fun f b taken => exec_ack_taken taken, fun rix i r found owned =>
        ⟨fun notRead notWrite notSwatch => ?_, fun plain bound => ?_, fun a plain free again => ?_⟩⟩⟩
  · rw [exec_swatch, remSwatch_codebook taken next bits word whole]
  · rw [exec_swatch, remSwatch_block taken next kind, swatchBlock_noStore noStore]
  · rw [exec_swatch, remSwatch_block taken next kind,
      swatchBlock_presented store reserved high nonempty fits whole decodes admitted]
    rfl
  · rw [exec_swatch, remSwatch_block taken next kind,
      swatchBlock_refused store reserved high nonempty fits whole decodes failed]
  · rw [exec_swatch, remSwatch_end taken next kind]
  · rw [exec_swatch, remSwatch_unknown taken next kind]
  · rw [exec_swatch, remSwatch_waits waits]
  · rw [exec_rdata_taken taken, List.foldl_cons, rdataIn_absent (takeReq_absent absent), List.foldl_nil]
  · rw [exec_rdata_taken taken, List.foldl_cons,
      rdataIn_read (takeReq_found found (by simp [isRead])) owned good reads, List.foldl_nil, dropReq]
  · rw [exec_rdata_taken taken, List.foldl_cons,
      rdataIn_merge (takeReq_found found (by simp [isRead])) owned good merges, List.foldl_nil, dropReq]
  · rw [exec_rdata_taken taken, List.foldl_cons,
      rdataIn_fails (takeReq_found found (by simp [isRead])) owned bad, List.foldl_nil, dropReq]
  · rw [exec_ack_taken taken, ackEntries, only, List.foldl_cons, ackEntry_absent (takeReq_absent absent), List.foldl_nil]
  · rw [exec_ack_taken taken, ackEntries, only, List.foldl_cons,
      ackEntry_done (takeReq_found found (by simp [notRead])) good, List.foldl_nil, dropReq]
  · rw [exec_ack_taken taken, ackEntries, only, List.foldl_cons,
      ackEntry_fails (takeReq_found found (by simp [notRead])) bad, List.foldl_nil, dropReq]
  · rw [exec_linkTimeout, linkTimeout_arithmetic found owned notRead notWrite notSwatch, dropReq]
  · rw [exec_linkTimeout, linkTimeout_timeBound found owned plain bound, dropReq]
  · rw [exec_linkTimeout, linkTimeout_resent found owned plain free again, dropReq]

end Sys2Proof.Machine
end

section
/-! SUPPORT. The row of a command that stays at its source (R98), and of an instruction that fails of itself (R148, R176). -/

namespace Sys2Proof.Machine

/-- A row whose command cannot start yet leaves it at its source. -/
theorem exec_row_stay {i : Instr} {op : Nat} {k : Cmd} {src : CmdSrc} {s : State} {b kept b2 : Block} {c : Bytes} {r : Reply}
    (row : exec i s = lift (serveRow op k src) s) (taken : fetch s.b src op = .command b c r kept)
    (done : k s.ao b c r = (b2, .stay)) : exec i s = .next (s.after kept) := by
  rw [row, lift_eq, serveRow_stay taken done]

/-- An instruction that fails of itself, with nothing in flight, halts its context and raises no pin. -/
theorem exec_instr_haltNow {ins : Instr} {row : Bytes → Bool} {k : Block → Ctx → Bytes → Res} {s : State} {c : Nat} {b : Block}
    {i : Bytes} {st : Status} (runs : exec ins s = lift (fun _ b => runInstr row k c b) s) (may : canStep s.b c = true)
    (fetched : fetchInstr s.b c = (b, .ok i)) (listed : listedInstr.contains (fieldAt i 0 1) = true) (his : row i = true)
    (done : k b (b.ctx c) i = .halt b st 0) (own : st = .badOpcode ∨ st = .bounds) (alone : (s.b.ctx c).execs = []) :
    exec ins s = .next (s.after (haltNow b c st)) := by
  have ofItself : st ≠ .held ∧ st ≠ .route ∧ st ≠ .busRetryExhausted ∧ st ≠ .uncorrectable ∧ st ≠ .parity := by
    rcases own with rfl | rfl <;> decide
  obtain ⟨notHeld, noRoute, noRetry, noError, noParity⟩ := ofItself
  rw [runs, lift_eq, runInstr_halt may fetched listed his done notHeld alone,
    faultPin_other b _ _ c noRoute noRetry noError noParity, haltNow]

end Sys2Proof.Machine
end

section
/-! SUPPORT. Programs and chains bound to contexts (R143 to R145, R172, R182). -/

namespace Sys2Proof.Machine

/-! ### One context (R114, R143) -/

/-- A context as it is bound: running at its program's first instruction, in the next role epoch. -/
def boundCtx (b : Block) (n vi : Nat) (l : Bind) (owed : Option Reply) (chain : Option (Nat × Nat)) : Ctx :=
  { st := .running, epoch := ((b.ctx n).epoch + 1) % 256, vi := vi, gen := (b.vinst vi).gen, weight := l.weight
    limit := l.limit, failPolicy := l.fail, prog := l.prog, pc := l.prog, owed := owed, chain := chain }

/-- Binding touches its own context and its quadrant's arbiter alone; a chain's stage does not fetch yet. -/
theorem bindCtx_binds (b : Block) (n vi : Nat) (l : Bind) (o : Option Reply) (ch : Option (Nat × Nat)) :
    ∃ b0 : Block, bindCtx b n vi l o ch = (if ch.isNone then startFetch b0 n else b0) ∧
      b0.ctx n = boundCtx b n vi l o ch ∧ (∀ d, d ≠ n → b0.ctx d = b.ctx d) ∧ b0.mem = b.mem ∧ b0.rin = b.rin :=
  ⟨_, rfl, Block.setCtx_ctx _ n _, fun d other => Block.setCtx_ctx_other _ n _ d other, rfl, rfl⟩

section
variable {ao : AO} {b : Block} {c : Bytes} {r : Reply}

/-! ### PROGRAM_SUBMIT -/

section
variable (passed : check0 b c r .any [(16, 26)] (fieldAt c 16 8 % 32 == 0 && decide (1 ≤ fieldAt c 24 1) &&
  decide (fieldAt c 25 1 < 32) && (decide (fieldAt c 26 1 ≤ 3) || fieldAt c 26 1 == 0xFF)) = none)
include passed

theorem cmdProgramSubmit_binds {n : Nat} (place : placeCtx b r.vi (fieldAt c 26 1) = .at n) :
    cmdProgramSubmit ao b c r = (bindCtx (wakeP2 b) n r.vi
      (Bind.of (fieldAt c 16 8) (fieldAt c 24 1) (fieldAt c 25 1)) (some r) none, .later) :=
  (guarded_passed passed).trans (by rw [place])

theorem cmdProgramSubmit_full (place : placeCtx b r.vi (fieldAt c 26 1) = .full) :
    cmdProgramSubmit ao b c r = (b, .stay) :=
  (guarded_passed passed).trans (by rw [place])

theorem cmdProgramSubmit_fenced (place : placeCtx b r.vi (fieldAt c 26 1) = .fenced) :
    cmdProgramSubmit ao b c r = (b, .now .taskAborted 0 0) :=
  (guarded_passed passed).trans (by rw [place])

end

/-! ### CHAIN_SUBMIT (R172) -/

/-- The chain of stages bound, its completion owed to the job of its stage records while that is open. -/
def boundChain (b : Block) (l : List StageRec) (cs : List Nat) (r : Reply) : Chain :=
  { live := true, vi := r.vi, stages := cs
    rings := l.dropLast.map fun s => ({ buf := s.ring % 65536, slotLog := s.slotLog, count := s.count } : Ring)
    owed := some r, result := ctxResult (cs.getD 0 0) (b.ctx (cs.getD 0 0))
    job := if jobOpen b b.rin.nextJob then some b.rin.nextJob else none }

section
variable {d : Bytes} {b0 b1 : Block} {l : List StageRec}
  (passed : check0 b c r .any [(16, 24)] (decide (2 ≤ fieldAt c 24 1) && decide (fieldAt c 24 1 ≤ 8)) = none)
  (read : readVa b r.vi clsControl (fieldAt c 16 8) (32 * fieldAt c 24 1) = .ok d)
  (noted : b0 = palNote b r.vi (fieldAt c 16 8) (32 * fieldAt c 24 1)) (records : l = stageRecs (fieldAt c 24 1) d)
  (sound : checkStages b0 r.vi l = none)
include passed read noted records sound

theorem cmdChainSubmit_binds {cs : List Nat} {b2 : Block}
    (bound : bindStages (lowestFree b0.chains.keys 0) r.vi 0 l b0 [] = (b1, .ok cs))
    (written : writeStages r.vi (fieldAt c 16 8) 0 cs b1 = .ok b2) :
    cmdChainSubmit ao b c r = (cs.foldl startFetch (wakeP2
      ((if (boundChain b2 l cs r).job.isSome then nextJob b2 else b2).setChain (lowestFree b0.chains.keys 0)
        (boundChain b2 l cs r))), .later) := by
  subst noted records
  refine (guarded_passed passed).trans ?_
  rw [read]
  refine (guarded_passed sound).trans ?_
  dsimp only
  rw [bound]
  dsimp only
  rw [written]
  rfl

/-- With no place for every stage nothing is bound: a stage in a fenced quadrant aborts the command, else it waits. -/
theorem cmdChainSubmit_unplaced {p : Place} (place : bindStages (lowestFree b0.chains.keys 0) r.vi 0 l b0 [] = (b1, .error p)) :
    cmdChainSubmit ao b c r = (b0, if p = .fenced then .now .taskAborted 0 0 else .stay) := by
  subst noted records
  refine (guarded_passed passed).trans ?_
  rw [read]
  refine (guarded_passed sound).trans ?_
  dsimp only
  rw [place]
  cases p <;> rfl

end

end

/-- Settles O42: each submission by the place it finds. -/
theorem programsBound : Obligations.ProgramsBound := by
  unfold Obligations.ProgramsBound
  intro s src b kept c r
  refine ⟨fun taken passed => ⟨fun n place => ?_, fun place => ?_, fun place => ?_⟩, fun d taken passed read => ?_,
    fun n vi l o ch => bindCtx_binds b n vi l o ch⟩
  · exact exec_row_later rfl taken (cmdProgramSubmit_binds passed place)
  · exact exec_row_stay rfl taken (cmdProgramSubmit_full passed place)
  · exact exec_row_now rfl taken (cmdProgramSubmit_fenced passed place)
  · intro b0 l sound
    refine ⟨fun b1 cs b2 bound written => ⟨boundChain b2 l cs r, rfl, rfl, rfl, ?_, rfl, ?_⟩, fun b1 place => ?_,
      fun b1 place => ?_⟩
    · rw [boundChain, List.length_map, List.length_dropLast]
    · exact exec_row_later rfl taken (cmdChainSubmit_binds passed read rfl rfl sound bound written)
    · exact exec_row_stay rfl taken (cmdChainSubmit_unplaced passed read rfl rfl sound place)
    · exact exec_row_now rfl taken (cmdChainSubmit_unplaced passed read rfl rfl sound place)

end Sys2Proof.Machine
end

section
/-! SUPPORT. CONTEXT_RESUME, CONTEXT_ABORT and CONTEXT_INSPECT (R176 to R179). -/

namespace Sys2Proof.Machine

/-! ### The first stopped execution of a context (R177) -/

section
variable {b b2 : Block} {t : Nat}

theorem resumeNext_none (empty : (b.ctx t).execs = []) : resumeNext b t = b := by
  simp only [resumeNext, empty]

section
variable {e : Exec} {l : List Exec} (first : (b.ctx t).execs = e :: l) (stopped : e.stopped = true) (may : canIssue b t = true)
include first stopped may

/-- A stopped execution goes on as its check has left it. -/
theorem resumeNext_checked {e' : Exec} (checked : recheck b t e = (b2, .ok e')) :
    resumeNext b t = (recForget b2 t).modCtx t fun x => { x with execs := e' :: l } := by
  simp only [resumeNext, first, stopped, may, checked, Bool.not_true, Bool.or_self, Bool.false_eq_true, if_false]

/-- A check that fails halts the context again. -/
theorem resumeNext_failed {st : Status} {va : Nat} (failed : st ≠ .held) (checked : recheck b t e = (b2, .error (st, va))) :
    resumeNext b t = haltBegin (recForget b2 t) t st va 0 (some e.seq) := by
  simp only [resumeNext, first, stopped, may, checked, Bool.not_true, Bool.or_self, Bool.false_eq_true, if_false]

theorem resumeNext_held {va : Nat} (checked : recheck b t e = (b2, .error (.held, va))) :
    resumeNext b t = pursue b2 t (b2.ctx t).vi va := by
  simp only [resumeNext, first, stopped, may, checked, Bool.not_true, Bool.or_self, Bool.false_eq_true, if_false]

end

end

/-! ### CONTEXT_INSPECT (R179) -/

theorem cmdContextInspect_written {ao : AO} {b b' : Block} {c : Bytes} {r : Reply}
    (passed : check b c r .any (ctxTarget b r.vi (cmdTarget c)) (b.ctx (cmdTarget c)).epoch [(16, 23)] true = none)
    (written : writeVa b r.vi clsControl (fieldAt c 16 8) (inspectRec (b.ctx (cmdTarget c)) (currentIns b (cmdTarget c))) =
      .ok b') : cmdContextInspect ao b c r = (b', .now .ok 128 0) := by
  refine (guarded_passed passed).trans ?_
  rw [written]

/-- Settles O43: each command by its handler, a resumed execution by its check. -/
theorem contextCommands : Obligations.ContextCommands := by
  unfold Obligations.ContextCommands
  intro s src b kept c r
  refine ⟨fun taken passed => ?_, resumeNext_none, fun e l first stopped may => ⟨fun b2 e' checked => ?_,
    fun b2 st va failed checked => ?_, fun b2 va checked => ?_⟩, fun taken passed => ?_, fun b' taken passed written => ?_⟩
  · exact exec_row_later (k := cmdContextResume) rfl taken (guarded_passed passed)
  · exact resumeNext_checked first stopped may checked
  · exact resumeNext_failed first stopped may failed checked
  · exact resumeNext_held first stopped may checked
  · exact exec_row_later (k := cmdContextAbort) rfl taken (guarded_passed passed)
  · exact exec_row_now rfl taken (cmdContextInspect_written passed written)

end Sys2Proof.Machine
end

section
/-! SUPPORT. Data instructions begin (R148 to R150, R161, R187), and contexts fetch (R145). -/

namespace Sys2Proof.Machine

/-! ### Data instructions -/

/-- The rows of the nine data instructions by their opcodes. -/
theorem data_row {c op : Nat} {ins : Instr}
    (listed : (ins, op) ∈ [(Instr.move c, 1), (Instr.gather c, 2), (Instr.scatter c, 3), (Instr.maskmove c, 4),
      (Instr.expand c, 5), (Instr.automorph c, 6), (Instr.rnscast c, 7), (Instr.reduce c, 8), (Instr.corner c, 9)]) :
    listedInstr.contains op = true ∧
      ∀ s, exec ins s = lift (fun _ b => runInstr (opIs op) (fun b x i => insData b c x i) c b) s := by
  simp only [List.mem_cons, Prod.mk.injEq, List.not_mem_nil, or_false] at listed
  rcases listed with ⟨rfl, rfl⟩ | ⟨rfl, rfl⟩ | ⟨rfl, rfl⟩ | ⟨rfl, rfl⟩ | ⟨rfl, rfl⟩ | ⟨rfl, rfl⟩ | ⟨rfl, rfl⟩ | ⟨rfl, rfl⟩ |
    ⟨rfl, rfl⟩ <;> exact ⟨by decide, fun _ => rfl⟩

section
variable {b : Block} {c : Nat} {x : Ctx} {i : Bytes}

theorem insData_illegal (illegal : dataLegal i = false) : insData b c x i = .halt b .badOpcode 0 :=
  if_pos (by simp [illegal])

section
variable (legal : dataLegal i = true)
include legal

theorem insData_skips (skips : skipped x i = true) : insData b c x i = .go (advance b c) := by
  unfold insData
  rw [if_neg (by simp [legal]), if_pos skips]

/-- A data instruction that moves something begins as an execution with the next number (R148, R187). -/
theorem insData_begins {b' : Block} {e : Exec} (runs : skipped x i = false) (room : x.execs.length < execLimit)
    (planned : planExec b c i (x.loops.map (·.it)) x.nextSeq x.pc = (b', .ok e)) (free : footBlocked x e = false)
    (moves : e.units ≠ []) :
    insData b c x i = .go (b'.setCtx c { b'.ctx c with
      pc := x.pc + 32, nextSeq := x.nextSeq + 1, paced := none
      execs := (b'.ctx c).execs ++ [{ e with line := x.paced, lefts := x.loops.map (·.left) }] }) := by
  unfold insData
  rw [if_neg (by simp [legal]), if_neg (by simp [runs]), if_neg (Nat.not_le.2 room), planned]
  dsimp only
  rw [if_neg (by simp [free]), if_neg (by simpa using moves), if_neg (by simpa using moves)]

end

end

/-! ### Instruction fetch (R145) -/

/-- How a context's fetch goes on once its pieces are translated: they are issued, walked for, or the fetch has failed. -/
def fetchOn (b : Block) (c vi : Nat) : SmallXl → Block
  | .ok l => l.foldl (issueFetch c) b
  | .miss va => startWalk b (.fetch c va) vi va
  | .fail st va => failFetch (faultPin b vi va c st) c st va 0

section
variable {b b2 : Block} {c : Nat}

/-- Nothing is fetched while a fetch is under way or more than 8 instructions stand buffered. -/
theorem startFetch_idle (idle : (b.ctx c).fetch.isSome = true ∨ 8 < buffered (b.ctx c).ibuf 16 (b.ctx c).pc) :
    startFetch b c = b :=
  if_pos (by rcases idle with h | h <;> simp [h])

section
variable (may : canIssue b c = true) (noFetch : (b.ctx c).fetch = none) (good : (b.ctx c).fetchBad = none)
  (few : buffered (b.ctx c).ibuf 16 (b.ctx c).pc ≤ 8) {va : Nat}
  (at_ : va = (b.ctx c).pc + 32 * buffered (b.ctx c).ibuf 16 (b.ctx c).pc)
  {b1 : Block} (begun : b1 = b.setCtx c { b.ctx c with fetch := some { va := va, len := 256 } })
include may noFetch good few at_ begun

/-- The fetch that is due goes as its translation does. -/
theorem startFetch_due {x : SmallXl} (translated : xlPieces c clsControl (pieces 3 va 256) b1 = (b2, x)) :
    startFetch b c = fetchOn b2 c (b.ctx c).vi x := by
  subst begun at_
  unfold startFetch
  dsimp only
  rw [if_neg (by simp [may, noFetch, good, Nat.not_lt.2 few]), translated]
  cases x <;> rfl

end

end

/-- Settles O47: a data instruction by its encoding, its predicate and its plan; a fetch by how its pieces translate. -/
theorem dataInstructions : Obligations.DataInstructions := by
  unfold Obligations.DataInstructions
  intro s c op ins b i row may fetched his
  obtain ⟨listed, runsRow⟩ := data_row row
  have listed := listedInstr_of his listed
  have his := beq_iff_eq.2 his
  refine ⟨fun legal skips => ?_, fun b' e legal runs room planned free moves => ?_, fun illegal alone => ?_,
    fun b => startFetch_idle, fun b may noFetch good few => ⟨fun b2 l translated => ?_, fun b2 at_ translated => ?_,
      fun b2 st at_ translated => ?_⟩⟩
  · exact exec_instr_go (runsRow s) may fetched listed his (insData_skips legal skips)
  · exact exec_instr_go (runsRow s) may fetched listed his (insData_begins legal runs room planned free moves)
  · exact exec_instr_haltNow (runsRow s) may fetched listed his (insData_illegal illegal) (.inl rfl) alone
  · exact startFetch_due may noFetch good few rfl rfl translated
  · exact startFetch_due may noFetch good few rfl rfl translated
  · exact startFetch_due may noFetch good few rfl rfl translated

end Sys2Proof.Machine
end

section
/-! SUPPORT. LOOP and ENDLOOP (R158). -/

namespace Sys2Proof.Machine

section
variable (b : Block) (c : Nat) {x : Ctx} {i : Bytes}

/-! ### LOOP -/

section
variable (zeroA : zeros i 1 3 = true) (zeroB : zeros i 12 31 = true)
include zeroA zeroB

/-- An end offset of 0 and a fifth level are out of bounds. -/
theorem insLoop_bounds (bad : fieldAt i 8 4 = 0 ∨ 4 ≤ x.loops.length) : insLoop b c x i = .halt b .bounds 0 := by
  unfold insLoop
  rw [if_neg (by simp [zeroA, zeroB]), if_pos (by simpa using bad)]

section
variable (ends : 0 < fieldAt i 8 4) (room : x.loops.length < 4)
include ends room

/-- A LOOP that counts opens a level. -/
theorem insLoop_opens (counts : 0 < fieldAt i 4 4) : insLoop b c x i = .go (b.setCtx c { x with
    pc := x.pc + 32
    loops := x.loops ++ [{ start := x.pc, stop := x.pc + 32 * fieldAt i 8 4, left := fieldAt i 4 4, it := 0 }] }) := by
  unfold insLoop
  rw [if_neg (by simp [zeroA, zeroB]), if_neg (by simp; omega), if_neg (Nat.ne_of_gt counts)]

/-- A LOOP with count 0 passes its body and its ENDLOOP over. -/
theorem insLoop_passes (never : fieldAt i 4 4 = 0) :
    insLoop b c x i = .go (b.setCtx c { x with pc := x.pc + 32 * fieldAt i 8 4 + 32 }) := by
  unfold insLoop
  rw [if_neg (by simp [zeroA, zeroB]), if_neg (by simp; omega), if_pos never]

end

end

/-! ### ENDLOOP -/

section
variable (zero : zeros i 1 31 = true)
include zero

theorem insEndloop_outside (outside : x.loops = []) : insEndloop b c x i = .halt b .bounds 0 := by
  simp only [insEndloop, zero, outside, List.getLast?_nil, Bool.not_true, Bool.false_eq_true, if_false]

section
variable {l : LoopLevel} (inner : x.loops.getLast? = some l)
include inner

theorem insEndloop_elsewhere (elsewhere : l.stop ≠ x.pc) : insEndloop b c x i = .halt b .bounds 0 := by
  simp only [insEndloop, zero, inner, elsewhere, Bool.not_true, Bool.false_eq_true, if_false, ne_eq, not_false_eq_true, if_true]

section
variable (here : l.stop = x.pc)
include here

/-- The last iteration closes the level. -/
theorem insEndloop_closes (last : l.left ≤ 1) :
    insEndloop b c x i = .go (b.setCtx c { x with pc := x.pc + 32, loops := x.loops.dropLast }) := by
  simp only [insEndloop, zero, inner, here, last, Bool.not_true, Bool.false_eq_true, if_false, ne_eq, not_true_eq_false, if_true]

/-- Any other goes back to the level's first instruction. -/
theorem insEndloop_goesBack (more : 1 < l.left) : insEndloop b c x i = .go (b.setCtx c { x with
    pc := l.start + 32
    loops := x.loops.dropLast ++ [{ l with left := l.left - 1, it := (l.it + 1) % 2 ^ 32 }] }) := by
  simp only [insEndloop, zero, inner, here, Nat.not_le.2 more, Bool.not_true, Bool.false_eq_true, if_false, ne_eq,
    not_true_eq_false]

end

end

end

end

/-- Settles O48: a LOOP by its fields and the levels open, an ENDLOOP by the innermost level. -/
theorem loops : Obligations.Loops := by
  unfold Obligations.Loops
  intro s c b i may fetched
  refine ⟨fun op zeroA zeroB ends room => ⟨fun counts => ?_, fun never => ?_⟩, fun l op zero inner here =>
    ⟨fun last => ?_, fun more => ?_⟩, fun op zero outside alone => ?_, fun l op zero inner elsewhere alone => ?_,
    fun op zeroA zeroB noEnd alone => ?_, fun op zeroA zeroB full alone => ?_⟩
  · exact exec_instr_go rfl may fetched (listedInstr_of op (by decide)) (beq_iff_eq.2 op)
      (insLoop_opens b c zeroA zeroB ends room counts)
  · exact exec_instr_go rfl may fetched (listedInstr_of op (by decide)) (beq_iff_eq.2 op)
      (insLoop_passes b c zeroA zeroB ends room never)
  · exact exec_instr_go rfl may fetched (listedInstr_of op (by decide)) (beq_iff_eq.2 op)
      (insEndloop_closes b c zero inner here last)
  · exact exec_instr_go rfl may fetched (listedInstr_of op (by decide)) (beq_iff_eq.2 op)
      (insEndloop_goesBack b c zero inner here more)
  · exact exec_instr_haltNow rfl may fetched (listedInstr_of op (by decide)) (beq_iff_eq.2 op)
      (insEndloop_outside b c zero outside) (.inr rfl) alone
  · exact exec_instr_haltNow rfl may fetched (listedInstr_of op (by decide)) (beq_iff_eq.2 op)
      (insEndloop_elsewhere b c zero inner elsewhere) (.inr rfl) alone
  · exact exec_instr_haltNow rfl may fetched (listedInstr_of op (by decide)) (beq_iff_eq.2 op)
      (insLoop_bounds b c zeroA zeroB (.inl noEnd)) (.inr rfl) alone
  · exact exec_instr_haltNow rfl may fetched (listedInstr_of op (by decide)) (beq_iff_eq.2 op)
      (insLoop_bounds b c zeroA zeroB (.inr full)) (.inr rfl) alone

end Sys2Proof.Machine
end

section
/-! SUPPORT. FENCE, FLUSH, PRED and CHAIN (R169 to R173, R300, R303), and the word of a PRED. -/

namespace Sys2Proof.Machine

section
variable {b b' : Block} {c : Nat} {x : Ctx} {i : Bytes}

/-! ### FENCE (R169, R300) -/

/-- A FENCE whose qualifiers hold passes, any other stands (R169). -/
theorem insFence_begins (legal : (zeros i 1 1 && decide (fieldAt i 2 1 < 8) && zeros i 3 31) = true) (first : x.fence = none)
    {f : Fence} (his : f = { seq := x.nextSeq, rd := bitOf (fieldAt i 2 1) 0, wr := bitOf (fieldAt i 2 1) 1
                             sc := bitOf (fieldAt i 2 1) 2 }) :
    insFence b c x i = .go (if fenceHolds b c f then advance b c else b.setCtx c { x with pc := x.pc + 32, fence := some f }) := by
  subst his
  unfold insFence
  dsimp only
  rw [if_neg (by rw [legal]; decide), if_neg (by simp [first])]
  split <;> rfl

theorem exec_fenceComplete (c : Nat) (s : State) : exec (.fenceComplete c) s = .next (s.after (fenceComplete c s.b)) := rfl

theorem fenceComplete_holds {f : Fence} (stands : (b.ctx c).fence = some f) (may : canIssue b c = true)
    (holds : fenceHolds b c f = true) : fenceComplete c b = b.setCtx c { b.ctx c with fence := none } := by
  simp only [fenceComplete, stands, may, holds, Bool.and_self, if_true]

/-! ### FLUSH (R170, R303) -/

section
variable {n : Nat}
  (legal : (fieldAt i 1 1 / 4 == 0 && decide (fieldAt i 2 1 < 2) && zeros i 3 7 && zeros i 16 31) = true)
  (runs : skipped x i = false) (named : checkNamed b x.vi (fieldAt i 8 8) = .ok n)
include legal runs named

theorem insFlush_uncached (uncached : (b.slot n).canvas.cached = false) : insFlush b c x i = .go (advance b c) := by
  unfold insFlush
  dsimp only
  rw [if_neg (by rw [legal]; decide), if_neg (by simp [runs]), named]
  exact if_pos (by rw [uncached]; rfl)

/-- The dirty lines under a cached canvas are written back, and the FLUSH ends with the last of them. -/
theorem insFlush_cached (cached : (b.slot n).canvas.cached = true) (written : flushWaits x (b.slot n).canvas = false)
    (unfenced : writesHeld x = false)
    (still : ((linesUnder b x.vi (b.slot n).canvas).any fun e => e.2.writing || e.2.filling) = false) {b2 : Block}
    (flushed : b2 = (linesUnder b x.vi (b.slot n).canvas).foldl (fun b e => flushLine b c (bitOf (fieldAt i 2 1) 0) e)
      (if (linesUnder b x.vi (b.slot n).canvas).any fun e => e.2.dirty then wakeP2 b else b)) :
    insFlush b c x i = .go (if flushing b2 c then b2 else advance b2 c) := by
  subst flushed
  unfold insFlush
  dsimp only
  rw [if_neg (by rw [legal]; decide), if_neg (by simp [runs]), named]
  dsimp only
  rw [if_neg (by rw [cached]; decide), if_neg (by rw [written, unfenced, still]; decide)]

end

/-! ### PRED (R171) -/

section
variable {cv : Canvas} {j : Nat}
  (legal : (zeros i 1 1 && decide (fieldAt i 2 1 < 4) && zeros i 3 7 && zeros i 21 23) = true)
  (flag : flagElem b x i false = .ok (cv, j)) (free : flagBlocked x (elemVa cv j) (bytesOf cv.type) = false)
include legal flag free

/-- A PRED whose word is under way waits for it. -/
theorem insPred_pending (read : readFlag b c cv.cached (elemVa cv j) (bytesOf cv.type) = (b', .pending)) :
    insPred b c x i = .go (b'.modCtx c fun x => { x with wait := some (.pred (fieldAt i 2 1) (fieldAt i 24 8)) }) := by
  unfold insPred
  dsimp only
  rw [if_neg (by rw [legal]; decide), flag]
  dsimp only
  rw [if_neg (by simp [free]), read]

theorem insPred_stay (read : readFlag b c cv.cached (elemVa cv j) (bytesOf cv.type) = (b', .stay)) :
    insPred b c x i = .hold b' := by
  unfold insPred
  dsimp only
  rw [if_neg (by rw [legal]; decide), flag]
  dsimp only
  rw [if_neg (by simp [free]), read]

end

/-- With its word a PRED sets the predicate of its context, and nothing else but what it waited for and the address. -/
theorem predDone_ctx (b : Block) (c cmp w v : Nat) : (predDone b c cmp w v).ctx c =
    { b.ctx c with pred := predOf cmp w v, wait := none, pc := (b.ctx c).pc + 32 } := by
  simp only [predDone, advance, Block.modCtx, Block.setCtx_ctx]

theorem predDone_ctx_other (b : Block) (c cmp w v : Nat) {d : Nat} (other : d ≠ c) :
    (predDone b c cmp w v).ctx d = b.ctx d := by
  simp only [predDone, advance, Block.modCtx, Block.setCtx_ctx_other _ c _ d other]

theorem flagArrived_pred {a : Acc} {d : Bytes} {cmp v : Nat} {l : SmallRead}
    (load : ((flagGot b c a d).ctx c).load = some l) (whole : l.whole = true)
    (wait : ((flagGot b c a d).ctx c).wait = some (.pred cmp v)) {b1 : Block}
    (got : b1 = (flagGot b c a d).setCtx c { (flagGot b c a d).ctx c with load := none }) (may : canIssue b1 c = true) :
    flagArrived b c a d = startFetch (predDone b1 c cmp (leNat (l.got.map (·.2))) v) c := by
  subst got
  unfold flagArrived
  dsimp only at may ⊢
  rw [load]
  dsimp only
  rw [if_neg (by simp [whole])]
  split
  · next look => cases wait.symm.trans look
  · next look =>
    obtain ⟨rfl, rfl⟩ := WaitFor.pred.inj (Option.some.inj (wait.symm.trans look))
    exact if_pos may
  · next _ other => exact absurd wait (other _ _)

/-! ### CHAIN (R173) -/

/-- A CHAIN publishes the open slot once the writes to the ring have been made and a slot is free. -/
theorem insChain_publishes {n k : Nat} {r : Ring} (legal : (decide (fieldAt i 1 1 < 2) && zeros i 2 31) = true)
    (written : (x.execs.any fun e => bitsOf (fieldAt e.ins 2 1) 7 6 == 2) = false) (below : downRing b x = some (n, k, r))
    (part : r.cur ≠ []) (room : r.full.length < r.count) :
    insChain b c x i = .go (advance (setRing b n k { r with
      full := r.full ++ [r.cur], cur := [], eoc := r.eoc || bitOf (fieldAt i 1 1) 0 }) c) := by
  have open_ : r.cur.isEmpty = false := by simpa using part
  unfold insChain
  rw [if_neg (by rw [legal]; decide), if_neg (by rw [written]; decide), below]
  dsimp only
  rw [if_neg (by simpa [open_] using room), open_]
  rfl

end

/-- Settles O51: each instruction by its branches, the word of a PRED by what its context waits for. -/
theorem fencesAndOthers : Obligations.FencesAndOthers := by
  unfold Obligations.FencesAndOthers
  intro s c
  refine ⟨fun b i may fetched => ⟨fun op legal first => ?_, fun n op legal runs named => ⟨fun uncached => ?_,
      fun cached written unfenced still => ?_⟩, fun cv j b' op legal flag free => ⟨fun read => ?_, fun read => ?_⟩,
      fun n k r op legal written below part room => ?_⟩, fun f stands may holds => ?_, fun b cmp w v => ⟨?_, ?_, rfl⟩,
    fun b a d cmp v l load whole wait may => ?_⟩
  · exact exec_instr_go rfl may fetched (listedInstr_of op (by decide)) (beq_iff_eq.2 op) (insFence_begins legal first rfl)
  · exact exec_instr_go rfl may fetched (listedInstr_of op (by decide)) (beq_iff_eq.2 op)
      (insFlush_uncached legal runs named uncached)
  · exact exec_instr_go rfl may fetched (listedInstr_of op (by decide)) (beq_iff_eq.2 op)
      (insFlush_cached legal runs named cached written unfenced still rfl)
  · exact exec_instr_go rfl may fetched (listedInstr_of op (by decide)) (beq_iff_eq.2 op) (insPred_pending legal flag free read)
  · exact exec_instr_hold rfl may fetched (listedInstr_of op (by decide)) (beq_iff_eq.2 op) (insPred_stay legal flag free read)
  · exact exec_instr_go rfl may fetched (listedInstr_of op (by decide)) (beq_iff_eq.2 op)
      (insChain_publishes legal written below part room)
  · rw [exec_fenceComplete, fenceComplete_holds stands may holds]
  · exact predDone_ctx b c cmp w v
  · exact fun d other => predDone_ctx_other b c cmp w v other
  · exact flagArrived_pred load whole wait rfl may

end Sys2Proof.Machine
end

section
/-! SUPPORT. Lanes: admission, the ring's hand-over, commit and the end of a halt (R173, R174, R176, R181, R185, R191). -/

namespace Sys2Proof.Machine

/-! ### Executions and units after an update -/

section
variable {b : Block} {c : Nat} {e : Exec} {u : WorkUnit}

theorem modExec_exec? (b : Block) (c q r : Nat) {f : Exec → Exec} (keeps : ∀ e, (f e).seq = e.seq) :
    (modExec b c q f).exec? c r = (b.exec? c r).map fun e => if e.seq == q then f e else e := by
  have seq_same : ((fun e : Exec => e.seq == r) ∘ fun e => if e.seq == q then f e else e) = fun e => e.seq == r := by
    funext e
    dsimp only [Function.comp]
    split
    · rw [keeps]
    · rfl
  rw [Block.exec?, modExec, Block.modCtx, Block.setCtx_ctx, List.find?_map, seq_same, Block.exec?]

/-- An execution is found by its number when no other of its context has it. -/
theorem exec?_of_mem (mem : e ∈ (b.ctx c).execs) (unique : ∀ f ∈ (b.ctx c).execs, f.seq = e.seq → f = e) :
    b.exec? c e.seq = some e := by
  obtain ⟨f, found⟩ : ∃ f, b.exec? c e.seq = some f := by
    rw [← Option.isSome_iff_exists, Block.exec?, List.find?_isSome]
    exact ⟨e, mem, beq_self_eq_true _⟩
  rw [found, unique f (List.mem_of_find?_eq_some found) (by simpa using List.find?_some found)]

theorem unit?_of_mem (mem : u ∈ e.units) (unique : ∀ v ∈ e.units, v.n = u.n → v = u) : e.unit? u.n = some u := by
  obtain ⟨v, found⟩ : ∃ v, e.unit? u.n = some v := by
    rw [← Option.isSome_iff_exists, Exec.unit?, List.find?_isSome]
    exact ⟨u, mem, beq_self_eq_true _⟩
  rw [found, unique v (List.mem_of_find?_eq_some found) (by simpa using List.find?_some found)]

/-- An execution with one of its units changed. -/
def Exec.modUnit (e : Exec) (n : Nat) (f : WorkUnit → WorkUnit) : Exec :=
  { e with units := e.units.map fun u => if u.n == n then f u else u }

theorem Exec.modUnit_unit? (e : Exec) (n m : Nat) {f : WorkUnit → WorkUnit} (keeps : ∀ u, (f u).n = u.n) :
    (e.modUnit n f).unit? m = (e.unit? m).map fun u => if u.n == n then f u else u := by
  have number_same : ((fun u : WorkUnit => u.n == m) ∘ fun u => if u.n == n then f u else u) = fun u => u.n == m := by
    funext u
    dsimp only [Function.comp]
    split
    · rw [keeps]
    · rfl
  rw [Exec.unit?, Exec.modUnit, List.find?_map, number_same, Exec.unit?]

theorem modUnit_exec? (b : Block) (c q n r : Nat) (f : WorkUnit → WorkUnit) :
    (modUnit b c q n f).exec? c r = (b.exec? c r).map fun e => if e.seq == q then e.modUnit n f else e :=
  modExec_exec? b c q r fun _ => rfl

/-! ### The next unit to admit (R181, R185, R191) -/

theorem freeLane_free {q l : Nat} {h : Held} (free : freeLane b q h = some l) : quadOfLane l = q ∧
    b.isFenced .lane l = false ∧ roomFor h (((lanesHeld b q).filter fun h => h.1 == l).map (·.2)) = true := by
  have open_ := List.find?_some free
  simp only [Bool.and_eq_true, Bool.not_eq_true'] at open_
  obtain ⟨i, -, his⟩ := List.mem_map.1 (List.mem_of_find?_eq_some free)
  exact ⟨by rw [← his, quadOfLane]; omega, open_⟩

/-- The unit admitted is one of a running context of the quadrant, its sides ready and its lane free. -/
theorem nextAdmitted_ready {q l : Nat} (next : nextAdmitted b q = some (c, e, u, l)) :
    quadOfCtx c = q ∧ canIssue b c = true ∧ e.stopped = false ∧ sideReady b c e u = true ∧
      freeLane b q (heldOf e u) = some l := by
  obtain ⟨d, ofQuad, next⟩ := List.exists_of_findSome?_eq_some next
  split at next
  · cases next
  · next may =>
    obtain ⟨f, -, next⟩ := List.exists_of_findSome?_eq_some next
    split at next
    · cases next
    · next going =>
      split at next
      · split at next
        · next ready =>
          obtain ⟨m, free, his⟩ := Option.map_eq_some_iff.1 next
          obtain ⟨rfl, rfl, rfl, rfl⟩ : d = c ∧ f = e ∧ _ = u ∧ m = l := by simpa using his
          obtain ⟨i, low, rfl⟩ := List.mem_map.1 ofQuad
          have low := List.mem_range.1 low
          exact ⟨by rw [quadOfCtx]; omega, by simpa using may, by simpa using going, ready, free⟩
        · cases next
      · cases next

/-! ### A unit enters its lane (R181) -/

/-- A unit with something left to read does not run yet. -/
theorem tryTransform_reading {q n : Nat} (found : b.exec? c q = some e) (his : e.unit? n = some u) (plain : e.decodes = false)
    (reads : u.runs ≠ []) : tryTransform b c q n = b := by
  have reading : unitWhole b c e u = false := by simp [unitWhole, reads]
  simp only [tryTransform, withUnit, found, his, reading, takeDecs, plain, Bool.not_false, if_true]

theorem takeStore_plain (plain : e.decodes = false) : takeStore b c e u = b := if_pos (by simp [plain])

theorem handStreams_none (noStreams : unitStreams e u = []) : handStreams b c e u = b := by
  have asked : streamsTo e u = [] := by
    rw [streamsTo, noStreams]
    exact List.filter_eq_nil_iff.2 fun _ _ => Bool.false_ne_true
  simp only [handStreams, asked, List.filter_nil, List.foldl_nil, ite_self]

section
variable {q l : Nat} (memS : e.kindS = 0) (memD : e.kindD = 0) (plain : e.decodes = false) (ordered : e.race = false)
  (sound : u.fail = none) (noStreams : unitStreams e u = [])
include memS memD plain ordered sound noStreams

/-- A sound unit of memory on both sides, without decoders and cores, enters its lane and is looked at. -/
theorem enterLane_memory {b1 : Block} {e1 : Exec}
    (entered : b1 = modUnit { b with flt := { b.flt with lastLane := setAt b.flt.lastLane q l } } c e.seq u.n
      fun u => { u with phase := .reading, lane := some l, onLane := true })
    (found : b1.exec? c e.seq = some e1) : enterLane b q l c e u = tryTransform b1 c e.seq u.n := by
  subst entered
  unfold enterLane
  simp only [memS, memD, plain, ordered, sound, takeStore_plain plain, handStreams_none noStreams, Nat.reduceBEq,
    Nat.reduceEqDiff, Bool.false_and, Bool.or_self, Bool.false_eq_true, decide_false, if_false]
  split
  · next gone => cases gone.symm.trans found
  · rfl

/-- One with something left to read only takes its lane. -/
theorem enterLane_reads (reads : u.runs ≠ []) (mem : e ∈ (b.ctx c).execs) (his : u ∈ e.units)
    (uniqueE : ∀ f ∈ (b.ctx c).execs, f.seq = e.seq → f = e) (uniqueU : ∀ v ∈ e.units, v.n = u.n → v = u) :
    enterLane b q l c e u = modUnit { b with flt := { b.flt with lastLane := setAt b.flt.lastLane q l } } c e.seq u.n
      fun u => { u with phase := .reading, lane := some l, onLane := true } := by
  have foundE := modUnit_exec? { b with flt := { b.flt with lastLane := setAt b.flt.lastLane q l } } c e.seq u.n e.seq
    fun u => { u with phase := .reading, lane := some l, onLane := true }
  rw [show Block.exec? { b with flt := { b.flt with lastLane := setAt b.flt.lastLane q l } } c e.seq = some e from
    exec?_of_mem mem uniqueE, Option.map_some, if_pos (beq_self_eq_true _)] at foundE
  have foundU := e.modUnit_unit? u.n u.n (f := fun u => { u with phase := .reading, lane := some l, onLane := true })
    fun _ => rfl
  rw [unit?_of_mem his uniqueU, Option.map_some, if_pos (beq_self_eq_true _)] at foundU
  rw [enterLane_memory memS memD plain ordered sound noStreams rfl foundE]
  exact tryTransform_reading foundE foundU plain reads

end

end

/-! ### UNIT_ADMISSION (R181, R182) -/

section
variable {b : Block} {q : Nat} (up : quadUp b q = true)
include up

section
variable (open_ : quadFenced b q = false)
include open_

theorem unitAdmission_admits {c l : Nat} {e : Exec} {u : WorkUnit}
    (next : nextAdmitted (refresh b q) q = some (c, e, u, l)) : unitAdmission q b = enterLane (refresh b q) q l c e u := by
  simp only [unitAdmission, up, open_, next, Bool.not_true, Bool.false_eq_true, if_false]

theorem unitAdmission_waits (next : nextAdmitted (refresh b q) q = none) : unitAdmission q b = waitRings (refresh b q) q := by
  simp only [unitAdmission, up, open_, next, Bool.not_true, Bool.false_eq_true, if_false]

end

/-- In a fenced quadrant every context with a unit to issue halts (R182). -/
theorem unitAdmission_fenced (fenced : quadFenced b q = true) :
    unitAdmission q b = (withUnits b q).foldl (fun b c => haltBegin b c .taskAborted 0) b := by
  simp only [unitAdmission, up, fenced, Bool.not_true, Bool.false_eq_true, if_false, if_true]

end

theorem exec_unitAdmission (q : Nat) (s : State) : exec (.unitAdmission q) s = .next (s.after (unitAdmission q s.b)) := rfl

/-! ### The ring's hand-over (R173, R174) -/

theorem exec_ringSlotHandover (c : Nat) (s : State) :
    exec (.ringSlotHandover c) s = .next (s.after (ringHandover c s.b)) := rfl

theorem ringHandover_ready {b : Block} {c : Nat} (may : canIssue b c = true) (waits : (b.ctx c).st = .waiting)
    (ring : (b.ctx c).wait = some .ring) (ready : ((b.ctx c).execs.any fun e => match nextUnit b e with
      | some u => (e.kindS == 2 || e.kindD == 2) && sideReady b c e u
      | none => false) = true) :
    ringHandover c b = b.setCtx c { b.ctx c with st := .running, wait := none } :=
  if_pos (by rw [may, waits, ring]; exact ready)

/-! ### Commit (R185, R200) -/

theorem exec_unitCommit (c q n : Nat) (s : State) : exec (.unitCommit c q n) s = .next (s.after (unitCommit c q n s.b)) := rfl

/-- A unit's commit, up to what becomes of its execution. -/
def committed (b : Block) (c q n : Nat) (e : Exec) (u : WorkUnit) : Block :=
  releaseLanes (modUnit (modExec (mergeInto b e u.stats) c q fun e =>
    { e with dsrc := digestAdd e.dsrc u.dsrc, ddst := digestAdd e.ddst u.ddst
             doneBursts := e.doneBursts ++
               ((List.range u.nBursts).map (u.firstBurst + ·)).filter fun k => !e.doneBursts.contains k })
    c q n fun u => { u with phase := .committed }) c

/-- An execution ends with its last unit. -/
def endIfCommitted (b : Block) (c q : Nat) : Block :=
  match b.exec? c q with
  | none => b
  | some e => if e.units.all fun u => u.phase == .committed then endExec b c e else b

/-- A delivered unit commits, and its execution ends if it was the last. -/
theorem unitCommit_delivered {b b2 : Block} {c q n : Nat} {e : Exec} {u : WorkUnit} (found : b.exec? c q = some e)
    (unit : e.unit? n = some u) (going : e.stopped = false) (done : delivered b c e u = true)
    (after : b2 = committed b c q n e u) : unitCommit c q n b = endIfCommitted b2 c q := by
  unfold unitCommit
  rw [found]
  dsimp only
  rw [unit]
  dsimp only
  rw [if_neg (by simp [going, done]), ← committed, ← after]
  unfold endIfCommitted
  cases b2.exec? c q <;> rfl

/-! ### A halt (R176) -/

section
variable {b : Block} {c : Nat}

theorem haltBegin_stopped (st : Status) (va k : Nat) (q : Option Nat)
    (stopped : (b.ctx c).halting.isSome = true ∨ (b.ctx c).st = .halted ∨ (b.ctx c).st = .free) :
    haltBegin b c st va k q = b :=
  if_pos (by rcases stopped with h | h | h <;> simp [h])

/-- A running context's halt notes the instruction of the execution that failed, or the one the context is at. -/
theorem haltBegin_begins (st : Status) (va k : Nat) (q : Option Nat) (going : (b.ctx c).halting = none)
    (bound : (b.ctx c).st = .running ∨ (b.ctx c).st = .waiting) (kept : (b.ctx c).aborting = false) :
    haltBegin b c st va k q = b.setCtx c { b.ctx c with
      halting := some (st, va), haltRetries := k, haltSeq := q
      haltPc := match q.bind fun n => (b.ctx c).execs.find? fun e => e.seq == n with
        | some e => e.pcA
        | none => (b.ctx c).pc } :=
  if_neg (by rcases bound with h | h <;> simp [going, kept, h])

end

theorem exec_halt_answered {c : Nat} {s : State} (answered : halted s.b c = true) : exec (.halt c) s = .next (s.after
    (finishHalt ((s.b.ctx c).execs.foldl (fun b e => endEncoder b c e.seq) s.b) c)) :=
  congrArg (fun b => Host.Outcome.next (s.after b)) (if_pos answered)

/-- Settles O52: admission by the quadrant and the unit found, then each event by its function's branch. -/
theorem unitsAndHalts : Obligations.UnitsAndHalts := by
  unfold Obligations.UnitsAndHalts
  refine ⟨fun s q up open_ => ⟨fun c e u l next => ?_, fun next => ?_⟩, fun b q c l e u next => ?_,
    fun b q c l e u memS memD plain ordered _ sound noStreams reads mem his uniqueE uniqueU => ?_, fun s q up fenced => ?_,
    fun s c may waits ring ready => ?_, fun s c q n e u found unit going done => ?_, fun b c st va k q => ⟨?_, ?_⟩,
    fun s c => exec_halt_answered⟩
  · rw [exec_unitAdmission, unitAdmission_admits up open_ next]
  · rw [exec_unitAdmission, unitAdmission_waits up open_ next]
  · obtain ⟨here, may, going, ready, free⟩ := nextAdmitted_ready next
    obtain ⟨lane, inService, room⟩ := freeLane_free free
    exact ⟨lane, inService, here, may, going, ready, room⟩
  · exact enterLane_reads memS memD plain ordered sound noStreams reads mem his uniqueE uniqueU
  · rw [exec_unitAdmission, unitAdmission_fenced up fenced]
  · rw [exec_ringSlotHandover, ringHandover_ready may waits ring ready]
  · intro nums b1 b2
    rw [exec_unitCommit, unitCommit_delivered (b2 := b2) found unit going done rfl]
    unfold endIfCommitted
    cases b2.exec? c q <;> rfl
  · exact haltBegin_stopped st va k q
  · exact haltBegin_begins st va k q

end Sys2Proof.Machine
end

section
/-! SUPPORT. Grants and window boundaries: what a grant point does with the requester chosen, and what a boundary renews
(R183, R184, R355-R364, R463). -/

namespace Sys2Proof.Machine

/-! ### BURST_GRANT by its point (R355) -/

theorem exec_burstGrant (pt : ArbPoint) (s : State) : exec (.burstGrant pt) s = .next (s.after (burstGrant pt s.b)) := rfl

section
variable {b : Block}

theorem burstGrant_channel {n : Nat} {w : Bool} (low : n < 24) (up : islandUp b (5 + n) = true) :
    burstGrant (.channel n w) b = settleWrites (grantChan b n w) :=
  if_pos (by rw [up, Bool.and_true, decide_eq_true low])

theorem burstGrant_egress {p : Nat} (low : p < 8) (up : islandUp b (29 + p) = true) :
    burstGrant (.egress p) b = grantEgress b p :=
  if_pos (by rw [up, Bool.and_true, decide_eq_true low])

theorem burstGrant_ring {h r : Nat}
    (chosen : ((b.arbAt (arbRing h)).unmark (hopWaiting b h)).choose (weightOf b) (hopWaiting b h) = some r) :
    burstGrant (.ring h) b = settleWrites (hopBeat (b.setArb (arbRing h)
      (((b.arbAt (arbRing h)).unmark (hopWaiting b h)).charge (weightOf b) r)) h r) := by
  simp only [burstGrant, grantHop, chosen]

theorem burstGrant_palette {k r : Nat}
    (chosen : ((b.arbAt (arbPal k)).unmark (palWaiting b k)).choose (weightOf b) (palWaiting b k) = some r) :
    burstGrant (.palette k) b = settleWrites (palWord (b.setArb (arbPal k)
      (((b.arbAt (arbPal k)).unmark (palWaiting b k)).charge (weightOf b) r)) k r) := by
  simp only [burstGrant, grantPal, chosen]

end

/-! ### WINDOW_BOUNDARY by its island (R463) -/

theorem exec_windowBoundary (i : Nat) (s : State) :
    exec (.windowBoundary i) s = .next (s.after (windowBoundary i s.b)) := rfl

/-- The window counter of an island starts again. -/
def windowCleared (i : Nat) (b : Block) : Block :=
  { b with islands := { b.islands with win := b.islands.win.put 0 i 0 } }

section
variable {b : Block} {i : Nat} (up : islandUp b i = true)
include up

section
variable (clocked : i < 5 → b.power.state ≤ 1)
include clocked

/-- A boundary of a running island clears its counter, then renews what counts on it. -/
theorem windowBoundary_up (low : i < 38) : windowBoundary i b =
    if i < 4 then quadBoundary (windowCleared i b) i
    else if i = 4 then windowCleared i b
    else if i < 29 then chanBoundary (windowCleared i b) (i - 5)
    else if i < 37 then boundaryAt (windowCleared i b) (arbEgress (i - 29)) egressWeight (egressWaiting (b.link (i - 29)))
    else boundaryAt (windowCleared i b) (arbPal 4) (weightOf b) (palWaiting (windowCleared i b) 4) := by
  have counts : (38 ≤ i || !islandUp b i || (decide (i < 5) && decide (2 ≤ b.power.state))) = false := by
    simp only [up, Bool.not_true, Bool.or_false, Bool.or_eq_false_iff, decide_eq_false_iff_not, Bool.and_eq_false_imp,
      decide_eq_true_eq]
    omega
  exact if_neg (by rw [counts]; exact Bool.false_ne_true)

theorem windowBoundary_quadrant (quad : i < 4) : windowBoundary i b = quadBoundary (windowCleared i b) i := by
  rw [windowBoundary_up up clocked (by omega), if_pos quad]

theorem windowBoundary_gs (gs : i = 4) : windowBoundary i b = windowCleared i b := by
  rw [windowBoundary_up up clocked (by omega), if_neg (by omega), if_pos gs]

end

theorem windowBoundary_channel (above : 5 ≤ i) (below : i < 29) :
    windowBoundary i b = chanBoundary (windowCleared i b) (i - 5) := by
  rw [windowBoundary_up up (by omega) (by omega), if_neg (by omega), if_neg (by omega), if_pos below]

theorem windowBoundary_link (above : 29 ≤ i) (below : i < 37) : windowBoundary i b =
    boundaryAt (windowCleared i b) (arbEgress (i - 29)) egressWeight (egressWaiting (b.link (i - 29))) := by
  rw [windowBoundary_up up (by omega) (by omega), if_neg (by omega), if_neg (by omega), if_neg (by omega), if_pos below]

theorem windowBoundary_ct (ct : i = 37) : windowBoundary i b =
    boundaryAt (windowCleared i b) (arbPal 4) (weightOf b) (palWaiting (windowCleared i b) 4) := by
  rw [windowBoundary_up up (by omega) (by omega), if_neg (by omega), if_neg (by omega), if_neg (by omega),
    if_neg (by omega)]

end

/-! ### A context arbiter's grant (R160, R358, R359, R371) -/

section
variable {b : Block} {q c : Nat} {w : Bool} {k : Cand}

theorem grantCtx_off (off : quadUp b q = false) : grantCtx b q w = b := if_pos (by rw [off, Bool.not_false])

/-- The context picked has its burst granted, its path's slot taken. -/
theorem grantCtx_picks {b1 : Block} (up : quadUp b q = true)
    (picked : ((b.arbAt (arbCtx q)).unmark (waitingAt b q)).pick ((b.arbAt (arbPath q w)).unlock (waitingCtxs b q w))
      (weightOf b) (waitingCtxs b q w) = some c)
    (slot : b1 = (b.setArb (arbCtx q) ((b.arbAt (arbCtx q)).unmark (waitingAt b q))).setArb (arbPath q w)
      (((b.arbAt (arbPath q w)).unlock (waitingCtxs b q w)).slot (waitingCtxs b q w) c))
    (waits : waitingBurst b1 c w = some k) : grantCtx b q w = grantBurst b1 c k := by
  subst slot
  rw [grantCtx, if_neg (by rw [up]; exact Bool.false_ne_true)]
  have chosen : ((b.arbAt (arbCtx q)).unmark (waitingAt b q)).pick ((b.arbAt (arbPath q w)).unlock (waitingCtxs b q w))
      (weightOf (b.setArb (arbCtx q) ((b.arbAt (arbCtx q)).unmark (waitingAt b q)))) (waitingCtxs b q w) = some c := picked
  simp only [chosen, waits]

variable {b' : Block}

/-- A miss leaves the block as it was. -/
theorem xlBurst_miss {vi va : Nat} {need : Need} (miss : xlBurst b q vi va need = (.miss, b')) : b' = b := by
  rw [xlBurst] at miss
  split at miss
  · cases miss
  · split at miss
    · split at miss <;> cases miss
    · split at miss
      · cases miss; rfl
      · split at miss <;> cases miss

theorem grantBurst_walks (miss : xlBurst b (quadOfCtx c) (b.ctx c).vi k.va k.need = (.miss, b')) :
    grantBurst b c k = startWalk b' (.burst c k.exec.seq k.va) (b.ctx c).vi k.va := by
  obtain rfl := xlBurst_miss miss
  simp only [grantBurst, miss]

theorem grantBurst_halts {st : Status} (fails : xlBurst b (quadOfCtx c) (b.ctx c).vi k.va k.need = (.fail st, b')) :
    grantBurst b c k = haltBegin b' c st k.va 0 (some k.exec.seq) := by
  simp only [grantBurst, fails]

theorem grantBurst_issues {b2 : Block} {pa ks : Nat}
    (hit : xlBurst b (quadOfCtx c) (b.ctx c).vi k.va k.need = (.ok pa ks, b')) (on : burstDomain b' c k pa ≠ .fail)
    (prepared : prepareAll k.cached (k.pieces.map fun p => (pa + (p.1 - k.va), ks)) b' = (b2, false)) :
    grantBurst b c k = issueCand b2 c k pa ks := by
  simp only [grantBurst, hit, if_neg on, prepared]

end

/-! ### A channel's grant (R38, R39, R358, R363) -/

theorem classOf_lt (a : Acc) (w : Bool) : classOf a w < 3 := by
  rw [classOf]
  split
  · omega
  · cases w <;> decide

theorem Chan.spend_tok (c : Chan) {k j : Nat} (hk : k < 3) (hj : j < 3) :
    (c.spend k).tok j = if j = k then c.tok j - 1 else c.tok j := by
  match k, j, hk, hj with
  | 0, 0, _, _ | 0, 1, _, _ | 0, 2, _, _ | 1, 0, _, _ | 1, 1, _, _ | 1, 2, _, _ | 2, 0, _, _ | 2, 1, _, _ | 2, 2, _, _ => rfl

/-- Spending a token changes nothing but tokens. -/
theorem Chan.spend_tokens (c : Chan) (k : Nat) :
    c.spend k = { c with tokR := (c.spend k).tokR, tokW := (c.spend k).tokW, tokX := (c.spend k).tokX } := by
  unfold Chan.spend
  split <;> rfl

/-- A channel that presents an access under a tag: `o` stands at its write port. -/
def Chan.presents (c : Chan) (w : Bool) (a : Acc) (t : Nat) (o : WriteReq) : Chan :=
  let s := ({ c with used := c.used + 1 } : Chan).spend (classOf a w)
  if w then { s with wcred := s.wcred - 1, wwait := s.wwait.erase a, wtags := s.wtags ++ [(t, { a with tag := none })]
                     wqOut := some o }
  else { s with rcred := s.rcred - 1, rwait := s.rwait.erase a, rtags := s.rtags ++ [(t, { a with tag := none })]
                rqOut := some (a.gran, t) }

section
variable (c : Chan) (a : Acc) (t : Nat) (o : WriteReq)

theorem Chan.presents_tok (w : Bool) {j : Nat} (h : j < 3) :
    (c.presents w a t o).tok j = if j = classOf a w then c.tok j - 1 else c.tok j := by
  have spent := Chan.spend_tok { c with used := c.used + 1 } (classOf_lt a w) h
  cases w <;> exact spent

theorem Chan.presents_counts (w : Bool) :
    (c.presents w a t o).used = c.used + 1 ∧ (c.presents w a t o).budget = c.budget := by
  rw [Chan.presents, Chan.spend_tokens]
  cases w <;> exact ⟨rfl, rfl⟩

theorem Chan.presents_read : let p := c.presents false a t o
    p.rcred = c.rcred - 1 ∧ p.wcred = c.wcred ∧ p.rtags = c.rtags ++ [(t, { a with tag := none })] ∧
      p.rwait = c.rwait.erase a ∧ p.rqOut = some (a.gran, t) ∧ p.wtags = c.wtags := by
  rw [Chan.presents, Chan.spend_tokens]
  exact ⟨rfl, rfl, rfl, rfl, rfl, rfl⟩

theorem Chan.presents_write : let p := c.presents true a t o
    p.wcred = c.wcred - 1 ∧ p.rcred = c.rcred ∧ p.wtags = c.wtags ++ [(t, { a with tag := none })] ∧
      p.wwait = c.wwait.erase a ∧ p.rtags = c.rtags := by
  rw [Chan.presents, Chan.spend_tokens]
  exact ⟨rfl, rfl, rfl, rfl, rfl⟩

end

/-- The accesses that have a token of their class, or all where none has. -/
def tokensFirst (c : Chan) (w : Bool) (l : List (Nat × Acc)) : List (Nat × Acc) :=
  let rich := l.filter fun e => decide (0 < c.tok (classOf e.2 w))
  if rich = [] then l else rich

theorem tokensFirst_isEmpty (c : Chan) (w : Bool) (l : List (Nat × Acc)) : tokensFirst c w l =
    (let rich := l.filter fun e => decide (0 < c.tok (classOf e.2 w))
     if rich.isEmpty then l else rich) := by
  simp only [tokensFirst, List.isEmpty_iff]

/-- Where one of the accesses has a token, the one taken has. -/
theorem tokensFirst_has_token {c : Chan} {w : Bool} {l : List (Nat × Acc)} {r k : Nat} {a : Acc}
    (found : (tokensFirst c w l).find? (·.1 == r) = some (k, a)) (any : ∃ e ∈ l, 0 < c.tok (classOf e.2 w)) :
    0 < c.tok (classOf a w) := by
  obtain ⟨e, mem, token⟩ := any
  have rich : (l.filter fun e => decide (0 < c.tok (classOf e.2 w))) ≠ [] :=
    List.ne_nil_of_mem (List.mem_filter.2 ⟨mem, decide_eq_true token⟩)
  rw [tokensFirst, if_neg rich] at found
  exact of_decide_eq_true (List.mem_filter.1 (List.mem_of_find?_eq_some found)).2

section
variable {b : Block} {n : Nat} {w : Bool}

theorem grantChan_used_up (used : (b.chan n).budget ≤ (b.chan n).used) : grantChan b n w = b := if_pos used

/-- The access chosen is presented, its source charged. -/
theorem grantChan_presents {r k t : Nat} {a : Acc} {arb : Arb}
    (unmarked : arb = (b.arbAt (arbChan n w)).unmark ((pathWaiting b n w).map (·.1)))
    (left : (b.chan n).used < (b.chan n).budget)
    (chosen : arb.choose (weightOf b) ((tokensFirst (b.chan n) w (pathWaiting b n w)).map (·.1)) = some r)
    (found : (tokensFirst (b.chan n) w (pathWaiting b n w)).find? (·.1 == r) = some (k, a))
    (on : accDomEffect b a ≠ .fail) (tag : (b.chan n).tagFor w a = some t) :
    ∃ o, grantChan b n w = (b.setArb (arbChan n w) (arb.charge (weightOf b) r)).setChan n
      ((b.chan n).presents w a t o) := by
  refine ⟨writeOut (b.setArb (arbChan n w) (arb.charge (weightOf b) r)) n a t, ?_⟩
  subst unmarked
  rw [tokensFirst_isEmpty] at chosen found
  simp only [grantChan, if_neg (Nat.not_le.2 left), chosen, found, if_neg on, tag, Chan.presents]

end

/-! ### A link's slot (R325, R355, R366) -/

section
variable {b : Block} {p : Nat}

theorem grantEgress_shut (shut : portOn (b.link p) = false ∨ 4 ≤ (b.link p).staged.length) : grantEgress b p = b :=
  if_pos (by
    rcases shut with off | full
    · rw [off, Bool.not_false, Bool.true_or]
    · rw [decide_eq_true full, Bool.or_true])

theorem egressWaiting_full {l : Link} (full : 56 ≤ l.replay.length) : egressWaiting l = [] := if_pos full

/-- The class chosen puts its first flit behind those staged. -/
theorem grantEgress_stages {vc : Nat} {f : Flit} {l : Link} (on : portOn (b.link p) = true)
    (room : (b.link p).staged.length < 4)
    (chosen : ((b.arbAt (arbEgress p)).unmark (egressWaiting (b.link p))).choose egressWeight (egressWaiting (b.link p)) =
      some vc)
    (first : (b.link p).pop (flitClass vc (turnDateline b p vc)) = some (f, l)) :
    (grantEgress b p).link p = { l with staged := l.staged ++ [f] } := by
  have open_ : (!portOn (b.link p) || decide (4 ≤ (b.link p).staged.length)) = false := by
    rw [on, Bool.not_true, Bool.false_or, decide_eq_false (Nat.not_le.2 room)]
  simp only [grantEgress, open_, Bool.false_eq_true, if_false, chosen, first, Block.setLink_link]

end

/-! ### A beat at a ring hop (R183, R184) -/

/-- The first item at a hop is its requester's oldest. -/
theorem findIdx_req_head (i : RingItem) (l : List RingItem) : (i :: l).findIdx (fun j => j.req == i.req) = 0 := by
  rw [List.findIdx_cons, beq_self_eq_true, cond_true]

section
variable {b : Block} {h : Nat} {i : RingItem} {l : List RingItem} (items : hopItems b h = i :: l)
include items

theorem hopBeat_crosses (more : 1 < i.beats) :
    hopBeat b h i.req = { b with ring := b.ring.put [] h ({ i with beats := i.beats - 1 } :: l) } := by
  simp only [hopBeat, items, findIdx_req_head, List.getElem?_cons_zero, List.set_cons_zero, if_pos more]

section
variable (last : i.beats ≤ 1)
include last

theorem hopBeat_arrives (there : i.path = []) :
    hopBeat b h i.req = ringArrive { b with ring := b.ring.put [] h l } i.load := by
  simp only [hopBeat, items, findIdx_req_head, List.getElem?_cons_zero, List.eraseIdx_cons_zero,
    if_neg (Nat.not_lt.2 last), there]

theorem hopBeat_goesOn (further : i.path ≠ []) :
    hopBeat b h i.req = ringSend { b with ring := b.ring.put [] h l } i.req i.size i.load i.path := by
  obtain ⟨hop, rest, path⟩ := List.exists_cons_of_ne_nil further
  simp only [hopBeat, items, findIdx_req_head, List.getElem?_cons_zero, List.eraseIdx_cons_zero,
    if_neg (Nat.not_lt.2 last), path]

end

end

/-! ### A word at a Palette bank (R355) -/

section
variable {b : Block} {k o : Nat} {i : PalItem} {l : List PalItem} (items : b.palq.get [] k = i :: l)
  (window : i.off = some o)
include items window

/-- The first access at a bank, one of the window, is its requester's oldest that is ready. -/
theorem palWord_first : palWord b k i.req =
    if 1 < i.words then { b with palq := b.palq.put [] k ({ i with words := i.words - 1 } :: l) }
    else
      let r := palServe { b with palq := b.palq.put [] k l } i
      palServed r.1 i.acc r.2 := by
  have inWindow : i.off.isSome = true := by rw [window, Option.isSome_some]
  have ready : palReady b i = true := by rw [palReady, inWindow, Bool.true_or, Bool.true_or]
  have first : (i :: l).findIdx (fun j => j.req == i.req && palReady b j) = 0 := by
    rw [List.findIdx_cons, beq_self_eq_true, ready, Bool.and_true, cond_true]
  simp only [palWord, items, first, List.getElem?_cons_zero, List.set_cons_zero, List.eraseIdx_cons_zero, inWindow,
    Bool.true_or, if_true]

theorem palWord_passes (more : 1 < i.words) :
    palWord b k i.req = { b with palq := b.palq.put [] k ({ i with words := i.words - 1 } :: l) } := by
  rw [palWord_first items window, if_pos more]

theorem palWord_serves (last : i.words ≤ 1) :
    let r := palServe { b with palq := b.palq.put [] k l } i
    palWord b k i.req = palServed r.1 i.acc r.2 := by
  rw [palWord_first items window, if_neg (Nat.not_lt.2 last)]

end

/-! ### A boundary at one point -/

theorem boundaryAt_arbAt (b : Block) (key : Nat) (w : Nat → Nat) (l : List Nat) :
    (boundaryAt b key w l).arbAt key = (b.arbAt key).boundary w l := Block.setArb_arbAt b key _

theorem boundaryAt_arbAt_other (b : Block) {key other : Nat} (w : Nat → Nat) (l : List Nat) (ne : other ≠ key) :
    (boundaryAt b key w l).arbAt other = b.arbAt other := Block.setArb_arbAt_other b key _ other ne

section
variable (b : Block) (key : Nat) (w : Nat → Nat) (l : List Nat)

@[simp] theorem boundaryAt_ctxs : (boundaryAt b key w l).ctxs = b.ctxs := rfl
@[simp] theorem boundaryAt_mem : (boundaryAt b key w l).mem = b.mem := rfl
@[simp] theorem weightOf_boundaryAt : weightOf (boundaryAt b key w l) = weightOf b := rfl
@[simp] theorem hopWaiting_boundaryAt (h : Nat) : hopWaiting (boundaryAt b key w l) h = hopWaiting b h := rfl
@[simp] theorem palWaiting_boundaryAt (k : Nat) : palWaiting (boundaryAt b key w l) k = palWaiting b k := rfl

end

/-! ### A channel's boundary (R363, R364) -/

/-- A new window's budget and tokens change nothing a path waits for. -/
theorem pathWaiting_refill (b : Block) (n : Nat) (pct : List Nat) (w : Bool) :
    pathWaiting (b.modChan n fun c => c.refill pct) n w = pathWaiting b n w := by
  unfold pathWaiting
  rw [Block.modChan, Block.setChan_chan]
  rfl

theorem chanBoundary_chan (b : Block) (n : Nat) : (chanBoundary b n).chan n = (b.chan n).refill b.setup.pct :=
  Block.setChan_chan b n _

theorem chanBoundary_chan_other (b : Block) {n m : Nat} (ne : m ≠ n) : (chanBoundary b n).chan m = b.chan m :=
  Block.setChan_chan_other b n _ m ne

theorem arbChan_write_ne_read (n : Nat) : arbChan n true ≠ arbChan n false := by
  simp only [arbChan, b2n, if_true, Bool.false_eq_true, if_false]
  omega

theorem chanBoundary_arbAt (b : Block) (n : Nat) (w : Bool) : (chanBoundary b n).arbAt (arbChan n w) =
    (b.arbAt (arbChan n w)).boundary (weightOf b) ((pathWaiting b n w).map (·.1)) := by
  rw [← pathWaiting_refill b n b.setup.pct w]
  cases w with
  | false => exact (boundaryAt_arbAt_other _ _ _ (arbChan_write_ne_read n).symm).trans (boundaryAt_arbAt ..)
  | true =>
    refine (boundaryAt_arbAt ..).trans ?_
    rw [boundaryAt_arbAt_other _ _ _ (arbChan_write_ne_read n)]
    rfl

/-! ### A quadrant's boundary (R266, R463) -/

theorem Tab.get_foldl_erase {α : Type} (d : α) (f : Nat → Nat) (l : List Nat) (t : Tab α) (k : Nat) :
    Tab.get d (l.foldl (fun t i => Tab.erase t (f i)) t) k = if k ∈ l.map f then d else Tab.get d t k := by
  induction l generalizing t with
  | nil => rfl
  | cons i l ih =>
    rw [List.foldl_cons, ih, List.map_cons]
    by_cases later : k ∈ l.map f
    · rw [if_pos later, if_pos (List.mem_cons_of_mem _ later)]
    · rw [if_neg later]
      by_cases now : k = f i
      · rw [if_pos (List.mem_cons.2 (.inl now)), now, Tab.get_erase_same]
      · rw [if_neg fun mem => (List.mem_cons.1 mem).elim now later, Tab.get_erase_other d t now]

/-- The counters of a quadrant's context arbiter, two ring hops and Palette bank renewed. -/
def quadCounters (b : Block) (q : Nat) : Block :=
  let b := boundaryAt b (arbCtx q) (weightOf b) (waitingAt b q)
  let b := boundaryAt b (arbRing (2 * q)) (weightOf b) (hopWaiting b (2 * q))
  let b := boundaryAt b (arbRing (2 * q + 1)) (weightOf b) (hopWaiting b (2 * q + 1))
  boundaryAt b (arbPal q) (weightOf b) (palWaiting b q)

/-- Prefetch buckets refill with Q0 (R368). -/
def quadBuckets (b : Block) (q : Nat) : Block := if q = 0 then refillBuckets b else b

/-- A quadrant's decoders count their vectors anew (R266). -/
def decodersCleared (b : Block) (q : Nat) : Block :=
  { b with arb := (List.range 32).foldl (fun t i => Tab.erase t (arbDec (32 * q + i))) b.arb }

/-- A quadrant at its boundary, before what its contexts hold leaves again. -/
def quadRenewed (b : Block) (q : Nat) : Block := decodersCleared (quadBuckets (quadCounters b q) q) q

theorem quadBoundary_eq (b : Block) (q : Nat) : quadBoundary b q =
    ((quadRenewed b q).ctxs.filter fun e => quadOfCtx e.1 == q).foldl
      (fun b e => tryUnits (releaseLanes (flushOuts b e.1) e.1) e.1) (quadRenewed b q) := rfl

theorem quadBuckets_keeps (b : Block) (q : Nat) :
    (quadBuckets b q).ctxs = b.ctxs ∧ (quadBuckets b q).mem = b.mem ∧ (quadBuckets b q).arb = b.arb := by
  unfold quadBuckets
  split <;> exact ⟨rfl, rfl, rfl⟩

theorem decodersCleared_keeps (b : Block) (q : Nat) :
    (decodersCleared b q).ctxs = b.ctxs ∧ (decodersCleared b q).mem = b.mem := by
  unfold decodersCleared
  exact ⟨rfl, rfl⟩

theorem decodersCleared_arbAt (b : Block) (q k : Nat) : (decodersCleared b q).arbAt k =
    if k ∈ (List.range 32).map (fun i => arbDec (32 * q + i)) then {} else b.arbAt k := by
  rw [decodersCleared, Block.arbAt, Tab.get_foldl_erase, Block.arbAt]

theorem quadRenewed_ctxs (b : Block) (q : Nat) : (quadRenewed b q).ctxs = b.ctxs := by
  rw [quadRenewed, (decodersCleared_keeps _ q).1, (quadBuckets_keeps _ q).1]
  simp only [quadCounters, boundaryAt_ctxs]

theorem quadRenewed_mem (b : Block) (q : Nat) : (quadRenewed b q).mem = b.mem := by
  rw [quadRenewed, (decodersCleared_keeps _ q).2, (quadBuckets_keeps _ q).2.1]
  simp only [quadCounters, boundaryAt_mem]

theorem quadRenewed_decoder (b : Block) (q : Nat) {i : Nat} (low : i < 32) :
    ((quadRenewed b q).arbAt (arbDec (32 * q + i))).beats = 0 := by
  rw [quadRenewed, decodersCleared_arbAt, if_pos (List.mem_map.2 ⟨i, List.mem_range.2 low, rfl⟩)]

/-- The decoders' counts stand above every arbiter. -/
theorem quadRenewed_arbAt (b : Block) (q : Nat) {k : Nat} (point : k < 700) :
    (quadRenewed b q).arbAt k = (quadCounters b q).arbAt k := by
  have noDecoder : k ∉ (List.range 32).map (fun i => arbDec (32 * q + i)) := by
    intro mem
    obtain ⟨i, -, rfl⟩ := List.mem_map.1 mem
    rw [arbDec] at point
    omega
  rw [quadRenewed, decodersCleared_arbAt, if_neg noDecoder, Block.arbAt, (quadBuckets_keeps _ q).2.2, Block.arbAt]

section
variable (b : Block) {q : Nat} (quad : q < 4)
include quad

theorem quadRenewed_context :
    (quadRenewed b q).arbAt (arbCtx q) = (b.arbAt (arbCtx q)).boundary (weightOf b) (waitingAt b q) := by
  rw [quadRenewed_arbAt b q (by rw [arbCtx]; omega), quadCounters,
    boundaryAt_arbAt_other _ _ _ (by rw [arbCtx, arbPal]; omega),
    boundaryAt_arbAt_other _ _ _ (by rw [arbCtx, arbRing]; omega),
    boundaryAt_arbAt_other _ _ _ (by rw [arbCtx, arbRing]; omega), boundaryAt_arbAt]

theorem quadRenewed_hopUp : (quadRenewed b q).arbAt (arbRing (2 * q)) =
    (b.arbAt (arbRing (2 * q))).boundary (weightOf b) (hopWaiting b (2 * q)) := by
  rw [quadRenewed_arbAt b q (by rw [arbRing]; omega), quadCounters,
    boundaryAt_arbAt_other _ _ _ (by rw [arbRing, arbPal]; omega),
    boundaryAt_arbAt_other _ _ _ (by rw [arbRing, arbRing]; omega), boundaryAt_arbAt,
    boundaryAt_arbAt_other _ _ _ (by rw [arbRing, arbCtx]; omega), weightOf_boundaryAt, hopWaiting_boundaryAt]

theorem quadRenewed_hopDown : (quadRenewed b q).arbAt (arbRing (2 * q + 1)) =
    (b.arbAt (arbRing (2 * q + 1))).boundary (weightOf b) (hopWaiting b (2 * q + 1)) := by
  rw [quadRenewed_arbAt b q (by rw [arbRing]; omega), quadCounters,
    boundaryAt_arbAt_other _ _ _ (by rw [arbRing, arbPal]; omega), boundaryAt_arbAt,
    boundaryAt_arbAt_other _ _ _ (by rw [arbRing, arbRing]; omega),
    boundaryAt_arbAt_other _ _ _ (by rw [arbRing, arbCtx]; omega)]
  simp only [weightOf_boundaryAt, hopWaiting_boundaryAt]

theorem quadRenewed_bank :
    (quadRenewed b q).arbAt (arbPal q) = (b.arbAt (arbPal q)).boundary (weightOf b) (palWaiting b q) := by
  rw [quadRenewed_arbAt b q (by rw [arbPal]; omega), quadCounters, boundaryAt_arbAt,
    boundaryAt_arbAt_other _ _ _ (by rw [arbPal, arbRing]; omega),
    boundaryAt_arbAt_other _ _ _ (by rw [arbPal, arbRing]; omega),
    boundaryAt_arbAt_other _ _ _ (by rw [arbPal, arbCtx]; omega)]
  simp only [weightOf_boundaryAt, palWaiting_boundaryAt]

end

/-- Settles O53: each grant by its point, what the one chosen does by its branch, and each boundary by its island. -/
theorem grantsAndWindows : Obligations.GrantsAndWindows := by
  unfold Obligations.GrantsAndWindows
  refine ⟨⟨fun s q w => exec_burstGrant (.context q w) s, fun s n w low up => ?_, fun s h r chosen => ?_,
      fun s k r chosen => ?_, fun s p low up => ?_, fun s i _ up clocked => ⟨fun quad => ?_, fun gs => ?_,
        fun above below => ?_, fun above below => ?_, fun ct => ?_⟩⟩,
    ⟨fun b q w => ⟨grantCtx_off, fun c up picked k => grantCtx_picks up picked rfl⟩,
      fun b c k => ⟨fun b' => grantBurst_walks, fun st b' => grantBurst_halts,
        fun pa ks b' b2 => grantBurst_issues⟩,
      fun b n w => ⟨grantChan_used_up, fun r k a t left chosen found on tag => ?_⟩,
      fun b p => ⟨grantEgress_shut, egressWaiting_full, fun vc f l => grantEgress_stages⟩,
      fun b h i l items => ⟨hopBeat_crosses items, hopBeat_arrives items, hopBeat_goesOn items⟩,
      fun b k o i l items window => ⟨palWord_passes items window, palWord_serves items window⟩⟩,
    ⟨fun b n => ?_, fun b q quad => ⟨quadRenewed b q, quadBoundary_eq b q, quadRenewed_context b quad,
      quadRenewed_hopUp b quad, quadRenewed_hopDown b quad, quadRenewed_bank b quad,
      fun i => quadRenewed_decoder b q, quadRenewed_ctxs b q, quadRenewed_mem b q⟩⟩⟩
  · rw [exec_burstGrant, burstGrant_channel low up]
  · rw [exec_burstGrant, burstGrant_ring chosen]
  · rw [exec_burstGrant, burstGrant_palette chosen]
  · rw [exec_burstGrant, burstGrant_egress low up]
  · rw [exec_windowBoundary, windowBoundary_quadrant up clocked quad, windowCleared]
  · rw [exec_windowBoundary, windowBoundary_gs up clocked gs, windowCleared]
  · rw [exec_windowBoundary, windowBoundary_channel up above below, windowCleared]
  · rw [exec_windowBoundary, windowBoundary_link up above below, windowCleared]
    rfl
  · rw [exec_windowBoundary, windowBoundary_ct up ct, windowCleared]
    rfl
  · obtain ⟨o, granted⟩ := grantChan_presents rfl left chosen found on tag
    have presented : (grantChan b n w).chan n = (b.chan n).presents w a t o := by rw [granted, Block.setChan_chan]
    obtain ⟨used, budget⟩ := Chan.presents_counts (b.chan n) a t o w
    dsimp only
    rw [presented, granted]
    refine ⟨used, budget, fun j => Chan.presents_tok (b.chan n) a t o w, ?_, ?_, Block.setArb_arbAt .., fun m => ?_, rfl,
      tokensFirst_has_token found⟩
    · rintro rfl
      exact Chan.presents_read (b.chan n) a t o
    · rintro rfl
      exact Chan.presents_write (b.chan n) a t o
    · exact Block.setChan_chan_other _ n _ m
  · have chan := chanBoundary_chan b n
    dsimp only
    rw [chan]
    exact ⟨rfl, rfl, rfl, rfl, rfl, rfl, rfl, fun m => chanBoundary_chan_other b, chanBoundary_arbAt b n⟩

end Sys2Proof.Machine
end

section
/-! SUPPORT. WRITE, READ, FADD and the reductions received over a link (R219 to R221, R321, R337 to R339). -/

namespace Sys2Proof.Machine

/-! ### Each message's row is its function on the block -/

theorem exec_write (p : Nat) (s : State) : exec (.write p) s = .next (s.after (remWrite p s.b)) := rfl
theorem exec_read (p : Nat) (s : State) : exec (.read p) s = .next (s.after (remRead p s.b)) := rfl
theorem exec_fadd (p : Nat) (s : State) : exec (.fadd p) s = .next (s.after (remFadd p s.b)) := rfl
theorem exec_redAddmod (p : Nat) (s : State) : exec (.redAddmod p) s = .next (s.after (remReduce 0 p s.b)) := rfl

/-- The rows of the float and integer reductions, each with its mode (R219). -/
def plainReductions (p : Nat) : List (Instr × Nat) := [(.redFp32 p, 1), (.redBf16 p, 2), (.redMax p, 3), (.redMin p, 4)]

theorem exec_reduction {p mode : Nat} {c : Instr} (row : (c, mode) ∈ plainReductions p) (s : State) :
    exec c s = .next (s.after (remReduce mode p s.b)) := by
  simp only [plainReductions, List.mem_cons, Prod.mk.injEq, List.not_mem_nil, or_false] at row
  rcases row with ⟨rfl, rfl⟩ | ⟨rfl, rfl⟩ | ⟨rfl, rfl⟩ | ⟨rfl, rfl⟩ <;> rfl

theorem plainReductions_mode {p mode : Nat} {c : Instr} (row : (c, mode) ∈ plainReductions p) : mode ≠ 0 := by
  simp only [plainReductions, List.mem_cons, Prod.mk.injEq, List.not_mem_nil, or_false] at row
  omega

/-! ### One operand, one entry of a READ (R337, R338) -/

section
variable {b : Block} {p : Nat} {i : Item}

section
variable {rmw : Item → Option Rmw}

theorem serveItem_refused {st : Status}
    (failed : remoteCheck b i.f i.f.vi i.f.ksel (i.f.addr * 256 + (enabledSpan i.mask).1) (enabledSpan i.mask).2 = some st) :
    serveItem p rmw b i = refuse b p i.f.rix i.f.src true st := by
  simp only [serveItem, failed]

theorem serveItem_admitted
    (admitted : remoteCheck b i.f i.f.vi i.f.ksel (i.f.addr * 256 + (enabledSpan i.mask).1) (enabledSpan i.mask).2 = none) :
    serveItem p rmw b i =
      presentIn b (streamOf i.f) [remoteWrite p (streamOf i.f) true i.f i.mask i.f.payload (rmw i)] := by
  simp only [serveItem, admitted]

end

/-- What an operand does depends on its own read-modify-write alone. -/
theorem serveItem_congr {rmw rmw' : Item → Option Rmw} (same : rmw i = rmw' i) : serveItem p rmw b i = serveItem p rmw' b i := by
  simp only [serveItem, same]

end

section
variable {b : Block} {p e : Nat} {f : Flit}

theorem serveRead_refused {st : Status}
    (failed : remoteCheck b f (bitsOf e 63 56) (bitsOf e 71 64) (bitsOf e 39 0 * 256) 256 = some st) :
    serveRead p f b e = refuse b p (bitsOf e 55 40) f.src false st := by
  simp only [serveRead, failed]

theorem serveRead_admitted
    (admitted : remoteCheck b f (bitsOf e 63 56) (bitsOf e 71 64) (bitsOf e 39 0 * 256) 256 = none) :
    serveRead p f b e = presentIn b (streamOf f)
      [mkAcc (.remote p (bitsOf e 55 40) f.src (streamOf f) true) false (bitsOf e 39 0) 0 256 (bitsOf e 39 0 * 256)
        (bitsOf e 63 56) (bitsOf e 71 64) [] []] := by
  simp only [serveRead, admitted]

end

theorem streamOf_unordered {f : Flit} (unordered : bitOf f.aux 8 = true) : streamOf f = none := if_pos unordered

/-- An unordered request is presented at once (R338). -/
theorem presentIn_unordered (b : Block) (a : Acc) : presentIn b none [a] = presentRemote b a := rfl

/-! ### The messages (R219, R321, R339) -/

section
variable {b0 b : Block} {p : Nat} {fs : List Flit}

section
variable (taken : takeMessage b0 p opWrite = some (fs, b))
include taken

theorem remWrite_served {l : List Item} (formed : items opWrite fs = some l) :
    remWrite p b0 = l.foldl (serveItem p fun _ => none) b := by
  simp only [remWrite, taken, formed]

theorem remWrite_unformed (unformed : items opWrite fs = none) : remWrite p b0 = protoError b p := by
  simp only [remWrite, taken, unformed]

end

/-- The valid entries of a READ flit (R321). -/
def readEntries (f : Flit) : List Nat := ((List.range 16).map fun i => fieldAt f.payload (16 * i) 16).filter fun e => bitOf e 72

theorem remRead_served {f : Flit} {t : List Flit} (taken : takeMessage b0 p opRead = some (f :: t, b)) :
    remRead p b0 = (readEntries f).foldl (serveRead p f) b := by
  simp only [remRead, taken, readEntries]

/-- An operand of an FADD: one aligned flag element, wholly enabled (R339). -/
def flagOk (i : Item) : Bool :=
  let x := enabledSpan i.mask
  (x.2 == 1 || x.2 == 4 || x.2 == 8) && x.1 % x.2 == 0 && ((List.range x.2).all fun j => i.mask.getD (x.1 + j) 0 == 0xFF)

/-- The read-modify-write of an FADD operand. -/
def flagAdd (i : Item) : Rmw :=
  let x := enabledSpan i.mask
  .addFlag x.1 x.2 (fieldAt i.f.payload x.1 x.2)

theorem remFadd_formed (taken : takeMessage b0 p opFadd = some (fs, b)) {l : List Item} (formed : items opFadd fs = some l) :
    remFadd p b0 = if !l.all flagOk then protoError b p else l.foldl (serveItem p fun i => some (flagAdd i)) b := by
  unfold remFadd
  rw [taken]
  dsimp only
  rw [formed]
  rfl

section
variable {mode : Nat} (taken : takeMessage b0 p (5 + mode) = some (fs, b))
include taken

theorem remReduce_noModq (without : splitModq mode fs = none) : remReduce mode p b0 = protoError b p := by
  simp only [remReduce, taken, without, Option.bind_none]

section
variable {ops : List Flit} {m : Bytes} (parts : splitModq mode fs = some (ops, m))
include parts

theorem remReduce_unformed (unformed : items (5 + mode) ops = none) : remReduce mode p b0 = protoError b p := by
  simp only [remReduce, taken, parts, unformed, Option.bind_some, Option.bind_none]

/-- A reduction of the message's form whose operands all fit their type: a modular one has one operand, or up to eight under
one modulus. -/
theorem remReduce_served {l : List Item} (formed : items (5 + mode) ops = some l)
    (few : mode = 0 → ((l.all fun i => bitOf i.f.aux 10) = true ∨ l.length = 1) ∧ l.length ≤ 8)
    (fit : (l.all fun i => (redItem mode m i).isSome) = true) :
    remReduce mode p b0 = (l.filterMap (redItem mode m)).foldl (fun b x => serveItem p (fun _ => some x.2) b x.1) b := by
  have sized : ¬(mode = 0 && (!(l.all fun i => bitOf i.f.aux 10) && l.length ≠ 1 || 8 < l.length)) = true := by
    simp only [Bool.and_eq_true, Bool.or_eq_true, Bool.not_eq_true', decide_eq_true_eq]
    rintro ⟨modular, ⟨notUniform, several⟩ | many⟩
    · rcases (few modular).1 with uniform | one
      · exact Bool.false_ne_true (notUniform.symm.trans uniform)
      · exact several one
    · exact absurd (few modular).2 (Nat.not_le_of_lt many)
  have fitting : ((l.map (redItem mode m)).all Option.isSome) = true := by rw [List.all_map]; exact fit
  unfold remReduce
  rw [taken]
  dsimp only
  rw [parts, Option.bind_some]
  dsimp only
  rw [formed, Option.bind_some, if_neg sized, if_pos fitting, List.filterMap_map]
  rfl

end

end

end

theorem splitModq_plain {mode : Nat} (plain : mode ≠ 0) (fs : List Flit) : splitModq mode fs = some (fs, []) := if_pos plain

/-- Settles O23: each message by its form, each operand and entry by the checks of R337. -/
theorem remoteMemory : Obligations.RemoteMemory := by
  unfold Obligations.RemoteMemory
  refine ⟨fun s p fs b => ⟨fun taken => ⟨fun l formed => ?_, fun unformed => ?_⟩, fun f t whole taken => ?_,
      fun f o n taken formed span flag => ?_⟩,
    fun s p mode fs b c row taken => ⟨fun l formed fit => ?_, fun unformed => ?_⟩,
    fun s p ops m b fs taken => ⟨fun without => ?_, fun parts i r formed fit => ?_⟩,
    fun b p rmw i => ⟨fun admitted unordered => ?_, fun e failed => ?_⟩,
    fun b p f e => ⟨fun admitted unordered => ?_, fun x failed => ?_⟩⟩
  · rw [exec_write, remWrite_served taken formed]
  · rw [exec_write, remWrite_unformed taken unformed]
  · subst whole
    rw [exec_read, remRead_served taken, readEntries]
  · have flags : [({ f := f, mask := maskIn o n } : Item)].all flagOk = true := by
      rw [List.all_cons, List.all_nil, Bool.and_true, flagOk, span, flag]
    have adds : flagAdd { f := f, mask := maskIn o n } = .addFlag o n (fieldAt f.payload o n) := by rw [flagAdd, span]
    rw [exec_fadd, remFadd_formed taken formed, flags, Bool.not_true, if_neg Bool.false_ne_true, List.foldl_cons, List.foldl_nil,
      serveItem_congr (rmw' := fun _ => some _) (congrArg some adds)]
  · have plain := plainReductions_mode row
    rw [exec_reduction row, remReduce_served taken (splitModq_plain plain fs) formed (fun modular => absurd modular plain) fit]
  · rw [exec_reduction row, remReduce_unformed taken (splitModq_plain (plainReductions_mode row) fs) unformed]
  · rw [exec_redAddmod, remReduce_noModq taken without]
  · have fits : ([i].all fun i => (redItem 0 m i).isSome) = true := by simp [fit]
    rw [exec_redAddmod, remReduce_served taken parts formed (fun _ => ⟨.inr rfl, show 1 ≤ 8 by decide⟩) fits,
      List.filterMap_cons_some fit]
    rfl
  · rw [serveItem_admitted admitted, streamOf_unordered unordered, presentIn_unordered]
  · rw [serveItem_refused failed]
    rfl
  · rw [serveRead_admitted admitted, streamOf_unordered unordered, presentIn_unordered]
  · rw [serveRead_refused failed]
    rfl

end Sys2Proof.Machine
end

section
/-! SUPPORT. The group a port sends next, a group sent again, and the open link block closed by idle input (R272, R317,
R325, R326, R391, R459). -/

namespace Sys2Proof.Machine

theorem exec_linkEgressGroup (p : Nat) (s : State) :
    exec (.linkEgressGroup p) s = .next (s.after (egressGroup p s.ao s.b)) := rfl

theorem exec_linkBlockIdleClose (p : Nat) (s : State) :
    exec (.linkBlockIdleClose p) s = .next (s.after (releaseAll (endDone (closeBlock s.b p) p))) := rfl

/-! ### What a new group is made of (R317, R322, R325, R326, R391, R459) -/

/-- A flit that leaves its queue moves no sequence number and no group kept for replay. -/
theorem Link.pop_keeps {l l' : Link} {c : Nat} {f : Flit} (popped : l.pop c = some (f, l')) :
    l'.replay = l.replay ∧ l'.seqTx = l.seqTx ∧ l'.seqRx = l.seqRx := by
  unfold Link.pop at popped
  split at popped
  · cases popped
  · split at popped
    · cases popped
    · cases popped
      exact ⟨rfl, rfl, rfl⟩

theorem mgmtNext_keeps {l l' : Link} {f : Flit} (next : mgmtNext l = some (f, l')) :
    l'.replay = l.replay ∧ l'.seqTx = l.seqTx ∧ l'.seqRx = l.seqRx := by
  obtain ⟨c, -, fromClass⟩ := List.exists_of_findSome?_eq_some next
  obtain ⟨⟨g, popped⟩, pop, same⟩ := Option.map_eq_some_iff.1 fromClass
  cases same
  have keeps := Link.pop_keeps pop
  exact keeps

/-- The slots a new group without a MGMT flit fills: none in the clear (R391), one left to an IDLE flit after 1,023 full
groups (R459). -/
def slotsFilled (l : Link) : Nat := if !l.sendsKeyed then 0 else if 1023 ≤ l.busyGroups then 3 else 4

section
variable (ao : AO) (b : Block) (l : Link)

/-- A new group is numbered, kept for replay and returns the credits owed, with or without a MGMT flit. -/
theorem newGroup_counts :
    (newGroup ao b l).replay = l.replay ++ [(l.seqTx, (newGroup ao b l).txOut)] ∧
      (newGroup ao b l).seqTx = (l.seqTx + 1) % 2 ^ 31 ∧ (newGroup ao b l).owe = [] ∧
      (newGroup ao b l).seqRx = l.seqRx := by
  unfold newGroup
  cases next : mgmtNext l with
  | none => exact ⟨rfl, rfl, rfl, rfl⟩
  | some x =>
    obtain ⟨replay, seqTx, seqRx⟩ := mgmtNext_keeps next
    dsimp only
    rw [replay, seqTx, seqRx]
    exact ⟨rfl, rfl, rfl, rfl⟩

variable {l}

theorem newGroup_noMgmt (noMgmt : mgmtNext l = none) :
    (newGroup ao b l).staged = l.staged.drop (slotsFilled l) ∧
      (newGroup ao b l).busyGroups = (if (l.staged.take (slotsFilled l)).length = 4 then l.busyGroups + 1 else 0) ∧
      (newGroup ao b l).txOut = sealGroup
        (if l.sendsKeyed then some (groupKey l true l.sess.txGen l.seqTx) else none)
        (l.staged.take (slotsFilled l)) ((List.range 8).flatMap fun c => natLe 2 (min (l.owe.get 0 c) 65535)) l.seqTx
        ((l.seqRx + 2 ^ 31 - 1) % 2 ^ 31) l.nak := by
  unfold newGroup
  rw [noMgmt]
  exact ⟨rfl, rfl, rfl⟩

end

/-! ### LINK_EGRESS_GROUP by the state of the port (R317, R326) -/

section
variable {ao : AO} {b : Block} {p : Nat} (on : portOn (b.link p) = true) (up : islandUp b (29 + p) = true)
include on up

theorem egress_open : (!portOn (b.link p) || !islandUp b (29 + p)) = false := by
  rw [on, up, Bool.not_true, Bool.or_self]

theorem egressGroup_resends {n : Nat} (asked : (b.link p).resendAt = some n) :
    egressGroup p ao b = resendGroup b p n (b.link p) := by
  simp only [egressGroup, egress_open on up, Bool.false_eq_true, if_false, asked]

section
variable (nothingAsked : (b.link p).resendAt = none)
include nothingAsked

theorem egressGroup_sends (room : (b.link p).replay.length < 56) :
    egressGroup p ao b = b.setLink p (newGroup ao b (b.link p)) := by
  simp only [egressGroup, egress_open on up, Bool.false_eq_true, if_false, nothingAsked, if_neg (Nat.not_le.2 room)]

theorem egressGroup_full (full : 56 ≤ (b.link p).replay.length) : egressGroup p ao b = b := by
  simp only [egressGroup, egress_open on up, Bool.false_eq_true, if_false, nothingAsked, if_pos full]

end

end

/-- A group sent again fewer than 8 times: its bytes leave as they were kept. -/
theorem resendGroup_repeats {b : Block} {p n : Nat} {l : Link} {e : Nat × Bytes}
    (kept : (l.replay.find? fun x => x.1 == n) = some e) (few : l.resends.get 0 n < 7) :
    ∃ l', resendGroup b p n l = b.setLink p l' ∧ l'.txOut = e.2 ∧ l'.resends.get 0 n = l.resends.get 0 n + 1 ∧
      l'.replay = l.replay := by
  have below : l.resends.get 0 n + 1 < 8 := by omega
  simp only [resendGroup, kept, if_pos below]
  exact ⟨_, rfl, rfl, by rw [Tab.get_put_same], rfl⟩

/-! ### LINK_BLOCK_IDLE_CLOSE by the port's encoder (R272) -/

section
variable {b : Block} {p : Nat}

theorem closeBlock_free (free : (b.link p).encoder = none) : closeBlock b p = b := by
  simp only [closeBlock, free]

theorem endDone_free (free : (b.link p).encoder = none) : endDone b p = b := by
  simp only [endDone, free]

section
variable {k : Encoder} (holds : (b.link p).encoder = some k)
include holds

theorem closeBlock_empty (empty : k.accs = []) : closeBlock b p = b := by
  simp only [closeBlock, holds, empty]

/-- The open block's record leaves as one request of its first write, which the others await with it. -/
theorem closeBlock_sends {a : Acc} {rest : List Acc} (writes : k.accs = a :: rest) :
    closeBlock b p = sendRemote (b.setLink p { b.link p with encoder := some { k with data := [], accs := [] } })
      { acc := a, chip := k.chip, op := opSwatch, group := groupOf b (a.gran * 256), also := rest
        record := blockRecord k } := by
  simp only [closeBlock, holds, writes]
  rfl

end

end

/-- Settles O21: the three answers of LINK_EGRESS_GROUP, the open block by what the encoder holds,
and what a new group is made of. -/
theorem flitGroupSent : Obligations.FlitGroupSent := by
  unfold Obligations.FlitGroupSent
  refine ⟨fun s p => ⟨fun on up => ⟨fun nothingAsked room => ?_, fun nothingAsked full quiet => ?_,
        fun n e asked kept few => ?_⟩,
      fun k a rest holds writes => ?_, fun k holds empty => ?_, fun free => ?_⟩,
    fun ao b l => ?_⟩
  · refine ⟨_, exec_linkEgressGroup p s, ?_⟩
    rw [egressGroup_sends on up nothingAsked room]
    exact ⟨Block.setLink_link .., fun q => Block.setLink_link_other _ p _ q, rfl, rfl, rfl⟩
  · rw [exec_linkEgressGroup, egressGroup_full on up nothingAsked full, s.after_self quiet]
  · obtain ⟨l', resent, bytes, counted, replay⟩ := resendGroup_repeats (b := s.b) (p := p) kept few
    refine ⟨_, exec_linkEgressGroup p s, ?_⟩
    rw [egressGroup_resends on up asked, resent, State.after_link, Block.setLink_link]
    exact ⟨bytes, counted, replay, rfl, rfl⟩
  · rw [exec_linkBlockIdleClose, closeBlock_sends holds writes]
  · rw [exec_linkBlockIdleClose, closeBlock_empty holds empty]
  · rw [exec_linkBlockIdleClose, closeBlock_free free, endDone_free free]
  · obtain ⟨replay, seqTx, owe, seqRx⟩ := newGroup_counts ao b l
    exact ⟨replay, seqTx, owe, seqRx, newGroup_noMgmt ao b⟩

end Sys2Proof.Machine
end

section
/-! SUPPORT. Accesses of the Atelier at a channel in service (R295, R364, R389): within a granule one reads back what it wrote
below the critical state, and waits in it. -/

namespace Sys2Proof.Machine

/-! ### At a critical channel (R364) -/

theorem chanStatus_critical {b : Block} {r ch gran : Nat} (inService : (b.chan ch).service = .inService)
    (critical : (b.chan ch).therm = 3) : chanStatus b r ch gran = some .held := by
  simp only [chanStatus, inService, critical, if_true]

/-- An Atelier write of at least one byte to a critical channel waits. -/
theorem localWrite_critical {b : Block} {ksel fuel pa ch : Nat} {d : Bytes} (steered : channelOf b pa = some ch)
    (inService : (b.chan ch).service = .inService) (critical : (b.chan ch).therm = 3) (nonempty : d ≠ []) :
    localWrite b ksel (fuel + 1) pa d = .error .held := by
  cases d with
  | nil => exact absurd rfl nonempty
  | cons x xs => simp only [localWrite, steered, chanStatus_critical inService critical, Option.some_or]

/-! ### Below it -/

theorem chanStatus_cool {b : Block} {r ch gran : Nat} (inService : (b.chan ch).service = .inService)
    (cool : (b.chan ch).therm ≠ 3) : chanStatus b r ch gran = none := by
  simp only [chanStatus, inService, if_neg cool]

theorem readBytes_length (d : Byte) (t : Tab Byte) (a n : Nat) : (readBytes d t a n).length = n := by
  induction n generalizing a with
  | zero => rfl
  | succ n ih => rw [readBytes, List.length_cons, ih]

section
variable {old new : Bytes} {off : Nat} (fits : off + new.length ≤ old.length)
include fits

theorem patchAt_length : (patchAt old off new).length = old.length := by
  simp only [patchAt, List.length_take, List.length_append, List.length_drop]
  omega

/-- The bytes patched into a record stand there. -/
theorem patchAt_reads : ((patchAt old off new).drop off).take new.length = new := by
  have start : (old.take off).length = off := by rw [List.length_take]; omega
  rw [patchAt, List.append_assoc, List.drop_take, List.take_take, Nat.min_eq_left (by omega),
    List.drop_left' start, List.take_left]

end

section
variable {b : Block} {ch pa : Nat} (ksel : Nat) {d : Bytes} (steered : channelOf b pa = some ch)
  (inService : (b.chan ch).service = .inService) (cool : (b.chan ch).therm ≠ 3) (trusted : untrusted b ch = false)
  (served : domStatus b ch pa = none) (nonempty : 0 < d.length) (within : pa % 256 + d.length ≤ 256)
include steered inService cool trusted served nonempty within

/-- A write within a granule replaces its bytes there and keeps the granule's others. -/
theorem localWrite_granule : localWrite b ksel 2 pa d = .ok (memWrite b ch (pa / 256 * 256)
    (patchAt (memRead b ch (pa / 256 * 256) 256) (pa % 256) d)) := by
  have all : min d.length (256 - pa % 256) = d.length := by omega
  cases d with
  | nil => cases nonempty
  | cons x xs =>
    simp only [localWrite, steered, chanStatus_cool inService cool, served, Option.or_none, trusted, Bool.and_false,
      Bool.false_eq_true, if_false, all, granCipher, granPlain, List.take_length, List.drop_length]

theorem localRead_granule (good : badRead b ch (pa / 256) = none) :
    localRead b ksel 256 2 pa d.length = .ok (((memRead b ch (pa / 256 * 256) 256).drop (pa % 256)).take d.length) := by
  have all : min d.length (256 - pa % 256) = d.length := by omega
  obtain ⟨n, length⟩ := Nat.exists_eq_succ_of_ne_zero (Nat.ne_of_gt nonempty)
  rw [length] at all ⊢
  simp only [localRead, steered, chanStatus_cool inService cool, served, good, Option.or_none, all, granPlain, trusted,
    Bool.false_eq_true, if_false, Nat.sub_self, List.append_nil]

/-- Where the last clause of MemoryReadsBack adds that the channel is below the critical state, it holds. -/
theorem localWrite_readsBack (good : badRead b ch (pa / 256) = none) :
    ∃ b', localWrite b ksel 2 pa d = .ok b' ∧ localRead b' ksel 256 2 pa d.length = .ok d := by
  have fits : pa % 256 + d.length ≤ (memRead b ch (pa / 256 * 256) 256).length := by rwa [memRead, readBytes_length]
  have whole := patchAt_length fits
  rw [memRead, readBytes_length, ← memRead] at whole
  refine ⟨_, localWrite_granule ksel steered inService cool trusted served nonempty within, ?_⟩
  rw [localRead_granule ksel (b := memWrite ..) steered inService cool trusted served nonempty within good]
  have reads := memRead_memWrite b ch (pa / 256 * 256) (patchAt (memRead b ch (pa / 256 * 256) 256) (pa % 256) d)
  rw [whole] at reads
  rw [reads, patchAt_reads fits]

end

/-- A block whose channel 0 serves, trusted and critical, with every address steered there. -/
def criticalBlock : Block :=
  { chans := [(0, { service := .inService, therm := 3
                    mode := some { full := false, run := 16, sym8 := false, therm := true, drainable := true
                                   trusted := true, tagMax := 511 } })]
    steerSpread := [0] }

/-- Refutes O8: its last clause asks that a channel is in service, not that it is below the critical state, and there the
write waits (R364): so does that of one byte at address 0 of `criticalBlock`. -/
theorem not_memoryReadsBack : ¬ Obligations.MemoryReadsBack := by
  unfold Obligations.MemoryReadsBack
  rintro ⟨-, -, readsBack⟩
  have steered : channelOf criticalBlock 0 = some 0 := by decide +kernel
  obtain ⟨b', written, -⟩ := readsBack criticalBlock 0 0 0 [0] steered rfl rfl (by decide +kernel) (by decide +kernel)
    (by decide) (by decide)
  rw [localWrite_critical steered rfl rfl (by decide)] at written
  cases written

end Sys2Proof.Machine
end

section
/-! SUPPORT. The steering table after a channel is fenced (R295): the channels an entry may be given, and what the rewrite
makes of each entry. -/

namespace Sys2Proof

/-- A run of writes leaves at a key the value of one of the writes to it, or, where none is to it, what stood there. -/
theorem Tab.get_foldl_put {α : Type} [DecidableEq α] (d : α) (key : Nat → Nat) (val : Nat → α) (k : Nat) (l : List Nat)
    (t : Tab α) :
    (∃ i ∈ l, Tab.get d (l.foldl (fun t i => Tab.put d t (key i) (val i)) t) k = val i) ∨
      ((∀ i ∈ l, key i ≠ k) ∧ Tab.get d (l.foldl (fun t i => Tab.put d t (key i) (val i)) t) k = Tab.get d t k) := by
  induction l generalizing t with
  | nil => exact .inr ⟨by simp, rfl⟩
  | cons i l ih =>
    rw [List.foldl_cons]
    rcases ih (Tab.put d t (key i) (val i)) with ⟨j, inTail, written⟩ | ⟨noneInTail, kept⟩
    · exact .inl ⟨j, List.mem_cons_of_mem _ inTail, written⟩
    · by_cases here : key i = k
      · exact .inl ⟨i, List.mem_cons_self .., by rw [kept, ← here, Tab.get_put_same]⟩
      · exact .inr ⟨List.forall_mem_cons.2 ⟨here, noneInTail⟩, by rw [kept, Tab.get_put_other d t _ (Ne.symm here)]⟩

end Sys2Proof

namespace Sys2Proof.Machine

/-! ### Sharing out the entries -/

/-- The channels the entries of `c` are shared among: the in-service ones of its quadrant, else all in service. -/
def steerPool (b : Block) (c : Nat) : List Nat :=
  let l := (inServiceChans b).filter (· != c)
  let near := l.filter fun n => quadOfChan n == quadOfChan c
  if near.isEmpty then l else near

/-- The entries that name channel `c`. -/
def entriesNaming (b : Block) (c : Nat) : List Nat := (List.range 4096).filter fun h => steerOf b h == c

/-- What is written over a table once each of `entries` has had its turn of the pool. -/
def sharedOut (pool entries : List Nat) (t : Tab Nat) : Tab Nat :=
  (List.range entries.length).foldl
    (fun t i => Tab.put noChannel t (entries.getD i 0) (pool.getD (i % pool.length) noChannel)) t

theorem getD_of_lt {l : List Nat} {i : Nat} (d : Nat) (below : i < l.length) : l.getD i d = l[i] := by
  rw [List.getD_eq_getElem?_getD, List.getElem?_eq_getElem below, Option.getD_some]

theorem get_sharedOut {pool : List Nat} (nonempty : pool ≠ []) (entries : List Nat) (t : Tab Nat) (h : Nat) :
    (sharedOut pool entries t).get noChannel h ∈ pool ∨
      (h ∉ entries ∧ (sharedOut pool entries t).get noChannel h = t.get noChannel h) := by
  rcases Tab.get_foldl_put noChannel (fun i => entries.getD i 0) (fun i => pool.getD (i % pool.length) noChannel) h
    (List.range entries.length) t with ⟨i, -, written⟩ | ⟨untouched, kept⟩
  · have turn : i % pool.length < pool.length := Nat.mod_lt _ (List.length_pos_iff.2 nonempty)
    rw [getD_of_lt noChannel turn] at written
    exact .inl (written ▸ List.getElem_mem turn)
  · refine .inr ⟨fun listed => ?_, kept⟩
    obtain ⟨i, below, place⟩ := List.getElem_of_mem listed
    exact untouched i (List.mem_range.2 below) ((getD_of_lt 0 below).trans place)

section
variable {b : Block} {c : Nat}

theorem inService_of_mem_steerPool {n : Nat} (member : n ∈ steerPool b c) : n ∈ inServiceChans b ∧ n ≠ c := by
  have others : n ∈ (inServiceChans b).filter (· != c) := by
    unfold steerPool at member
    dsimp only at member
    split at member
    · exact member
    · exact (List.mem_filter.1 member).1
  simpa using others

theorem lt_of_mem_inServiceChans {n : Nat} (member : n ∈ inServiceChans b) : n < 24 :=
  List.mem_range.1 (List.mem_filter.1 member).1

theorem steerPool_ne_nil (other : ∃ n ∈ inServiceChans b, n ≠ c) : steerPool b c ≠ [] := by
  obtain ⟨n, inService, differs⟩ := other
  have member : n ∈ (inServiceChans b).filter (· != c) := by simpa using ⟨inService, differs⟩
  unfold steerPool
  dsimp only
  split
  · exact List.ne_nil_of_mem member
  · next near => simpa using near

theorem rewriteSteering_eq (pool : steerPool b c ≠ []) :
    rewriteSteering b c = { b with steerOver := sharedOut (steerPool b c) (entriesNaming b c) b.steerOver } :=
  if_neg (by rwa [List.isEmpty_iff])

theorem rewriteSteering_steerOver (pool : steerPool b c ≠ []) :
    (rewriteSteering b c).steerOver = sharedOut (steerPool b c) (entriesNaming b c) b.steerOver := by
  rw [rewriteSteering_eq pool]

/-! ### What an entry names -/

/-- An entry written over with a channel names it. -/
theorem steerOf_written {h : Nat} (channel : b.steerOver.get noChannel h < 24) :
    steerOf b h = b.steerOver.get noChannel h := by
  unfold steerOf
  split
  · omega
  · rfl

/-- Which channel an entry names rests on the image's table, the even spread and what is written over it. -/
theorem steerOf_congr {b' : Block} {h : Nat} (setup : b'.setup = b.setup) (spread : b'.steerSpread = b.steerSpread)
    (sameOver : b'.steerOver.get noChannel h = b.steerOver.get noChannel h) : steerOf b' h = steerOf b h := by
  unfold steerOf steerBase
  rw [sameOver, setup, spread]

/-- The rewrite gives an entry a channel of the pool, or leaves it where it did not name `c`. -/
theorem steerOf_rewriteSteering (pool : steerPool b c ≠ []) {h : Nat} (inTable : h < 4096) :
    steerOf (rewriteSteering b c) h ∈ steerPool b c ∨
      (steerOf b h ≠ c ∧ steerOf (rewriteSteering b c) h = steerOf b h) := by
  have rewritten := rewriteSteering_eq pool
  have entry := get_sharedOut pool (entriesNaming b c) b.steerOver h
  rw [← rewriteSteering_steerOver pool] at entry
  rcases entry with member | ⟨unnamed, kept⟩
  · have channel := lt_of_mem_inServiceChans (inService_of_mem_steerPool member).1
    left
    rwa [steerOf_written channel]
  · have differed : steerOf b h ≠ c := fun names => unnamed (by simp [entriesNaming, inTable, names])
    exact .inr ⟨differed, steerOf_congr (by rw [rewritten]) (by rw [rewritten]) kept⟩

end

/-- Settles O9: an entry the rewrite gives a channel has one other than the fenced one, and the others named another before. -/
theorem steeringLeavesFencedChannel : Obligations.SteeringLeavesFencedChannel := by
  unfold Obligations.SteeringLeavesFencedChannel
  intro b c h _ inTable other
  rcases steerOf_rewriteSteering (steerPool_ne_nil other) inTable with member | ⟨differed, kept⟩
  · exact (inService_of_mem_steerPool member).2
  · rwa [kept]

end Sys2Proof.Machine
end

section
/-! SUPPORT. Walks (R280, R281, R285, R287 to R291): one equation per way WALK_COMPLETE ends a walk, and what an entry read
does to it. -/

namespace Sys2Proof.Machine

theorem exec_walkComplete (i : Nat) (s : State) :
    exec (.walkComplete i) s = .next (s.after (walkComplete i s.b)) := rfl

/-! ### WALK_COMPLETE -/

/-- The contexts that still wait for walk `i`. -/
def stillWaiting (b : Block) (i : Nat) (w : Walk) : List Waiter := w.waiters.filter (waitsFor b i)

/-- The block with walk `i` taken off and nobody waiting for it any more. -/
def walkTakenOff (b : Block) (i : Nat) (w : Walk) : Block :=
  (stillWaiting b i w).foldl (fun b u => setWait b u none)
    { b with xl := { b.xl with walks := b.xl.walks.filter fun v => v.1 != i } }

def withPtrs (b : Block) (ptrs : List PtrEntry) : Block := { b with xl := { b.xl with ptrs := ptrs } }

/-- The pointer cache once a walk's pointers are its youngest entries; it holds 1,024 (R289). -/
def ptrsWith (old passed : List PtrEntry) : List PtrEntry :=
  (((old.filter fun p => !passed.contains p) ++ passed).reverse.take 1024).reverse

/-- The TLB entry of a leaf: the page that holds the VA walked for (R280). -/
def leafEntry (w : Walk) (leaf lvl : Nat) : TlbEntry :=
  { vi := w.vi, gen := w.gen, va := w.va / 2 ^ leafLog lvl * 2 ^ leafLog lvl, log := leafLog lvl, leaf := leaf }

theorem mem_ptrsWith {old passed : List PtrEntry} {p : PtrEntry} (member : p ∈ ptrsWith old passed) :
    p ∈ old ∨ p ∈ passed := by
  have member := List.mem_of_mem_take (List.mem_reverse.1 member)
  rcases List.mem_append.1 (List.mem_reverse.1 member) with kept | new
  · exact .inl ((List.mem_filter.1 kept).1)
  · exact .inr new

theorem ptrsWith_length (old passed : List PtrEntry) : (ptrsWith old passed).length ≤ 1024 := by
  rw [ptrsWith, List.length_reverse, List.length_take]
  exact Nat.min_le_left ..

theorem foldl_setWait_xl (l : List Waiter) (b : Block) : (l.foldl (fun b u => setWait b u none) b).xl = b.xl := by
  induction l generalizing b with
  | nil => rfl
  | cons u l ih => exact ih _

theorem walkTakenOff_ptrs (b : Block) (i : Nat) (w : Walk) : (walkTakenOff b i w).xl.ptrs = b.xl.ptrs := by
  rw [walkTakenOff, foldl_setWait_xl]

/-- A walk whose VI was not reset meanwhile takes the branch that serves. -/
theorem walk_serves {t : Block} {w : Walk} (kept : w.discard = false) (current : w.gen = (t.vinst w.vi).gen) :
    ¬ (w.discard || decide (w.gen ≠ (t.vinst w.vi).gen)) = true := by
  simp [kept, current]

section
variable {b : Block} {i : Nat} {w : Walk} (walk : walkAt b i = some w)
include walk

theorem walkComplete_unfinished (going : w.found = none) : walkComplete i b = b := by
  simp only [walkComplete, walk, going]

/-- A walk whose VI was reset meanwhile serves nobody (R287). -/
theorem walkComplete_stale {f : Found} (found : w.found = some f)
    (stale : w.discard = true ∨ w.gen ≠ ((walkTakenOff b i w).vinst w.vi).gen) :
    walkComplete i b = nextWalkIn (walkTakenOff b i w) := by
  have unserved : (w.discard || decide (w.gen ≠ ((walkTakenOff b i w).vinst w.vi).gen)) = true := by simpa using stale
  simp only [walkComplete, walk, found]
  exact congrArg nextWalkIn (if_pos unserved)

section
variable (kept : w.discard = false) (current : w.gen = ((walkTakenOff b i w).vinst w.vi).gen)
include kept current

theorem walkComplete_leaf {leaf lvl : Nat} (found : w.found = some (.leaf leaf lvl)) :
    walkComplete i b = nextWalkIn ((stillWaiting b i w).foldl walkServes
      (tlbFill (withPtrs (walkTakenOff b i w) (ptrsWith (walkTakenOff b i w).xl.ptrs w.passed))
        (((stillWaiting b i w).map fun u => quadOfCtx u.ctx).eraseDups) (leafEntry w leaf lvl))) := by
  simp only [walkComplete, walk, found]
  exact congrArg nextWalkIn (if_neg (walk_serves kept current))

/-- A walk without a translation halts what waited for it, and raises nothing (R280). -/
theorem walkComplete_unmapped (found : w.found = some (.fail .xlateFault)) :
    walkComplete i b = nextWalkIn ((stillWaiting b i w).foldl (walkFails .xlateFault w.tries) (walkTakenOff b i w)) := by
  simp only [walkComplete, walk, found]
  exact congrArg nextWalkIn (if_neg (walk_serves kept current))

/-- A walk whose entry could not be read raises source 31 besides (R281). -/
theorem walkComplete_unread {st : Status} (found : w.found = some (.fail st)) (unread : st ≠ .xlateFault) :
    ∃ u c, walkComplete i b = nextWalkIn ((stillWaiting b i w).foldl (walkFails st w.tries)
      (raise (walkTakenOff b i w) 31 u (status := st) (vi := w.vi) (ctx := c) (detail := w.va))) := by
  have raises : (st == Status.xlateFault) = false := by simpa using unread
  simp only [walkComplete, walk, found, raises]
  exact ⟨_, _, congrArg nextWalkIn (if_neg (walk_serves kept current))⟩

end

/-! ### Entries read -/

theorem walkData_next {a : Acc} {d : Bytes} (going : w.found = none) {t : Nat}
    (entry : entryAt w.level (fieldAt d a.off 8) = .table t) :
    walkData b i a d = walkRead b i { w with level := w.level - 1, table := t, passed := w.passed ++ [ptrOf w t] } := by
  simp only [walkData, walk, going, entry]
  rfl

theorem walkData_ends {a : Acc} {d : Bytes} (going : w.found = none) {f : Found}
    (entry : entryAt w.level (fieldAt d a.off 8) = .found f) :
    walkData b i a d = setWalk b i { w with found := some f } := by
  simp only [walkData, walk, going, entry]
  rfl

end

/-- With every walk at work none waits for a place (R289). -/
theorem nextWalkIn_allRunning {b : Block} (running : ∀ v ∈ b.xl.walks, v.2.running = true) : nextWalkIn b = b := by
  have noneWaits : (b.xl.walks.find? fun v => !v.2.running) = none :=
    List.find?_eq_none.2 fun v member => by simp [running v member]
  simp only [nextWalkIn, noneWaits]

/-- Settles O55: a walk by whether it has found its end, whether its VI was reset, and what it found; an entry read by
what the entry holds. -/
theorem walksEnd : Obligations.WalksEnd := by
  unfold Obligations.WalksEnd
  refine ⟨fun s i w walk => ⟨fun going => ?_, fun f found => ⟨fun stale => ?_, fun leaf lvl kept current isLeaf => ?_,
      fun kept current unmapped => ?_, fun st unread kept current failed => ?_⟩⟩,
    fun b i w a d walk going => ⟨fun t => walkData_next walk going, fun f => walkData_ends walk going⟩,
    fun b => nextWalkIn_allRunning, fun b c q va st n => ⟨rfl, rfl, rfl⟩⟩
  · rw [exec_walkComplete, walkComplete_unfinished walk going]
  · rw [exec_walkComplete, walkComplete_stale walk found stale]
    rfl
  · subst isLeaf
    refine ⟨ptrsWith s.b.xl.ptrs w.passed, fun p => mem_ptrsWith, ptrsWith_length .., ?_⟩
    rw [exec_walkComplete, walkComplete_leaf walk kept current found, walkTakenOff_ptrs]
    rfl
  · rw [exec_walkComplete, walkComplete_unmapped walk kept current (unmapped ▸ found)]
    rfl
  · obtain ⟨u, c, ended⟩ := walkComplete_unread walk kept current (failed ▸ found) unread
    exact ⟨u, c, by rw [exec_walkComplete, ended]; rfl⟩

end Sys2Proof.Machine
end

section
/-! SUPPORT. A flit group received under no session key: its checks, the group next in order and one that comes again (R322,
R323, R326, R391). -/

namespace Sys2Proof.Machine

theorem exec_flitGroup (p : Nat) (g : Bytes) (s : State) :
    exec (.flitGroup p g) s = .next (s.after (flitGroup p g s.ao s.b)) := rfl

/-! ### What a group carries -/

/-- The sequence number a trailer gives its group (R322). -/
def seqOf (t : Bytes) : Nat := fieldAt t 48 4 % 2 ^ 31

/-- The flits of a group in the clear that are not IDLE, in their order, each with its hop count. -/
def clearFlits (g : Bytes) : List Flit :=
  ((List.range 4).map fun i =>
    parseFlit (sliceAt (g.take 1088) (272 * i) 272) (fieldAt (trailerOf g) (56 + 2 * i) 2)).filter fun f => f.op != 0

/-- The port once it has taken the group next in order: it awaits the one after, asks for none and has the credits. -/
def Link.taking (l : Link) (t : Bytes) : Link :=
  creditIn { l with seqRx := (seqOf t + 1) % 2 ^ 31, nak := false } t

/-- A group's distance ahead of the one awaited, modulo 2^31; below 2^30 it leaves a gap, from there on it is old (R326). -/
def aheadBy (l : Link) (t : Bytes) : Nat := (seqOf t + 2 ^ 31 - l.seqRx) % 2 ^ 31

def leavesGap (l : Link) (t : Bytes) : Bool := decide (0 < aheadBy l t) && decide (aheadBy l t < 2 ^ 30)

theorem seqOf_lt (t : Bytes) : seqOf t < 2 ^ 31 := Nat.mod_lt _ (by decide)

section
variable {l : Link} {t : Bytes} (repeated : (seqOf t + 1) % 2 ^ 31 = l.seqRx)
include repeated

theorem seqOf_ne_of_repeated : seqOf t ≠ l.seqRx := by
  have low := seqOf_lt t
  omega

/-- The group before the one awaited is the oldest there is: 2^31 - 1 ahead. -/
theorem leavesGap_of_repeated : leavesGap l t = false := by
  have low := seqOf_lt t
  have far : aheadBy l t = 2 ^ 31 - 1 := by
    unfold aheadBy
    omega
  rw [leavesGap, far]
  rfl

end

/-- A port that shares no secret checks no group under a key (R391). -/
theorem rxKey_noSecret {l : Link} (noSecret : l.sess.secret = []) (seq : Nat) (tagged : Bool) : rxKey l seq tagged = none := by
  simp only [rxKey, noSecret, List.isEmpty_nil, Bool.true_or, if_true]

/-! ### FLIT_GROUP by what the group is (R323, R326) -/

section
variable {ao : AO} {b : Block} {p : Nat} {g : Bytes} (on : portOn (b.link p) = true) (up : islandUp b (29 + p) = true)
  (whole : g.length = groupSize)
include on up whole

theorem accepts_group : (!portOn (b.link p) || !islandUp b (29 + p) || decide (g.length ≠ groupSize)) = false := by
  rw [egress_open on up, Bool.false_or, decide_eq_false_iff_not, not_not, whole]

theorem flitGroup_badCrc (bad : crcsOk g = false) :
    flitGroup p g ao b = raise (b.setLink p { b.link p with nak := true }) 42 p := by
  simp only [flitGroup, accepts_group on up whole, bad, Bool.not_false, Bool.false_eq_true, if_false, if_true]

section
variable (good : crcsOk g = true) (noSecret : (b.link p).sess.secret = [])
  (untagged : allZero (sliceAt (trailerOf g) 0 16) = true)
include good noSecret untagged

/-- In the clear no tag is checked, and the session stays as it was. -/
theorem flitGroup_clear :
    flitGroup p g ao b =
      let t := trailerOf g
      let l := ackIn (b.link p) t
      if seqOf t ≠ l.seqRx then b.setLink p { l with nak := l.nak || leavesGap l t }
      else (clearFlits g).foldl (flitIn p) (b.setLink p (l.taking t)) := by
  simp only [flitGroup, accepts_group on up whole, good, untagged, rxKey_noSecret noSecret, Bool.not_true, Bool.false_eq_true,
    if_false, Option.isNone_none, Bool.and_false, Option.isSome_none, Bool.or_false]
  rfl

theorem flitGroup_inOrder (next : seqOf (trailerOf g) = (ackIn (b.link p) (trailerOf g)).seqRx) :
    flitGroup p g ao b =
      (clearFlits g).foldl (flitIn p) (b.setLink p ((ackIn (b.link p) (trailerOf g)).taking (trailerOf g))) :=
  (flitGroup_clear on up whole good noSecret untagged).trans (if_neg (not_not.2 next))

/-- Of a group that comes again only its acknowledgement is taken. -/
theorem flitGroup_repeated (repeated : (seqOf (trailerOf g) + 1) % 2 ^ 31 = (ackIn (b.link p) (trailerOf g)).seqRx) :
    flitGroup p g ao b = b.setLink p (ackIn (b.link p) (trailerOf g)) := by
  rw [flitGroup_clear on up whole good noSecret untagged]
  dsimp only
  rw [if_pos (seqOf_ne_of_repeated repeated), leavesGap_of_repeated repeated, Bool.or_false]

end

end

/-- Settles O20: a group by its CRCs, one in the clear by its sequence number. -/
theorem flitGroupReceived : Obligations.FlitGroupReceived := by
  unfold Obligations.FlitGroupReceived
  refine fun s p g on up whole => ⟨fun bad => ?_, fun good noSecret untagged => ⟨fun next => ?_, fun repeated => ?_⟩⟩
  · rw [exec_flitGroup, flitGroup_badCrc on up whole bad]
  · rw [exec_flitGroup, flitGroup_inOrder on up whole good noSecret untagged next]
    rfl
  · rw [exec_flitGroup, flitGroup_repeated on up whole good noSecret untagged repeated]

end Sys2Proof.Machine
end

section
/-! SUPPORT. Keep-alives sent, received and lost, and the class that waits without credit (R328, R333, R354). -/

namespace Sys2Proof.Machine

theorem exec_keepalive (p : Nat) (s : State) : exec (.keepalive p) s = .next (s.after (keepalive p s.ao s.b)) := rfl

theorem exec_creditStall (p vc dl : Nat) (s : State) :
    exec (.creditStall p vc dl) s = .next (s.after (creditStall p vc dl s.b)) := rfl

/-! ### A port that is on -/

section
variable {p : Nat} {s : State} (on : portOn (s.b.link p) = true)
include on

theorem exec_keepaliveSend_on : exec (.keepaliveSend p) s =
    .next (s.after (sendNeighbour s.b p mtKeepalive (keepaliveBody s.ao s.b (s.b.link p)))) :=
  congrArg (fun b => Host.Outcome.next (s.after b)) (if_pos on)

theorem exec_keepaliveLoss_on : exec (.keepaliveLoss p) s = .next (s.after (linkDown s.b p)) :=
  congrArg (fun b => Host.Outcome.next (s.after b)) (if_pos on)

end

/-! ### KEEPALIVE (R333) -/

/-- The message leaves its time and HELD bit with the port; the latency is measured anew only on an echo. -/
theorem keepalive_taken {ao : AO} {b0 b : Block} {p src : Nat} {m : Bytes}
    (taken : takeMsg b0 p mtKeepalive = some ((src, m), b)) :
    ∃ latency, keepalive p ao b0 = b.setLink p { b.link p with
        kaEcho := fieldAt m 0 8, kaAt := timeNs ao, peerHeld := bitOf (fieldAt m 20 1) 0, latency := latency } ∧
      (fieldAt m 8 8 = 0 → latency = (b.link p).latency) := by
  simp only [keepalive, taken, Block.modLink]
  exact ⟨_, rfl, fun noEcho => if_pos noEcho⟩

/-! ### CREDIT_STALL (R354) -/

section
variable {b : Block} {p vc dl : Nat}

theorem creditStall_held (held : (b.link p).peerHeld = true) : creditStall p vc dl b = b := by
  simp only [creditStall, held, Bool.not_true, Bool.and_false, Bool.false_eq_true, if_false]

theorem creditStall_starved (on : portOn (b.link p) = true) (waits : (b.link p).outQ (flitClass vc dl) ≠ [])
    (noCredit : (b.link p).credit (flitClass vc dl) = 0) (notHeld : (b.link p).peerHeld = false) :
    creditStall p vc dl b = linkDown b p := by
  have starved : (portOn (b.link p) && !((b.link p).outQ (flitClass vc dl)).isEmpty &&
      (b.link p).credit (flitClass vc dl) == 0 && !(b.link p).peerHeld) = true := by
    simp [on, waits, noCredit, notHeld]
  exact if_pos starved

end

/-- Settles O25: the port on for what is sent and lost, the message taken, and the stalled class by the peer's HELD bit. -/
theorem keepAlives : Obligations.KeepAlives := by
  unfold Obligations.KeepAlives
  refine fun s p => ⟨exec_keepaliveSend_on, fun src m b taken => ?_, exec_keepaliveLoss_on,
    fun vc dl on waits noCredit => ⟨fun notHeld => ?_, fun held quiet => ?_⟩⟩
  · obtain ⟨latency, received, kept⟩ := keepalive_taken (ao := s.ao) taken
    refine ⟨_, exec_keepalive p s, ?_⟩
    rw [received, State.after_link, Block.setLink_link]
    exact ⟨rfl, rfl, rfl, kept⟩
  · rw [exec_creditStall, creditStall_starved on waits noCredit notHeld]
  · rw [exec_creditStall, creditStall_held held, s.after_self quiet]

end Sys2Proof.Machine
end

section
/-! SUPPORT. A step, and the AO island across it (R15, R64, R409, R432, R434, R436): what its control events, the owed count
bit and a warm start keep, every command but COLD_START keeps. -/

namespace Sys2Proof.Machine

/-! ### A step -/

/-- Settles O1: the front of the queue is the command, and its rest the queue it runs with. -/
theorem stepRunsFront : Obligations.StepRunsFront := by
  unfold Obligations.StepRunsFront
  intro c s
  rw [step, State.withPending_pending]
  rfl

/-! ### What lasts in the AO island -/

/-- A fact of the AO island that its control events, the owed count bit (R405) and the adoption of the shadow by a warm start
(R440) keep. -/
structure AO.Lasting (P : AO → Prop) : Prop where
  apply : ∀ {a : AO} (e : AoEvent), P a → P (a.apply e)
  countTamper : ∀ {a : AO}, P a → P a.countTamper
  adopt : ∀ {a : AO}, P a → P { a with inUse := a.shadow }

namespace AO.Lasting

variable {P : AO → Prop} (lasting : AO.Lasting P)
include lasting

theorem keeps_foldl_apply {a : AO} (h : P a) (l : List AoEvent) : P (l.foldl AO.apply a) := by
  induction l generalizing a with
  | nil => exact h
  | cons e l ih => exact ih (lasting.apply e h)

theorem keeps_atStart {s : State} (h : P s.ao) : P (atStart s).ao := lasting.keeps_foldl_apply (lasting.countTamper h) _

/-- Every command but COLD_START reaches AO by control events, and WARM_START by the owed count bit and the adopted shadow. -/
theorem keeps_exec {c : Instr} {s t : State} (notCold : isCold c = false) (h : P s.ao)
    (answered : exec c s = .next t) : P t.ao := by
  cases start : isStart c with
  | false =>
    obtain ⟨f, hf⟩ := exec_lift start
    rw [hf, lift_eq] at answered
    obtain rfl := Host.Outcome.next.inj answered
    exact lasting.keeps_foldl_apply h _
  | true =>
    cases c with
    | coldStart k => exact Bool.noConfusion notCold
    | warmStart k =>
      by_cases reset : s.ao.on = false ∨ s.b.islands.out.get false 37 = false
      · rw [exec_warmStart_off reset] at answered
        obtain rfl := Host.Outcome.next.inj answered
        exact h
      · rw [not_or, Bool.not_eq_false, Bool.not_eq_false] at reset
        rw [exec_warmStart_on reset.1 reset.2] at answered
        obtain rfl := Host.Outcome.next.inj answered
        exact lasting.keeps_foldl_apply (lasting.adopt (lasting.keeps_atStart h)) _
    | _ => exact Bool.noConfusion start

end AO.Lasting

/-- The count bit a tamper event owes reaches the fuses and what sensing shows of them, nothing else (R405). -/
theorem AO.countTamper_eq (a : AO) :
    ∃ fuses shadow, a.countTamper = { a with fuses := fuses, shadow := shadow, countDue := false } := by
  unfold AO.countTamper
  split
  · next notDue =>
    refine ⟨a.fuses, a.shadow, ?_⟩
    rw [← show a.countDue = false by simpa using notDue]
  · split
    · exact ⟨_, _, rfl⟩
    · exact ⟨a.fuses, a.shadow, rfl⟩

theorem AO.countTamper_fuses {a : AO} {i : Nat} (h : a.fuses.contains i = true) : a.countTamper.fuses.contains i = true := by
  unfold AO.countTamper
  split
  · exact h
  · split
    · exact fuseSet_mem _ _ _ h
    · exact h

/-! ### OTP bits (R436) -/

theorem AO.fuse_lasting (i : Nat) : AO.Lasting fun a => a.fuses.contains i = true where
  apply e := AO.apply_fuses _ e i
  countTamper := AO.countTamper_fuses
  adopt h := h

theorem tick_fuses {s : State} {i : Nat} (h : s.ao.fuses.contains i = true) : (tick s).ao.fuses.contains i = true :=
  (AO.fuse_lasting i).keeps_foldl_apply (a := { s.ao.countTamper with aotime := s.ao.aotime + 1 }) (AO.countTamper_fuses h) _

/-- A cold start senses the fuses anew and takes them over as they are; any other command keeps what lasts. -/
theorem exec_fuses {c : Instr} {s t : State} {i : Nat} (h : s.ao.fuses.contains i = true) (answered : exec c s = .next t) :
    t.ao.fuses.contains i = true := by
  cases cold : isCold c with
  | false => exact (AO.fuse_lasting i).keeps_exec cold h answered
  | true =>
    cases c with
    | coldStart k =>
      obtain rfl := Host.Outcome.next.inj answered
      refine (AO.fuse_lasting i).keeps_foldl_apply ?_ _
      exact (AO.fuse_lasting i).keeps_atStart h
    | _ => exact Bool.noConfusion cold

/-- Settles O4: an idle step by `tick_fuses`, a command by `exec_fuses`. -/
theorem fusesNeverCleared : Obligations.FusesNeverCleared := by
  unfold Obligations.FusesNeverCleared
  intro s t stepped i programmed
  cases waiting : s.pending with
  | nil =>
    rw [step_idle waiting] at stepped
    obtain rfl := Host.Outcome.next.inj stepped
    exact tick_fuses programmed
  | cons c rest =>
    rw [step, waiting] at stepped
    exact exec_fuses (s := s.withPending rest) programmed stepped

/-! ### The clock, the reset and the misread words of AO (R432, R440), and the security events (R409) -/

theorem AO.frame_lasting (on : Bool) (time : Word64) (bad : List Nat) :
    AO.Lasting fun a => a.on = on ∧ a.aotime = time ∧ a.badWords = bad where
  apply {a} e h := by rwa [a.apply_on, a.apply_aotime, a.apply_badWords]
  countTamper {a} h := by
    obtain ⟨_, _, counted⟩ := a.countTamper_eq
    rwa [counted]
  adopt h := h

theorem AO.secEvents_lasting (n : Nat) : AO.Lasting fun a => n ≤ a.secEvents ∧ a.secEvents ≤ 2 ^ 32 - 1 where
  apply {a} e h := by
    obtain ⟨more, bounded⟩ := a.apply_secEvents e h.2
    exact ⟨h.1.trans more, bounded⟩
  countTamper {a} h := by
    obtain ⟨_, _, counted⟩ := a.countTamper_eq
    rwa [counted]
  adopt h := h

/-- Settles O7: both by what lasts over every command but COLD_START. -/
theorem alwaysOnFrame : Obligations.AlwaysOnFrame := by
  unfold Obligations.AlwaysOnFrame
  constructor
  · exact fun c s t answered notCold =>
      (AO.frame_lasting s.ao.on s.ao.aotime s.ao.badWords).keeps_exec notCold ⟨rfl, rfl, rfl⟩ answered
  · exact fun c s t answered notCold bounded =>
      (AO.secEvents_lasting s.ao.secEvents).keeps_exec notCold ⟨Nat.le_refl _, bounded⟩ answered

/-! ### The first violation (R434) -/

theorem AO.violation_lasting (info : Word64) : AO.Lasting fun a => a.viol = true ∧ a.violInfo = info where
  apply {a} e h := by
    obtain ⟨shown, same⟩ := a.apply_viol e h.1
    exact ⟨shown, same.trans h.2⟩
  countTamper {a} h := by
    obtain ⟨_, _, counted⟩ := a.countTamper_eq
    rwa [counted]
  adopt h := h

/-- A refusal under a lock sends the violation to AO and no other event. -/
theorem refusePort_locked_ev {b : Block} (a : Nat) (w : CtlWrite) {st : Status} (h : st = .locked ∨ st = .writeOnce) :
    (refusePort b a w st).ev = b.ev ++ [.violation a w.vi st.code] := by
  have lock : (st == .locked || st == .writeOnce) = true := by rcases h with rfl | rfl <;> rfl
  rw [refusePort, if_pos lock]
  rfl

theorem AO.apply_violation (a : AO) (off vi st : Nat) :
    (a.apply (.violation off vi st)).viol = true ∧
    (a.apply (.violation off vi st)).secEvents = min (a.secEvents + 1) (2 ^ 32 - 1) ∧
    (a.apply (.violation off vi st)).violInfo = if a.viol then a.violInfo
      else BitVec.ofNat 64 (off % 2 ^ 20 + vi % 256 * 2 ^ 20 + st % 65536 * 2 ^ 32) := by
  cases first : a.viol <;> simp [AO.apply, first]

theorem lifeCycle_le (ao : AO) : lifeCycle ao ≤ 5 := by
  unfold lifeCycle
  split
  · exact Nat.zero_le _
  · split
    · next i top =>
      have listed := List.mem_of_head? top
      simp only [List.mem_filter, List.mem_cons, List.not_mem_nil, or_false] at listed
      omega
    · exact Nat.zero_le _

/-- STATUS shows viol in bit 17 of its result (R434). -/
theorem cmdStatus_viol {ao : AO} {b : Block} {c : Bytes} {r : Reply} (passed : check0 b c r .any [] true = none)
    (stage : b.boot.stage < 256) : ∃ res, cmdStatus ao b c r = (b, .now .ok res 0) ∧ res.testBit 17 = ao.viol := by
  refine ⟨_, guarded_passed passed, ?_⟩
  have life := lifeCycle_le ao
  have bit : ∀ x : Bool, b2n x ≤ 1 := by decide
  have cert := bit b.sec.cert.isSome
  have bit17 : ∀ low v high : Nat, low < 2 ^ 17 → (low + v * 2 ^ 17 + high * 2 ^ 32).testBit 17 = (v % 2 == 1) := by
    intro low v high small
    rw [Nat.testBit_eq_decide_div_mod_eq, show (low + v * 2 ^ 17 + high * 2 ^ 32) / 2 ^ 17 % 2 = v % 2 by omega]
    rfl
  rw [bit17 _ _ _ (by omega)]
  cases ao.viol <;> rfl

/-- Settles O6: the refusal by the event it sends, what is kept by what lasts, a cold start by its definition. -/
theorem violationReport : Obligations.ViolationReport := by
  unfold Obligations.ViolationReport
  refine ⟨fun s a w st locked quiet => ?_, fun c s t answered notCold shown => ?_, fun s t k answered => ?_,
    fun ao b c r => cmdStatus_viol⟩
  · have sent : (s.after (refusePort s.b a w st)).ao = s.ao.apply (.violation a w.vi st.code) := by
      rw [State.after_ao, refusePort_locked_ev a w locked, quiet]
      rfl
    obtain ⟨shown, counted, loaded⟩ := s.ao.apply_violation a w.vi st.code
    simp only [sent]
    exact ⟨shown, counted, loaded⟩
  · exact (AO.violation_lasting s.ao.violInfo).keeps_exec notCold ⟨shown, rfl⟩ answered
  · obtain rfl := Host.Outcome.next.inj answered
    exact ⟨_, _, rfl, rfl, rfl⟩

end Sys2Proof.Machine
end

section
/-! SUPPORT. The weighted-credit rule (R356 to R361): who is chosen, what a grant and a window boundary leave at a point. -/

namespace Sys2Proof

theorem sortBy_eq_insertionSort {α : Type} (k : α → Nat) (l : List α) :
    sortBy k l = l.insertionSort fun x y => k x ≤ k y := by
  have inserted : ∀ (x : α) (t : List α), insertBy k x t = t.orderedInsert (fun x y => k x ≤ k y) x := by
    intro x t
    induction t with
    | nil => rfl
    | cons y t ih => rw [insertBy, List.orderedInsert_cons, ih]
  induction l with
  | nil => rfl
  | cons x l ih =>
    rw [List.insertionSort_cons, ← ih, ← inserted]
    rfl

theorem mem_sortBy {α : Type} {k : α → Nat} {l : List α} {x : α} : x ∈ sortBy k l ↔ x ∈ l := by
  rw [sortBy_eq_insertionSort, List.mem_insertionSort]

/-- A list of numbers sorted by themselves rises. -/
theorem sortBy_id_pairwise (l : List Nat) : (sortBy id l).Pairwise (· ≤ ·) := by
  rw [sortBy_eq_insertionSort]
  exact List.pairwise_insertionSort (fun x y : Nat => x ≤ y) l

/-- The greatest value along a list is reached in it, or is the one the search began with. -/
theorem foldl_max_spec {α : Type} (f : α → Int) (l : List α) (m : Int) :
    m ≤ l.foldl (fun m x => max m (f x)) m ∧ (∀ x ∈ l, f x ≤ l.foldl (fun m x => max m (f x)) m) ∧
    (l.foldl (fun m x => max m (f x)) m = m ∨ ∃ x ∈ l, f x = l.foldl (fun m x => max m (f x)) m) := by
  induction l generalizing m with
  | nil => exact ⟨Int.le_refl m, by simp, .inl rfl⟩
  | cons y l ih =>
    obtain ⟨start, above, reached⟩ := ih (max m (f y))
    rw [List.foldl_cons]
    refine ⟨(Int.le_max_left _ _).trans start, List.forall_mem_cons.2 ⟨(Int.le_max_right _ _).trans start, above⟩, ?_⟩
    rcases reached with first | ⟨x, listed, isTop⟩
    · rw [first]
      rcases Int.le_total m (f y) with le | le
      · exact .inr ⟨y, List.mem_cons_self .., (max_eq_right le).symm⟩
      · exact .inl (max_eq_left le)
    · exact .inr ⟨x, List.mem_cons_of_mem _ listed, isTop⟩

/-- Each key of a list that is put holds its own value afterwards. -/
theorem Tab.get_foldl_put_mem {α : Type} [DecidableEq α] (d : α) (val : Nat → α) {k : Nat} (l : List Nat) (t : Tab α)
    (h : k ∈ l ∨ Tab.get d t k = val k) : Tab.get d (l.foldl (fun t i => Tab.put d t i (val i)) t) k = val k := by
  induction l generalizing t with
  | nil => simpa using h
  | cons i l ih =>
    refine ih _ ?_
    by_cases here : k = i
    · subst here
      exact .inr (Tab.get_put_same ..)
    · rw [Tab.get_put_other d t _ here]
      simpa [here] using h

/-- A change that, made twice, is as made once: what is under a key after it was made at the keys of a list. -/
theorem Tab.get_foldl_upd {α : Type} [DecidableEq α] (d : α) (f : Nat → α → α) (twice : ∀ i v, f i (f i v) = f i v) (k : Nat)
    (l : List Nat) (t : Tab α) :
    Tab.get d (l.foldl (fun t i => t.upd d i (f i)) t) k = if k ∈ l then f k (Tab.get d t k) else Tab.get d t k := by
  induction l generalizing t with
  | nil => rfl
  | cons i l ih =>
    rw [List.foldl_cons, ih]
    by_cases here : k = i
    · subst here
      rw [Tab.upd, Tab.get_put_same, twice, if_pos (List.mem_cons_self ..), ite_self]
    · rw [Tab.upd, Tab.get_put_other d t _ here]
      simp [here]

end Sys2Proof

namespace Sys2Proof.Machine

/-! ### Who is chosen (R358, R359) -/

/-- The first number of a list at or after `n`, else its head. -/
def firstFrom (n : Nat) (l : List Nat) : Option Nat :=
  match l.find? fun r => decide (n ≤ r) with
  | some r => some r
  | none => l.head?

theorem firstFrom_none {n : Nat} {l : List Nat} (h : firstFrom n l = none) : l = [] := by
  unfold firstFrom at h
  split at h
  · exact absurd h (by simp)
  · simpa using h

/-- Of a rising list it is the next number at or after `n`, going round. -/
theorem firstFrom_some {n r : Nat} {l : List Nat} (rising : l.Pairwise (· ≤ ·)) (h : firstFrom n l = some r) :
    r ∈ l ∧ ∀ x ∈ l, (n ≤ x → n ≤ r ∧ r ≤ x) ∧ (x < n → r < n → r ≤ x) := by
  unfold firstFrom at h
  split at h
  next y found =>
    obtain rfl := Option.some.inj h
    obtain ⟨after, before, behind, cut, earlier⟩ := List.find?_eq_some_iff_append.1 found
    have after : n ≤ y := of_decide_eq_true after
    refine ⟨List.mem_of_find?_eq_some found, fun x listed => ⟨fun late => ⟨after, ?_⟩, fun _ early => absurd after (by omega)⟩⟩
    rw [cut] at listed rising
    rcases List.mem_append.1 listed with skipped | listed
    · exact absurd late (by simpa using earlier x skipped)
    · rcases List.mem_cons.1 listed with rfl | listed
      · exact Nat.le_refl x
      · exact (List.pairwise_cons.1 (List.pairwise_append.1 rising).2.1).1 x listed
  next none =>
    obtain ⟨t, rfl⟩ : ∃ t, l = r :: t := List.head?_eq_some_iff.1 h
    refine ⟨List.mem_cons_self .., fun x listed => ⟨fun late => ?_, fun _ _ => ?_⟩⟩
    · exact absurd late (by simpa using List.find?_eq_none.1 none x listed)
    · rcases List.mem_cons.1 listed with rfl | listed
      · exact Nat.le_refl x
      · exact (List.pairwise_cons.1 rising).1 x listed

/-- Those among whom the counters decide: the marked ones, or all where none is marked (R358). -/
def Arb.pool (a : Arb) (w : Nat → Nat) (l : List Nat) : List Nat :=
  if (l.filter fun r => (a.entry w r).marked).isEmpty then l else l.filter fun r => (a.entry w r).marked

/-- The fullest counter of a list, not below `m`. -/
def Arb.top (a : Arb) (w : Nat → Nat) (l : List Nat) (m : Int) : Int := l.foldl (fun m r => max m (a.entry w r).ctr) m

/-- Those of a list whose counter is `m`, in the order of their numbers. -/
def Arb.tied (a : Arb) (w : Nat → Nat) (l : List Nat) (m : Int) : List Nat :=
  sortBy id (l.filter fun r => (a.entry w r).ctr == m)

theorem Arb.choose_eq (a : Arb) (w : Nat → Nat) (l : List Nat) : a.choose w l = match a.pool w l with
    | [] => none
    | r :: t => firstFrom a.next (a.tied w (r :: t) (a.top w (r :: t) (a.entry w r).ctr)) := by
  simp only [Arb.choose, ← Arb.pool.eq_def]
  cases a.pool w l <;> rfl

theorem Arb.mem_pool {a : Arb} {w : Nat → Nat} {l : List Nat} {r : Nat} :
    r ∈ a.pool w l ↔ r ∈ l ∧ ((∃ x ∈ l, (a.entry w x).marked = true) → (a.entry w r).marked = true) := by
  unfold Arb.pool
  split
  · next none =>
    have unmarked : ¬ ∃ x ∈ l, (a.entry w x).marked = true := by simpa using none
    exact ⟨fun listed => ⟨listed, fun some => absurd some unmarked⟩, And.left⟩
  · next some =>
    have marked : ∃ x ∈ l, (a.entry w x).marked = true := by simpa using some
    rw [List.mem_filter]
    exact and_congr_right fun _ => ⟨fun m _ => m, fun m => m marked⟩

/-- Where one is marked or one waits at all, one is in the pool. -/
theorem Arb.pool_nil {a : Arb} {w : Nat → Nat} {l : List Nat} (h : a.pool w l = []) : l = [] := by
  unfold Arb.pool at h
  split at h
  · exact h
  · next some => exact absurd (List.isEmpty_iff.2 h) some

theorem Arb.mem_tied {a : Arb} {w : Nat → Nat} {l : List Nat} {m : Int} {r : Nat} :
    r ∈ a.tied w l m ↔ r ∈ l ∧ (a.entry w r).ctr = m := by
  rw [Arb.tied, mem_sortBy, List.mem_filter, beq_iff_eq]

theorem Arb.top_reached (a : Arb) (w : Nat → Nat) (r : Nat) (t : List Nat) :
    ∃ x ∈ r :: t, (a.entry w x).ctr = a.top w (r :: t) (a.entry w r).ctr := by
  rcases (foldl_max_spec (fun x => (a.entry w x).ctr) (r :: t) (a.entry w r).ctr).2.2 with first | reached
  · exact ⟨r, List.mem_cons_self .., first.symm⟩
  · exact reached

theorem Arb.choose_none {a : Arb} {w : Nat → Nat} {l : List Nat} (h : a.choose w l = none) : l = [] := by
  rw [Arb.choose_eq] at h
  split at h
  · next empty => exact Arb.pool_nil empty
  · next r t _ =>
    obtain ⟨x, listed, isTop⟩ := a.top_reached w r t
    have tied := Arb.mem_tied.2 ⟨listed, isTop⟩
    rw [firstFrom_none h] at tied
    exact absurd tied List.not_mem_nil

/-- R358: one of the pool whose counter none of it exceeds, the next in turn of those with the same. -/
theorem Arb.choose_some {a : Arb} {w : Nat → Nat} {l : List Nat} {r : Nat} (h : a.choose w l = some r) :
    r ∈ a.pool w l ∧ ∀ x ∈ a.pool w l, (a.entry w x).ctr ≤ (a.entry w r).ctr ∧
      ((a.entry w x).ctr = (a.entry w r).ctr →
        (a.next ≤ x → a.next ≤ r ∧ r ≤ x) ∧ (x < a.next → r < a.next → r ≤ x)) := by
  rw [Arb.choose_eq] at h
  split at h
  · exact absurd h (by simp)
  · next y t pool =>
    obtain ⟨tied, inTurn⟩ := firstFrom_some (sortBy_id_pairwise _) h
    obtain ⟨listed, isTop⟩ := Arb.mem_tied.1 tied
    refine ⟨pool ▸ listed, fun x inPool => ?_⟩
    rw [pool] at inPool
    rw [isTop]
    exact ⟨(foldl_max_spec (fun x => (a.entry w x).ctr) (y :: t) _).2.1 x inPool,
      fun same => inTurn x (Arb.mem_tied.2 ⟨inPool, same⟩)⟩

theorem Arb.choose_mem {a : Arb} {w : Nat → Nat} {l : List Nat} {r : Nat} (h : a.choose w l = some r) : r ∈ l :=
  (Arb.mem_pool.1 (Arb.choose_some h).1).1

/-- Where one waits, one is chosen of those that wait. -/
theorem Arb.choose_waiting (a : Arb) (w : Nat → Nat) {l : List Nat} (h : l ≠ []) : ∃ r, a.choose w l = some r ∧ r ∈ l := by
  obtain ⟨r, chosen⟩ := Option.ne_none_iff_exists'.1 fun none => h (Arb.choose_none (a := a) (w := w) none)
  exact ⟨r, chosen, Arb.choose_mem chosen⟩

/-- R359: whoever takes a slot waits for it. -/
theorem Arb.pick_mem {a p : Arb} {w : Nat → Nat} {l : List Nat} {r : Nat} (h : a.pick p w l = some r) : r ∈ l := by
  unfold Arb.pick at h
  dsimp only at h
  split at h
  · exact (List.mem_filter.1 (Arb.choose_mem h)).1
  · split at h
    · split at h
      · next o _ _ waits => exact Option.some.inj h ▸ List.contains_iff_mem.1 waits
      · exact Arb.choose_mem h
    · exact Arb.choose_mem h

theorem Arb.pick_locked {a p : Arb} (w : Nat → Nat) {l : List Nat} {o n : Nat} (first : p.prev = none)
    (lock : p.lock = some (o, n)) (waits : o ∈ l) : a.pick p w l = some o := by
  simp [Arb.pick, first, lock, waits]

/-- R194, R359: the second slot of a cycle is another's, where another waits. -/
theorem Arb.pick_second {a p : Arb} (w : Nat → Nat) {l : List Nat} {f x : Nat} (second : p.prev = some f) (waits : x ∈ l)
    (other : x ≠ f) : ∃ r, a.pick p w l = some r ∧ r ≠ f := by
  have among : ∀ r, r ∈ l.filter (fun r => p.prev != some r) ↔ r ∈ l ∧ r ≠ f := by
    intro r
    rw [List.mem_filter, second, bne_iff_ne, ne_eq, Option.some.injEq, eq_comm]
  have others : l.filter (fun r => p.prev != some r) ≠ [] := List.ne_nil_of_mem ((among x).2 ⟨waits, other⟩)
  obtain ⟨r, chosen, listed⟩ := a.choose_waiting w others
  refine ⟨r, ?_, ((among r).1 listed).2⟩
  rw [Arb.pick, if_pos (by simp [second] at others ⊢; simpa using others), chosen]

/-! ### What a grant and a boundary leave (R357, R361) -/

theorem Arb.unmark_entry (a : Arb) (l : List Nat) (r : Nat) : (a.unmark l).reqs.get {} r =
    { a.reqs.get {} r with marked := (a.reqs.get {} r).marked && l.contains r } := by
  have changed := Tab.get_foldl_upd ({} : ArbReq) (fun i e => { e with marked := e.marked && l.contains i })
    (fun i e => by simp) r a.reqs.keys a.reqs
  rw [Arb.unmark, changed]
  rcases Tab.mem_keys_or_get_default {} a.reqs r with listed | unlisted
  · rw [if_pos listed]
  · rw [unlisted]
    split <;> rfl

/-- The entry of a requester that waits at a boundary (R357, R361). -/
theorem Arb.boundary_entry (a : Arb) (w : Nat → Nat) {l : List Nat} {r : Nat} (waits : r ∈ l) :
    (a.boundary w l).reqs.get {} r = { a.entry w r with
      ctr := min ((a.entry w r).ctr + w r) (2 * w r), granted := false
      marked := (a.entry w r).marked || !(a.entry w r).granted } := by
  have key : r ∈ sortBy id (a.reqs.keys ++ l.filter fun r => !(a.reqs.keys.contains r)) := by
    rw [mem_sortBy, List.mem_append, List.mem_filter]
    by_cases listed : r ∈ a.reqs.keys
    · exact .inl listed
    · exact .inr ⟨waits, by simpa using listed⟩
  have put := Tab.get_foldl_put_mem ({} : ArbReq) (fun r => { a.entry w r with
      ctr := min ((a.entry w r).ctr + w r) (2 * w r), granted := false
      marked := l.contains r && ((a.entry w r).marked || !(a.entry w r).granted) }) _ [] (.inl key)
  rw [List.contains_iff_mem.2 waits, Bool.true_and] at put
  exact put

/-- R359: the lock of the first grant of a sequence, and of a further one to its owner. -/
theorem Arb.relock_first {p : Arb} (r : Nat) (locked more : Bool) (free : p.lock = none) :
    (p.relock r locked more).lock = if locked && more then some (r, 1) else none := by
  cases locked <;> cases more <;> simp [Arb.relock, free]

theorem Arb.relock_next {p : Arb} {r n : Nat} (locked more : Bool) (held : p.lock = some (r, n)) :
    (p.relock r locked more).lock = if locked && more && decide (n < 15) then some (r, n + 1) else none := by
  have bound : n + 1 < 16 ↔ n < 15 := by omega
  cases locked <;> cases more <;> by_cases short : n < 15 <;> simp [Arb.relock, held, bound, short]

/-- Settles O54: the choice by the pool it is made from, a slot by the lock and the one before it, a counter by its entry. -/
theorem weightedCredits : Obligations.WeightedCredits := by
  unfold Obligations.WeightedCredits
  refine ⟨fun a w l => ⟨Arb.choose_none, fun r chosen => ?_⟩, fun a w r => ?_, fun a w l r waits => ?_, fun a l r => ?_,
    fun a p w l => ⟨fun r => Arb.pick_mem, fun o n => Arb.pick_locked w, fun f x => Arb.pick_second w⟩,
    fun p r n locked more => ⟨Arb.relock_first r locked more, Arb.relock_next locked more⟩, rfl, rfl, rfl, rfl⟩
  · obtain ⟨inPool, best⟩ := Arb.choose_some chosen
    obtain ⟨waits, marked⟩ := Arb.mem_pool.1 inPool
    refine ⟨waits, marked, fun x listed same => best x (Arb.mem_pool.2 ⟨listed, fun some => ?_⟩)⟩
    rw [same]
    exact marked some
  · have entry : (a.charge w r).reqs.get {} r =
        { a.entry w r with ctr := max ((a.entry w r).ctr - 1) (-32768), marked := false, granted := true } :=
      Tab.get_put_same ..
    rw [entry]
    exact ⟨rfl, rfl, rfl, rfl, fun x other => Tab.get_put_other _ _ _ other⟩
  · rw [Arb.boundary_entry a w waits]
    exact ⟨rfl, rfl, rfl, rfl⟩
  · rw [Arb.unmark_entry]
    exact ⟨rfl, rfl⟩

end Sys2Proof.Machine
end

section
/-! SUPPORT. Detections and the queue of log records (R411 to R419, R426, R427). -/

namespace Sys2Proof.Machine

/-! ### The latch of a detection (R412, R413, R417, R429) -/

theorem exec_detection (d : DetIn) (s : State) : exec (.detection d) s = .next (s.after (detection d s.ao s.b)) := rfl

theorem exec_quietTimer (k : UnitKind) (i : Nat) (s : State) :
    exec (.quietTimer k i) s = .next (s.after (quietTimer k i s.b)) := rfl

theorem ct_runs {b : Block} (up : ctUp b = true) : b.islands.out.get false 37 = true ∧ b.islands.lost.get false 37 = false := by
  simp only [ctUp, Bool.and_eq_true, Bool.not_eq_true'] at up
  exact up.1

section
variable {ao : AO} {b : Block}

theorem detection_oldest {p : Pin} {l : List Pin} (up : ctUp b = true) (oldest : b.flt.pins = p :: l) :
    detection .raised ao b = latchPin ao { b with flt := { b.flt with pins := l } } p := by
  obtain ⟨out, clocked⟩ := ct_runs up
  simp only [detection, out, clocked, oldest, Bool.not_true, Bool.or_self, Bool.false_eq_true, if_false]

theorem detection_hardware {src unit d : Nat} (up : ctUp b = true) (listed : src < 64) :
    detection (.pin src unit none d) ao b =
      latchPin ao b { src := src, unit := unit, status := 0, vi := 256, ctx := 256, detail := d } := by
  obtain ⟨out, clocked⟩ := ct_runs up
  simp only [detection, out, clocked, Nat.not_le.2 listed, Bool.not_true, Bool.or_self, Bool.false_eq_true, if_false]
  rfl

/-- Whether a pin is charged to a unit that is fenced. -/
def chargesFenced (b : Block) (p : Pin) : Bool :=
  match chargedUnit p.src p.unit with
  | some (k, i) => b.isFenced k i
  | none => false

theorem chargesFenced_charged {p : Pin} {k : UnitKind} {i : Nat} (charged : chargedUnit p.src p.unit = some (k, i)) :
    chargesFenced b p = b.isFenced k i := by
  simp only [chargesFenced, charged]

theorem latchPin_eq (p : Pin) : latchPin ao b p =
    if severityOf b p.src = 0 || (chargesFenced b p && !p.own) then countSource b p.src
    else applySeverity ao (latchBits ao (countSource b p.src) (pinStatus (countSource b p.src) p (severityOf b p.src))
      (severityOf b p.src)) p (severityOf b p.src) := by
  unfold latchPin chargesFenced
  cases chargedUnit p.src p.unit <;> rfl

theorem latchPin_ignored {p : Pin} (ignored : severityOf b p.src = 0) : latchPin ao b p = countSource b p.src := by
  rw [latchPin_eq, if_pos (by simp [ignored])]

theorem latchPin_fenced {p : Pin} (fenced : chargesFenced b p = true) (other : p.own = false) :
    latchPin ao b p = countSource b p.src := by
  rw [latchPin_eq, if_pos (by simp [fenced, other])]

/-- A severity up to LOG_IRQ does nothing beyond the latch (R413). -/
theorem applySeverity_low {p : Pin} {sev : Nat} (low : sev ≤ 2) : applySeverity ao b p sev = b := by
  have n3 : sev ≠ 3 := by omega
  have n4 : sev ≠ 4 := by omega
  have n5 : ¬ 5 ≤ sev := by omega
  have n6 : sev ≠ 6 := by omega
  have n7 : sev ≠ 7 := by omega
  have noReset : resetAct b sev = b := by simp [resetAct, n6, n7]
  unfold applySeverity
  cases chargedUnit p.src p.unit <;> simp [n3, n4, n5, noReset]

theorem pinStatus_low {p : Pin} {sev : Nat} (low : sev ≤ 2) : pinStatus b p sev = p := by
  have n5 : ¬ 5 ≤ sev := by omega
  simp [pinStatus, n5]

/-- A detection of a severity up to LOG_IRQ is only counted, or latched as well. -/
theorem latchPin_low {p : Pin} (low : severityOf b p.src ≤ 2) : latchPin ao b p = countSource b p.src ∨
    latchPin ao b p = latchBits ao (countSource b p.src) p (severityOf b p.src) := by
  rw [latchPin_eq, pinStatus_low low, applySeverity_low low]
  exact ite_eq_or_eq ..

theorem latchPin_log {p : Pin} (log : severityOf b p.src = 1) (inUse : chargesFenced b p = false) :
    latchPin ao b p = latchBits ao (countSource b p.src) p 1 := by
  have low : severityOf b p.src ≤ 2 := by omega
  rw [latchPin_eq, pinStatus_low low, applySeverity_low low, if_neg (by simp [log, inUse]), log]

end

theorem Faults.enqueue_status (f : Faults) (r : Rec) : (f.enqueue r).status = f.status := by
  unfold Faults.enqueue
  split
  · rfl
  · dsimp only
    split <;> rfl

theorem Faults.note_status (f : Faults) (r : Rec) : (f.note r).status = f.status := by
  unfold Faults.note
  dsimp only
  split
  · rfl
  · rw [Faults.enqueue_status]
    split <;> rfl

theorem latchBits_status {ao : AO} {b : Block} {p : Pin} {sev : Nat} (listed : p.src < 64) :
    (latchBits ao b p sev).flt.status.getLsbD p.src = true := by
  have bit : (BitVec.ofNat 64 (2 ^ p.src)).getLsbD p.src = true := by
    rw [BitVec.getLsbD_ofNat, Nat.testBit_two_pow_self, Bool.and_true, decide_eq_true listed]
  rw [latchBits, Faults.note_status, BitVec.getLsbD_or, bit, Bool.or_true]

theorem latchBits_keeps (ao : AO) (b : Block) (p : Pin) (sev : Nat) : (latchBits ao b p sev).chans = b.chans ∧
    (latchBits ao b p sev).ctxs = b.ctxs ∧ (latchBits ao b p sev).boot = b.boot := ⟨rfl, rfl, rfl⟩

/-- Settles O56: a detection by its severity and the unit it charges, a quiet time by the unit's state. -/
theorem detections : Obligations.Detections := by
  unfold Obligations.Detections
  refine ⟨fun s up => ⟨fun p l oldest => ?_, fun src u d listed => ?_, fun b p ignored => latchPin_ignored ignored,
    fun b p k i charged fenced other => latchPin_fenced ((chargesFenced_charged charged).trans fenced) other,
    fun b p listed log unfenced => ?_⟩, fun s k i => ⟨fun fault => ?_, fun calm quiet => ?_, rfl⟩⟩
  · rw [exec_detection, detection_oldest up oldest]
  · rw [exec_detection, detection_hardware up listed]
  · have inUse : chargesFenced b p = false := by
      unfold chargesFenced
      split
      · next k i charged => exact unfenced k i charged
      · rfl
    rw [latchPin_log log inUse]
    exact ⟨latchBits_status listed, latchBits_keeps s.ao (countSource b p.src) p 1⟩
  · rw [exec_quietTimer, quietTimer]
    simp only [fault, beq_self_eq_true, if_true]
  · rw [exec_quietTimer, quietTimer]
    simp only [beq_iff_eq, calm, if_false]
    rw [s.after_self quiet]

/-! ### The queue of records (R426) -/

/-- Of two queued records that satisfy `p` the one of lower severity, the later of equals. -/
def lowerRec (p : Rec → Bool) (best : Option (Nat × Rec)) (e : Nat × Rec) : Option (Nat × Rec) :=
  if !p e.2 then best
  else match best with
    | none => some e
    | some f => if e.2.sev ≤ f.2.sev then some e else best

theorem lowerRec_cases (p : Rec → Bool) (best : Option (Nat × Rec)) (e : Nat × Rec) :
    lowerRec p best e = best ∨ lowerRec p best e = some e := by
  unfold lowerRec
  split
  · exact .inl rfl
  · split
    · exact .inr rfl
    · exact (ite_eq_or_eq ..).symm

theorem foldl_lowerRec_mem {p : Rec → Bool} (l : List (Nat × Rec)) {best : Option (Nat × Rec)} {e : Nat × Rec}
    (h : l.foldl (lowerRec p) best = some e) : e ∈ l ∨ best = some e := by
  induction l generalizing best with
  | nil => exact .inr h
  | cons x l ih =>
    rcases ih h with later | now
    · exact .inl (List.mem_cons_of_mem _ later)
    · rcases lowerRec_cases p best x with kept | taken
      · exact .inr (kept.symm.trans now)
      · exact .inl (Option.some.inj (taken.symm.trans now) ▸ List.mem_cons_self ..)

theorem lowestRec_lt {p : Rec → Bool} {q : List Rec} {i : Nat} {v : Rec} (h : lowestRec p q = some (i, v)) :
    i < q.length := by
  have found : ((List.range q.length).zip q).foldl (lowerRec p) none = some (i, v) := h
  rcases foldl_lowerRec_mem _ found with inQueue | none
  · exact List.mem_range.1 (List.of_mem_zip inQueue).1
  · exact absurd none (by simp)

/-- The queued record that makes room for a new one in a full queue, if one does (R426). -/
def victimFor (q : List Rec) (r : Rec) : Option (Nat × Rec) :=
  if r.kind = 1 then (lowestRec (fun q => q.kind != 1) q).or (lowestRec (fun _ => true) q)
  else (lowestRec (fun _ => true) q).filter fun e => decide (e.2.sev < r.sev)

theorem victimFor_lt {q : List Rec} {r v : Rec} {i : Nat} (h : victimFor q r = some (i, v)) : i < q.length := by
  unfold victimFor at h
  split at h
  · rcases Option.or_eq_some_iff.1 h with found | ⟨-, found⟩ <;> exact lowestRec_lt found
  · exact lowestRec_lt (Option.filter_eq_some_iff.1 h).1

theorem Faults.enqueue_room {f : Faults} (r : Rec) (room : f.queue.length < 64) :
    f.enqueue r = { f with queue := f.queue ++ [r] } := if_pos room

/-- In a full queue the new record is lost, or one that it displaces. -/
theorem Faults.enqueue_full {f : Faults} (r : Rec) (full : ¬ f.queue.length < 64) : f.enqueue r = f.lose r.sev ∨
    ∃ (i : Nat) (v : Rec), i < f.queue.length ∧ f.enqueue r = { f.lose v.sev with queue := f.queue.eraseIdx i ++ [r] } := by
  rw [Faults.enqueue, if_neg full]
  simp only [← victimFor.eq_def]
  cases victim : victimFor f.queue r with
  | none => exact .inl rfl
  | some e => exact .inr ⟨e.1, e.2, victimFor_lt victim, rfl⟩

theorem Faults.enqueue_bounded {f : Faults} (r : Rec) (bounded : f.queue.length ≤ 64) :
    (f.enqueue r).queue.length ≤ 64 := by
  by_cases room : f.queue.length < 64
  · rw [Faults.enqueue_room r room, List.length_append, List.length_singleton]
    exact room
  · rcases Faults.enqueue_full r room with lost | ⟨i, v, inQueue, displaced⟩
    · rw [lost]
      exact bounded
    · rw [displaced, List.length_append, List.length_eraseIdx_of_lt inQueue, List.length_singleton]
      omega

theorem Faults.enqueue_counts {f : Faults} (r : Rec) (full : f.queue.length = 64) : (f.enqueue r).hadLoss = true := by
  rcases Faults.enqueue_full (f := f) r (by omega) with lost | ⟨i, v, -, displaced⟩
  · rw [lost]
    rfl
  · rw [displaced]
    rfl

theorem Faults.note_bounded {f : Faults} (r : Rec) (bounded : f.queue.length ≤ 64) : (f.note r).queue.length ≤ 64 := by
  unfold Faults.note
  dsimp only
  split
  · rwa [List.length_map]
  · refine Faults.enqueue_bounded _ ?_
    split <;> exact bounded

theorem latchBits_bounded (ao : AO) {b : Block} (p : Pin) (sev : Nat) (bounded : b.flt.queue.length ≤ 64) :
    (latchBits ao b p sev).flt.queue.length ≤ 64 := Faults.note_bounded _ bounded

theorem latchPin_bounded (ao : AO) {b : Block} {p : Pin} (low : severityOf b p.src ≤ 2) (bounded : b.flt.queue.length ≤ 64) :
    (latchPin ao b p).flt.queue.length ≤ 64 := by
  rcases latchPin_low (ao := ao) low with counted | latched
  · rw [counted]
    exact bounded
  · rw [latched]
    exact latchBits_bounded ao p _ bounded

/-! ### The writer (R427) -/

theorem exec_recordWrite (ok : Bool) (s : State) : exec (.recordWrite ok) s = .next (s.after (recordWrite ok s.ao s.b)) := rfl

/-- The collector when a record has left its queue with the next sequence number. -/
def Faults.numbered (f : Faults) (r : Rec) (rest : List Rec) : Faults :=
  let g := { f with queue := rest, nextSeq := if f.nextSeq = 2 ^ 32 - 1 then 1 else f.nextSeq + 1 }
  if r.kind = 1 then { g with first := Tab.insert g.first r.src (r.bytes f.nextSeq) } else g

/-- The collector with the summary of what was lost, where one is due (R426). -/
def Faults.summarised (ao : AO) (f : Faults) : Faults :=
  if f.hadLoss && f.queue.length < 32 then
    { f with
      queue := f.queue ++ [{ time := ao.aotime.toNat, src := 0, kind := 2, sev := 0, unit := 0, status := 0, vi := 0
                             ctx := 0, pending := 0, detail := 0, lost := f.lost }]
      lost := List.replicate 8 0, hadLoss := false }
  else f

theorem popRecord_cons (ao : AO) {f : Faults} {r : Rec} {rest : List Rec} (queue : f.queue = r :: rest) :
    popRecord ao f = some (r, f.nextSeq, (f.numbered r rest).summarised ao) := by
  simp only [popRecord, queue, Faults.numbered, Faults.summarised]
  split <;> rfl

theorem Faults.numbered_keeps (f : Faults) (r : Rec) (rest : List Rec) :
    (f.numbered r rest).queue = rest ∧ (f.numbered r rest).ringOn = f.ringOn := by
  unfold Faults.numbered
  dsimp only
  split <;> exact ⟨rfl, rfl⟩

theorem Faults.summarised_keeps (ao : AO) (f : Faults) :
    (f.queue.length ≤ 63 → (f.summarised ao).queue.length ≤ 64) ∧ (f.summarised ao).ringOn = f.ringOn := by
  unfold Faults.summarised
  split
  · refine ⟨fun room => ?_, rfl⟩
    rw [List.length_append, List.length_singleton]
    omega
  · exact ⟨Nat.le_succ_of_le, rfl⟩

/-- The record that leaves makes room for the summary that may follow it; the ring stays on or off. -/
theorem popRecord_keeps {ao : AO} {f g : Faults} {r : Rec} {n : Nat} (popped : popRecord ao f = some (r, n, g)) :
    (f.queue.length ≤ 64 → g.queue.length ≤ 64) ∧ g.ringOn = f.ringOn := by
  cases queue : f.queue with
  | nil => simp [popRecord, queue] at popped
  | cons x rest =>
    rw [popRecord_cons ao queue] at popped
    obtain ⟨-, -, rfl⟩ : x = r ∧ f.nextSeq = n ∧ (f.numbered x rest).summarised ao = g := by simpa using popped
    obtain ⟨left, ring⟩ := f.numbered_keeps x rest
    obtain ⟨bounded, ring'⟩ := (f.numbered x rest).summarised_keeps ao
    rw [left] at bounded
    exact ⟨fun full => bounded (Nat.le_of_succ_le_succ full), ring'.trans ring⟩

section
variable {ao : AO} {b : Block} {r : Rec} {n : Nat} {f : Faults}

/-- The collector after a record has gone to the trace port, while that is on. -/
def traced (f : Faults) (d : Bytes) : Faults := if f.traceOn then { f with trace := d } else f

theorem traced_keeps (f : Faults) (d : Bytes) : (traced f d).queue = f.queue ∧ (traced f d).ringOn = f.ringOn := by
  unfold traced
  split <;> exact ⟨rfl, rfl⟩

theorem recordWrite_noRing (ok : Bool) (up : ctUp b = true) (popped : popRecord ao b.flt = some (r, n, f))
    (off : f.ringOn = false) : recordWrite ok ao b = { b with flt := traced f (r.bytes n) } := by
  have offTraced : (traced f (r.bytes n)).ringOn = false := (traced_keeps f _).2.trans off
  simp only [recordWrite, up, popped, ← traced.eq_def, offTraced, Bool.not_true, Bool.not_false, Bool.false_eq_true, if_false,
    if_true]

theorem recordWrite_written {b' : Block} (up : ctUp b = true) (popped : popRecord ao b.flt = some (r, n, f))
    (on : f.ringOn = true) (noTrace : f.traceOn = false) (written : ringWrite { b with flt := f } (r.bytes n) = .ok b') :
    recordWrite true ao b = { b' with flt := { b'.flt with ringIdx := (b'.flt.ringIdx + 1) % 4096 } } := by
  simp only [recordWrite, up, popped, noTrace, on, written, Bool.not_true, Bool.false_eq_true, if_false, if_true]

theorem recordWrite_failed (up : ctUp b = true) (popped : popRecord ao b.flt = some (r, n, f)) (on : f.ringOn = true)
    (noTrace : f.traceOn = false) : recordWrite false ao b =
      raise { b with flt := { f with ringOn := false } } 56 0 (status := .busRetryExhausted) (detail := ringAt f) := by
  simp only [recordWrite, up, popped, noTrace, on, Bool.not_true, Bool.false_eq_true, if_false]

/-- With the ring off a record that is written leaves the queue within its bound, and so does none. -/
theorem recordWrite_bounded (ok : Bool) (off : b.flt.ringOn = false) (bounded : b.flt.queue.length ≤ 64) :
    (recordWrite ok ao b).flt.queue.length ≤ 64 := by
  cases up : ctUp b with
  | false => rwa [recordWrite, up]
  | true =>
    cases popped : popRecord ao b.flt with
    | none => simpa only [recordWrite, up, popped, Bool.not_true, Bool.false_eq_true, if_false] using bounded
    | some e =>
      obtain ⟨r, n, f⟩ := e
      obtain ⟨shorter, ring⟩ := popRecord_keeps popped
      rw [recordWrite_noRing ok up popped (ring.trans off)]
      dsimp only
      rw [(traced_keeps f _).1]
      exact shorter bounded

end

/-- Settles O57: the bound by what enters and what leaves, a record written by whether the ring is on. -/
theorem recordQueueBounded : Obligations.RecordQueueBounded := by
  unfold Obligations.RecordQueueBounded
  refine ⟨fun f r bounded => ⟨Faults.enqueue_bounded r bounded, Faults.note_bounded r bounded, Faults.enqueue_counts r⟩,
    fun ao b p sev => latchBits_bounded ao p sev, fun ao f g r n popped => (popRecord_keeps popped).1,
    fun s p l up oldest low bounded => ⟨_, exec_detection .raised s, ?_⟩,
    fun s off bounded => ⟨_, exec_recordWrite true s, ?_⟩, fun s r n f up popped => ⟨fun off => ?_, fun b' on noTrace written => ?_,
      fun on noTrace => ⟨_, exec_recordWrite false s, ?_⟩⟩⟩
  · rw [State.after_flt, detection_oldest up oldest]
    exact latchPin_bounded s.ao low bounded
  · rw [State.after_flt]
    exact recordWrite_bounded true off bounded
  · rw [exec_recordWrite, recordWrite_noRing true up popped off]
    rfl
  · rw [exec_recordWrite, recordWrite_written up popped on noTrace written]
  · rw [State.after_flt, recordWrite_failed up popped on noTrace]
    exact ⟨rfl, _, rfl, rfl⟩

end Sys2Proof.Machine
end

section
/-! SUPPORT. Maintenance: scrub reads, cross-checks and probes (R422, R423, R459, R460). -/

namespace Sys2Proof.Machine

theorem exec_scrub (r w : Nat) (found : ScrubIn) (s : State) :
    exec (.scrub r w found) s = .next (s.after (scrub r w found s.b)) := rfl
theorem exec_crossCheck (c : CrossIn) (s : State) : exec (.crossCheck c) s = .next (s.after (crossCheck c s.b)) := rfl
theorem exec_crossCheckTimeout (q : Nat) (s : State) :
    exec (.crossCheckTimeout q) s = .next (s.after (crossTimeout q s.b)) := rfl
theorem exec_probe (r : Nat) (step : Int) (endStop : Bool) (s : State) :
    exec (.probe r step endStop) s = .next (s.after (probe r step endStop s.b)) := rfl

variable {b : Block}

/-! ### SCRUB (R422) -/

section
variable {r w : Nat} (region : r < 4) (word : w < bankUnits * 64) (up : quadUp b r = true)
include region word up

theorem scrub_read (found : ScrubIn) : scrub r w found b =
    if found == .uncorrectable || b.pal.badWords.contains (regionFirst r * 64 + w) then
      raise { b with pal := { b.pal with badWords := if b.pal.badWords.contains (regionFirst r * 64 + w) then b.pal.badWords
        else b.pal.badWords ++ [regionFirst r * 64 + w] } } (4 + r) r (status := .uncorrectable) (detail := 64 * w)
    else if found == .corrected then raise b 8 r (detail := 64 * w) else b :=
  if_neg (by simp [up, Nat.not_le.2 region, Nat.not_le.2 word])

variable (good : b.pal.badWords.contains (regionFirst r * 64 + w) = false)
include good

theorem scrub_corrected : scrub r w .corrected b = raise b 8 r (detail := 64 * w) := by
  rw [scrub_read region word up, good]
  rfl

theorem scrub_uncorrectable : scrub r w .uncorrectable b =
    raise { b with pal := { b.pal with badWords := b.pal.badWords ++ [regionFirst r * 64 + w] } } (4 + r) r
      (status := .uncorrectable) (detail := 64 * w) := by
  rw [scrub_read region word up, good]
  rfl

end

/-! ### CROSS_CHECK (R423) -/

theorem crossCheck_lanes {x y dx dy : Nat} (other : x ≠ y) (quad : quadOfLane x = quadOfLane y) (hx : idleLane b x = true)
    (hy : idleLane b y = true) (disagree : dx ≠ dy) (free : b.flt.cross.get none (quadOfLane x) = none) :
    crossCheck (.lanes x y dx dy) b = setCross b (quadOfLane x) (some (x, y, dx, dy)) :=
  if_neg (by rw [free, hx, hy]; simp [other, quad, disagree])

section
variable {q x y d e z : Nat} (waits : b.flt.cross.get none q = some (x, y, d, e)) (notX : z ≠ x) (notY : z ≠ y)
  (quad : quadOfLane z = q) (idle : idleLane b z = true) (disagree : d ≠ e)
include waits notX notY quad idle disagree

/-- The third lane agrees with the first: the second is charged. -/
theorem crossCheck_third_first : crossCheck (.third q z d) b = chargeLane (setCross b q none) y := by
  simp [crossCheck, waits, notX, notY, quad, idle, disagree.symm]

/-- The third lane agrees with the second: the first is charged. -/
theorem crossCheck_third_second : crossCheck (.third q z e) b = chargeLane (setCross b q none) x := by
  simp [crossCheck, waits, notX, notY, quad, idle, disagree]

end

theorem crossCheck_cores {x y dx dy : Nat} (other : x ≠ y) (coreX : x < 192) (coreY : y < 192) (quad : x / 48 = y / 48)
    (hx : idleCore b x = true) (hy : idleCore b y = true) (disagree : dx ≠ dy) :
    crossCheck (.cores x y dx dy) b = raise (raise b 30 x) 30 y :=
  if_neg (by simp [other, Nat.not_le.2 coreX, Nat.not_le.2 coreY, quad, hx, hy, disagree])

theorem crossTimeout_both {q x y d e : Nat} (waits : b.flt.cross.get none q = some (x, y, d, e)) :
    crossTimeout q b = chargeLane (chargeLane (setCross b q none) x) y := by
  simp only [crossTimeout, waits]

/-! ### PROBE (R459, R460) -/

/-- A receiver whose tap a probe has moved one step up to its end stop. -/
def Xing.stepUp (x : Xing) : Xing :=
  { tap := (x.tap + 1) % 256, moved := true, ivl := if x.moved then max 10 (x.ivl - 1) else x.ivl
    probes := (x.probes + 1) % 256, stop := true }

/-- The pin that a probe may raise is none of the crossings. -/
theorem probe_xing {r : Nat} (receiver : r < 148) :
    (probe r 1 true b).xing = b.xing.put {} r (b.xing.get {} r).stepUp := by
  have stepped : (probe r 1 true b).xing = b.xing.put {} r
      { (b.xing.get {} r).stepUp with stop := (b.xing.get {} r).stop || true } := by
    rw [probe, if_neg (Nat.not_le.2 receiver)]
    dsimp only
    split <;> rfl
  rw [stepped, Bool.or_true]
  rfl

/-- Settles O59: a scrub by what the word reads as, a cross-check by what its lanes find, a probe by the crossing it leaves. -/
theorem maintenance : Obligations.Maintenance := by
  unfold Obligations.Maintenance
  refine fun s => ⟨fun r w region word up good => ⟨?_, ?_⟩, fun x y dx dy other quad hx hy disagree free => ?_,
    fun q x y d e z waits notX notY quad idle disagree => ⟨?_, ?_⟩,
    fun x y dx dy other coreX coreY quad hx hy disagree => ?_, fun q x y d e waits => ?_,
    fun r receiver => ⟨_, exec_probe r 1 true s, ?_⟩⟩
  · rw [exec_scrub, scrub_corrected region word up good]
  · rw [exec_scrub, scrub_uncorrectable region word up good]
  · rw [exec_crossCheck, crossCheck_lanes other quad hx hy disagree free]
  · rw [exec_crossCheck, crossCheck_third_first waits notX notY quad idle disagree]
  · rw [exec_crossCheck, crossCheck_third_second waits notX notY quad idle disagree]
  · rw [exec_crossCheck, crossCheck_cores other coreX coreY quad hx hy disagree]
  · rw [exec_crossCheckTimeout, crossTimeout_both waits]
  · rw [State.after_xing, probe_xing receiver, Tab.get_put_same]
    exact ⟨rfl, rfl, fun q other => Tab.get_put_other _ _ _ other⟩

end Sys2Proof.Machine
end

section
/-! SUPPORT. The programming of an OTP generation (R442 to R445). -/

namespace Sys2Proof.Machine

theorem exec_otpPgo (w : CtlWrite) (s : State) :
    exec (.otpPgo w) s = .next (s.after (access 0x108 w (otpGo w) s.ao s.b)) := rfl
theorem exec_otpProgramDone (ok : Bool) (s : State) :
    exec (.otpProgramDone ok) s = .next (s.after (otpDone ok s.b)) := rfl

/-! ### OTP_PGO (R442, R443) -/

section
variable {ao : AO} {b : Block} {w : CtlWrite}

/-- The generation a job takes: the lowest unprogrammed one of the record (R442). -/
def lowestGen (ao : AO) (code n : Nat) : Nat :=
  (([0, 1, 2, 3].find? fun g => !otpProgrammed ao.shadow (genWord code g) n)).getD 0

/-- The words a job programs: the body and its CRC (R438). -/
def genWords (b : Block) (n body : Nat) : List Nat :=
  chunksLe 4 (n - 1) ((otpBufBytes b).take body) ++ [Crypto.crc32 ((otpBufBytes b).take body)]

/-- The block with a programming job under way. -/
def withJob (b : Block) (code g : Nat) (ws : List Nat) : Block :=
  { b with regs := { b.regs with otpDone := false, otpFail := false, otpCode := 0, otpBusy := true
                                 otpJob := some (code, g, ws) } }

variable (idle : b.regs.otpBusy = false) (go : wSets w 0 = true)
include idle go

theorem otpGo_begins {n body : Nat} (checked : otpCheck ao b b.regs.otpPrec.toNat = .ok (n, body)) : otpGo w ao b =
    .ok (withJob b b.regs.otpPrec.toNat (lowestGen ao b.regs.otpPrec.toNat n) (genWords b n body)) := by
  simp only [otpGo, idle, go, checked, Bool.not_true, Bool.or_self, Bool.false_eq_true, if_false]
  rfl

theorem otpGo_fails {st : Status} (failed : otpCheck ao b b.regs.otpPrec.toNat = .error st) : otpGo w ao b =
    .ok { b with regs := { b.regs with otpDone := true, otpFail := true, otpCode := st.code } } := by
  simp only [otpGo, idle, go, failed, Bool.not_true, Bool.or_self, Bool.false_eq_true, if_false]

end

/-! ### OTP_PROGRAM_DONE (R444) -/

/-- Fuses asked for one after the other wait for AO in that order; nothing else changes. -/
theorem foldl_toAo_fuse (l : List Nat) (b : Block) :
    l.foldl (fun b i => toAo b (.fuse i)) b = { b with ev := b.ev ++ l.map .fuse } := by
  induction l generalizing b with
  | nil => simp
  | cons i l ih =>
    rw [List.foldl_cons, ih, toAo]
    simp

theorem AO.apply_shadow (a : AO) (e : AoEvent) {i : Nat} (h : a.shadow.contains i = true) :
    (a.apply e).shadow.contains i = true := by
  cases e with
  | fuse j => exact fuseSet_mem _ _ _ h
  | violation off vi st => dsimp only [AO.apply]; split <;> exact h
  | security => exact h
  | zeroised => exact h
  | tampered => exact h

/-- A bit whose programming is among the control events is programmed and shown when AO has taken them. -/
theorem AO.foldl_apply_fused {i : Nat} (l : List AoEvent) (a : AO)
    (asked : .fuse i ∈ l ∨ a.fuses.contains i = true ∧ a.shadow.contains i = true) :
    (l.foldl AO.apply a).fuses.contains i = true ∧ (l.foldl AO.apply a).shadow.contains i = true := by
  induction l generalizing a with
  | nil => simpa using asked
  | cons e l ih =>
    refine ih _ ?_
    rcases asked with asked | ⟨programmed, shown⟩
    · rcases List.mem_cons.1 asked with rfl | later
      · exact .inr ⟨(fuseSet_new _ _ _).2 (.inr rfl), (fuseSet_new _ _ _).2 (.inr rfl)⟩
      · exact .inl later
    · exact .inr ⟨a.apply_fuses e i programmed, a.apply_shadow e shown⟩

section
variable {b : Block} {code g : Nat} {ws : List Nat} (job : b.regs.otpJob = some (code, g, ws))
include job

theorem otpDone_good : otpDone true b = { b with
    ev := b.ev ++ (bitsFrom (genWord code g) ws).map .fuse
    regs := { b.regs with otpJob := none, otpBusy := false, otpDone := true, otpFail := false, otpGen := g, otpCode := 0 } } := by
  simp only [otpDone, job, foldl_toAo_fuse, if_true]

/-- A job cut short is over (R444). -/
theorem cutJob_regs : (cutJob b).regs = { b.regs with otpJob := none, otpBusy := false } := by
  simp only [cutJob, job, foldl_toAo_fuse]

theorem otpDone_bad : (otpDone false b).regs = { b.regs with
    otpJob := none, otpBusy := false, otpDone := true, otpFail := true, otpGen := g
    otpCode := Status.uncorrectable.code } := by
  simp only [otpDone, job, Bool.false_eq_true, if_false, cutJob_regs job]

end

/-- Settles O34: OTP_PGO by what its checks answer, the end of a job by whether it read back right. -/
theorem otpProgramming : Obligations.OtpProgramming := by
  unfold Obligations.OtpProgramming
  refine fun s => ⟨fun w n body up vi admitted idle go checked => ?_, fun w st up vi admitted idle go failed => ?_,
    fun code g ws job => ⟨⟨_, exec_otpProgramDone true s, ?_⟩, ⟨_, exec_otpProgramDone false s, ?_⟩⟩⟩
  · refine ⟨_, lowestGen s.ao s.b.regs.otpPrec.toNat n, genWords s.b n body, exec_otpPgo w s, ?_⟩
    rw [access_taken up rfl (by decide) vi admitted (otpGo_begins idle go checked)]
    exact ⟨rfl, rfl, rfl, rfl, rfl, rfl⟩
  · rw [exec_otpPgo, access_taken up rfl (by decide) vi admitted (otpGo_fails idle go failed)]
  · rw [otpDone_good job]
    refine ⟨rfl, rfl, rfl, rfl, rfl, fun i programmed => ?_⟩
    exact AO.foldl_apply_fused _ _ (.inl (List.mem_append_right _ (List.mem_map_of_mem programmed)))
  · rw [State.after_regs, otpDone_bad job]
    exact ⟨rfl, rfl, rfl, rfl, rfl⟩

end Sys2Proof.Machine
end

section
/-! SUPPORT. The control port: what the map denies a VI (R430, R431), the global registers and the debug window (R416, R435,
R446 to R449). -/

namespace Sys2Proof.Machine

/-! ### What the map denies a VI (R54, R430, R431) -/

section
variable {ao : AO} {b : Block} {a : Nat}

theorem legal_strb {w : CtlWrite} (legal : w.strb = 0x0F ∨ w.strb = 0xF0 ∨ w.strb = 0xFF) :
    (w.strb != 0x0F && w.strb != 0xF0 && w.strb != 0xFF) = false := by
  rcases legal with strb | strb | strb <;> rw [strb] <;> rfl

theorem bellOwned_not {vi i : Nat} (h : (b.sq i).usable = false ∨ (b.sq i).vi ≠ vi) : bellOwned b vi i = false := by
  rcases h with h | h <;> simp [bellOwned, h]

/-- The table of R430 denies the issuing VI a write of the register at `a`. -/
def WriteNotAdmitted (b : Block) (a : Nat) (w : CtlWrite) : Prop :=
  (w.vi ≠ 0 ∧ (a < 0x400 ∨ inPriv a = true ∨ inDebug a = true)) ∨ (inMbox a = true ∧ (a - 0x40000) / 256 ≠ w.vi) ∨
    (inBell a = true ∧ ∃ e ∈ wBells w a, (b.sq e.1).usable = false ∨ (b.sq e.1).vi ≠ w.vi)

theorem portCheck_notAdmitted {w : CtlWrite} (served : portClosed b a w = false)
    (legal : w.strb = 0x0F ∨ w.strb = 0xF0 ∨ w.strb = 0xFF) (h : WriteNotAdmitted b a w) :
    portCheck ao b a w = some .permission := by
  rw [portCheck, if_neg (by simp [served]), if_neg (Bool.eq_false_iff.1 (legal_strb legal))]
  rcases h with ⟨tenant, global | priv | dbg⟩ | ⟨mbox, other⟩ | ⟨bell, e, rung, other⟩
  · have range : a < globalEnd ∨ inOtp a = true := by
      simp only [globalEnd, inOtp, Bool.and_eq_true, decide_eq_true_eq]
      omega
    rcases range with range | range <;> simp [tenant, range]
  · simp [tenant, priv]
  · simp [tenant, dbg]
  · simp [mbox, other]
  · have unowned : (wBells w a).any (fun e => !bellOwned b w.vi e.1) = true :=
      List.any_eq_true.2 ⟨e, rung, by simp [bellOwned_not other]⟩
    simp [bell, unowned]

/-- The table of R430 denies VI `vi` a read of the register at `a`. -/
def ReadNotAdmitted (b : Block) (a vi : Nat) : Prop :=
  (vi ≠ 0 ∧ (inPriv a = true ∨ inOtp a = true ∨ inDebug a = true)) ∨ (inMbox a = true ∧ (a - 0x40000) / 256 ≠ vi) ∨
    (inBell a = true ∧ ∃ i, (i = (a - 0x10000) / 4 ∨ i = (a - 0x10000) / 4 + 1) ∧
      ((b.sq i).usable = false ∨ (b.sq i).vi ≠ vi))

theorem readCheck_notAdmitted {vi : Nat} (served : readClosed b a vi = false) (h : ReadNotAdmitted b a vi) :
    readCheck ao b a vi = some .permission := by
  rw [readCheck, if_neg (by simp [served])]
  rcases h with ⟨tenant, range⟩ | ⟨mbox, other⟩ | ⟨bell, i, rung, other⟩
  · have range : (inPriv a || inOtp a || inDebug a) = true := by simpa [or_assoc] using range
    simp [tenant, range]
  · simp [mbox, other]
  · have unowned := bellOwned_not other
    rcases rung with rfl | rfl <;> simp [bell, unowned]

theorem portRead_refused {vi : Nat} {st : Status} (refused : readCheck ao b a vi = some st) :
    portRead ao b a vi = .error st := by
  simp [portRead, refused]

end

/-- Settles O29: a write by the checks of R54 before its register's own, a read by its own checks. -/
theorem accessRefusedByInstance : Obligations.AccessRefusedByInstance := by
  unfold Obligations.AccessRefusedByInstance
  refine ⟨fun ao b a w k up aligned mapped vi served legal notAdmitted => ?_, fun ao b a vi served notAdmitted => ?_⟩
  · exact access_refused up aligned mapped vi (portCheck_notAdmitted served legal notAdmitted)
  · exact portRead_refused (readCheck_notAdmitted served notAdmitted)

/-! ### FLT_STATUS, HOSTCFG and the debug window (R416, R435, R446, R447) -/

theorem exec_fltStatus (w : CtlWrite) (s : State) :
    exec (.fltStatus w) s = .next (s.after (access 0x50 w (fltStatusWrite w) s.ao s.b)) := rfl
theorem exec_hostcfg (w : CtlWrite) (s : State) :
    exec (.hostcfg w) s = .next (s.after (access 0x40 w (hostcfgWrite w) s.ao s.b)) := rfl
theorem exec_close (w : CtlWrite) (s : State) : exec (.close w) s =
    .next (s.after (access 0x80000 w (fun _ b => .ok (if wSets w 0 then closeWindow b else b)) s.ao s.b)) := rfl
theorem exec_debugUnlockExpiry (s : State) : exec .debugUnlockExpiry s =
    .next (s.after (if s.b.regs.dbgUnlocked && s.b.regs.dbgUntil.isSome then closeWindow s.b else s.b)) := rfl

/-- A locked HOSTCFG refuses its officer's write (R435). -/
theorem portCheck_locked {ao : AO} {b : Block} {w : CtlWrite} (served : portClosed b 0x40 w = false) (host : w.vi = 0)
    (whole : w.strb = 0xFF) (lock : b.regs.hostcfg.getLsbD 63 = true) : portCheck ao b 0x40 w = some .locked := by
  have ranges : inMbox 0x40 = false ∧ inBell 0x40 = false ∧ inPriv 0x40 = false ∧ inDebug 0x40 = false := by decide
  obtain ⟨mbox, bell, priv, dbg⟩ := ranges
  rw [portCheck, if_neg (by simp [served]), if_neg (Bool.eq_false_iff.1 (legal_strb (.inr (.inr whole))))]
  simp [mbox, bell, priv, dbg, host, lock]

/-! ### DBG_PCMD and DBG_ATL (R448, R449) -/

theorem exec_dbgPcmdRead (w : CtlWrite) (s : State) :
    exec (.dbgPcmdRead w) s = .next (s.after (access 0x88008 w (dbgCmd dbgRead 0 w) s.ao s.b)) := rfl
theorem exec_dbgPcmdWrite (w : CtlWrite) (s : State) :
    exec (.dbgPcmdWrite w) s = .next (s.after (access 0x88008 w (dbgCmd dbgWrite 1 w) s.ao s.b)) := rfl
theorem exec_dbgAtlHalt (w : CtlWrite) (s : State) : exec (.dbgAtlHalt w) s =
    .next (s.after (access 0x88100 w (fun _ b => .ok { b with regs := { b.regs with
      atlHalt := if w.strb.getLsbD 0 then w.data.getLsbD 0 else b.regs.atlHalt } }) s.ao s.b)) := rfl

section
variable {ao : AO} {b : Block} {f : Block → Nat → Block} {i : Nat} {w : CtlWrite} (asked : wSets w i = true)
include asked

theorem dbgCmd_word {o : Nat} (word : dbgWord b = some o) : dbgCmd f i w ao b = .ok (f b o) := by
  simp [dbgCmd, asked, word]

theorem dbgCmd_noWord (none : dbgWord b = none) : dbgCmd f i w ao b = .error .bounds := by
  simp [dbgCmd, asked, none]

end

section
variable {b : Block} {o : Nat}

theorem palRaise_good {n vi ctx : Nat} (good : badIn b o n = false) : palRaise b o n vi ctx = b :=
  if_neg (by simp [good])

theorem palRaise_bad {n vi ctx : Nat} (bad : badIn b o n = true) : palRaise b o n vi ctx =
    raise b (palSource o) (regionOf (o / 4096)) (if 5 ≤ severityOf b (palSource o) then .uncorrectable else .ok) vi ctx o :=
  if_pos bad

/-- The eight registers of DBG_PDATA with a word's bytes. -/
def withPdata (b : Block) (d : Bytes) : Block :=
  { b with regs := { b.regs with dbgPdata := (List.range 8).foldl (fun t i => Tab.put 0 t i (fieldAt d (8 * i) 8)) [] } }

theorem dbgRead_data (data : badIn b o 64 = false ∨ severityOf b (palSource o) < 5) :
    dbgRead b o = withPdata (palRaise b o 64 256 256) (palRead b o 64) := by
  have reads : palGet b o 64 = .ok (palRead b o 64) := if_neg (by
    rcases data with good | low
    · simp [good]
    · simp [Nat.not_le.2 low])
  simp only [dbgRead, palReadChk, reads]
  rfl

theorem dbgRead_noData (bad : badIn b o 64 = true) (high : 5 ≤ severityOf b (palSource o)) :
    dbgRead b o = raise b (palSource o) (regionOf (o / 4096)) (status := .uncorrectable) (detail := o) := by
  have fails : palGet b o 64 = .error .uncorrectable := if_pos (by simp [bad, high])
  simp only [dbgRead, palReadChk, fails, palRaise_bad bad, high, if_true]

end

/-- Settles O32: each register by the access that takes or refuses its write; a debug read by how its word reads. -/
theorem globalAndDebugRegisters : Obligations.GlobalAndDebugRegisters := by
  unfold Obligations.GlobalAndDebugRegisters
  refine ⟨fun s w up vi => ⟨fun admitted => ?_, fun admitted => ?_, fun served host whole lock => ?_,
      fun admitted asked => ?_, fun unlocked timed => ?_⟩,
    fun s w up vi => ⟨fun o admitted word => ⟨fun asked good => ?_, fun asked bad high => ?_, fun asked bad low => ?_,
      fun asked => ?_⟩, fun admitted noWord asked => ?_, fun admitted strobed => ?_⟩⟩
  · rw [exec_fltStatus, access_taken up rfl (by decide) vi admitted rfl]
  · rw [exec_hostcfg, access_taken up rfl (by decide) vi admitted rfl]
  · rw [exec_hostcfg, access_refused up rfl (by decide) vi (portCheck_locked served host whole lock)]
  · rw [exec_close, access_taken up rfl (by decide) vi admitted rfl, if_pos asked]
  · rw [exec_debugUnlockExpiry, unlocked, timed]
    rfl
  · rw [exec_dbgPcmdRead, access_taken up rfl (by decide) vi admitted (dbgCmd_word asked word), dbgRead_data (.inl good),
      palRaise_good good]
    rfl
  · rw [exec_dbgPcmdRead, access_taken up rfl (by decide) vi admitted (dbgCmd_word asked word), dbgRead_noData bad high]
  · rw [exec_dbgPcmdRead, access_taken up rfl (by decide) vi admitted (dbgCmd_word asked word), dbgRead_data (.inr low),
      palRaise_bad bad, if_neg (Nat.not_le.2 low)]
    rfl
  · rw [exec_dbgPcmdWrite, access_taken up rfl (by decide) vi admitted (dbgCmd_word asked word)]
    rfl
  · rw [exec_dbgPcmdRead, access_error up rfl (by decide) vi admitted (dbgCmd_noWord asked noWord)]
  · rw [exec_dbgAtlHalt, access_taken up rfl (by decide) vi admitted rfl, strobed]
    rfl

end Sys2Proof.Machine
end

section
/-! SUPPORT. Keys, the identity certificate and ATTEST (R386 to R388, R392, R403): the outcome of each handler. -/

namespace Sys2Proof.Machine

section
variable {ao : AO} {b : Block} {c : Bytes} {r : Reply} {i : Nat}

/-! ### KEY_GENERATE, KEY_IMPORT and KEY_DESTROY (R386 to R388) -/

section
variable (passed : check0 b c r .tenant [] true = none) (free : freeKey b r.vi = some i)
include passed free

theorem cmdKeyGenerate_fills (halves : (drbg b 64).1.take 32 ≠ (drbg b 64).1.drop 32) :
    cmdKeyGenerate ao b c r = (fillKey (drbg b 64).2 i r.vi (drbg b 64).1 false, .now .ok i 0) := by
  refine (guarded_passed passed).trans ?_
  simp only [free, if_neg halves]

theorem cmdKeyGenerate_redraws (halves : (drbg b 64).1.take 32 = (drbg b 64).1.drop 32) :
    cmdKeyGenerate ao b c r = ((drbg b 64).2, .redraw) := by
  refine (guarded_passed passed).trans ?_
  simp only [free, if_pos halves]

end

/-- What is drawn is used up though the command waits at its source (R388). -/
theorem exec_row_redraw {i : Instr} {op : Nat} {k : Cmd} {src : CmdSrc} {s : State} {b kept b2 : Block} {c : Bytes} {r : Reply}
    (row : exec i s = lift (serveRow op k src) s) (taken : fetch s.b src op = .command b c r kept)
    (done : k s.ao b c r = (b2, .redraw)) : exec i s = .next (s.after { kept with sec := b2.sec, free := b2.free }) := by
  rw [row, lift_eq, serveRow]
  simp only [taken, done]

section
variable {d : Bytes} (passed : check0 b c r .tenant [(16, 23)] true = none) (free : freeKey b r.vi = some i)
  (read : readVa b r.vi clsControl (fieldAt c 16 8) 1648 = .ok d)
include passed free read

theorem cmdKeyImport_fills {k : Bytes} (unwrapped : unwrapKey (palNote b r.vi (fieldAt c 16 8) 1648) r.vi d = .ok k) :
    cmdKeyImport ao b c r = (fillKey (palNote b r.vi (fieldAt c 16 8) 1648) i r.vi k true, .now .ok i 0) := by
  refine (guarded_passed passed).trans ?_
  simp only [free, read, unwrapped]

theorem cmdKeyImport_refuses {st : Status} (unwrapped : unwrapKey (palNote b r.vi (fieldAt c 16 8) 1648) r.vi d = .error st) :
    cmdKeyImport ao b c r = (palNote b r.vi (fieldAt c 16 8) 1648, .now st 0 0) := by
  refine (guarded_passed passed).trans ?_
  simp only [free, read, unwrapped]

end

/-! ### IDENT_CERT_LOAD (R392) -/

section
variable {d : Bytes} (passed : check0 b c r .vi0 [(16, 23)] true = none)
  (read : readVa b r.vi clsControl (fieldAt c 16 8) 4675 = .ok d)
include passed read

/-- What becomes of a certificate that has been read. -/
theorem cmdIdentCertLoad_read : cmdIdentCertLoad ao b c r =
    (let b := palNote b r.vi (fieldAt c 16 8) 4675
     if b.sec.identPub.isEmpty || !certSigned b d b.sec.identPub then (b, .now .digestMismatch 0 0)
     else if fieldAt d 4 2 ≠ b.setup.chipId then (b, .now .route 0 0)
     else ((List.range 8).foldl (startSession ao) { b with sec := { b.sec with cert := some d } }, .now .ok 0 0)) := by
  refine (guarded_passed passed).trans ?_
  simp only [read]

theorem cmdIdentCertLoad_unsigned (bad : (palNote b r.vi (fieldAt c 16 8) 4675).sec.identPub = [] ∨
      certSigned (palNote b r.vi (fieldAt c 16 8) 4675) d (palNote b r.vi (fieldAt c 16 8) 4675).sec.identPub = false) :
    cmdIdentCertLoad ao b c r = (palNote b r.vi (fieldAt c 16 8) 4675, .now .digestMismatch 0 0) := by
  rw [cmdIdentCertLoad_read passed read]
  exact if_pos (by rcases bad with none | unsigned <;> simp [*])

variable (key : (palNote b r.vi (fieldAt c 16 8) 4675).sec.identPub ≠ [])
  (signed : certSigned (palNote b r.vi (fieldAt c 16 8) 4675) d (palNote b r.vi (fieldAt c 16 8) 4675).sec.identPub = true)
include key signed

theorem cmdIdentCertLoad_otherChip (other : fieldAt d 4 2 ≠ (palNote b r.vi (fieldAt c 16 8) 4675).setup.chipId) :
    cmdIdentCertLoad ao b c r = (palNote b r.vi (fieldAt c 16 8) 4675, .now .route 0 0) := by
  rw [cmdIdentCertLoad_read passed read]
  exact (if_neg (by simp [key, signed])).trans (if_pos other)

theorem cmdIdentCertLoad_takes (this : fieldAt d 4 2 = (palNote b r.vi (fieldAt c 16 8) 4675).setup.chipId) :
    cmdIdentCertLoad ao b c r = ((List.range 8).foldl (startSession ao) { palNote b r.vi (fieldAt c 16 8) 4675 with
      sec := { (palNote b r.vi (fieldAt c 16 8) 4675).sec with cert := some d } }, .now .ok 0 0) := by
  rw [cmdIdentCertLoad_read passed read]
  exact (if_neg (by simp [key, signed])).trans (if_neg (not_not.2 this))

end

/-! ### ATTEST (R403) -/

/-- The report of R403 with its signature, over the block in which the signature's randomness is drawn. -/
def signedReport (ao : AO) (b : Block) (vi : Nat) (nonce : Bytes) : Bytes :=
  report ao (drbg b 32).2 vi nonce ++
    sliceAt (Config.mldsaSign (drbg b 32).2.sec.identPriv (report ao (drbg b 32).2 vi nonce) (drbg b 32).1) 0 4627

theorem cmdAttest_written {b' : Block} (serves : inService ao = true) (passed : check0 b c r .any [(16, 55)] true = none)
    (written : writeVa (drbg b 32).2 r.vi clsControl (fieldAt c 48 8) (signedReport ao b r.vi (sliceAt c 16 32)) = .ok b') :
    cmdAttest ao b c r = (b', .now .ok (signedReport ao b r.vi (sliceAt c 16 32)).length 0) :=
  ((guarded_passed (if_pos serves)).trans (guarded_passed passed)).trans (writeRecord_written written)

end

/-- Settles O46: each command by the outcome of its handler. -/
theorem keysAndIdentity : Obligations.KeysAndIdentity := by
  unfold Obligations.KeysAndIdentity
  refine fun s src b kept c r => ⟨fun i taken passed free => ⟨fun halves => ?_, fun halves => ?_⟩,
    fun i d taken passed free read => ?_, fun taken passed => ?_,
    fun d taken passed read => ⟨fun bad => ?_, fun key signed other => ?_, fun key signed this => ?_⟩,
    fun b' taken serves passed written => ?_⟩
  · exact exec_row_now rfl taken (cmdKeyGenerate_fills passed free halves)
  · exact exec_row_redraw rfl taken (cmdKeyGenerate_redraws passed free halves)
  · cases unwrapped : unwrapKey (palNote b r.vi (fieldAt c 16 8) 1648) r.vi d with
    | ok k =>
      simp only [unwrapped]
      exact exec_row_now rfl taken (cmdKeyImport_fills passed free read unwrapped)
    | error st =>
      simp only [unwrapped]
      exact exec_row_now rfl taken (cmdKeyImport_refuses passed free read unwrapped)
  · exact exec_row_later (k := cmdKeyDestroy) rfl taken (guarded_passed passed)
  · exact exec_row_now rfl taken (cmdIdentCertLoad_unsigned passed read bad)
  · exact exec_row_now rfl taken (cmdIdentCertLoad_otherChip passed read key signed other)
  · exact exec_row_now rfl taken (cmdIdentCertLoad_takes passed read key signed this)
  · exact exec_row_now rfl taken (cmdAttest_written serves passed written)

end Sys2Proof.Machine
end

section
/-! SUPPORT. The block in reset, before its first start (R33, R64, R65, R411, R450). -/

namespace Sys2Proof.Machine

/-- Settles O3: every table of the reset state is empty, so each field reads as its default. -/
theorem resetState : Obligations.ResetState := by
  unfold Obligations.ResetState
  exact ⟨⟨rfl, rfl, rfl, fun _ => rfl, rfl, fun _ => ⟨rfl, rfl, rfl⟩, fun _ => rfl, fun _ => rfl, fun _ => ⟨rfl, rfl⟩,
    fun _ => rfl, rfl, rfl, rfl, reset_mem_wf, reset_pal_wf⟩, fun _ shown => shown⟩

end Sys2Proof.Machine
end

section
/-! SUPPORT. Credits returned to a memory channel (R38). -/

namespace Sys2Proof.Machine

theorem exec_mcReadCredit (n : Nat) (s : State) : exec (.mcReadCredit n) s = .next (s.after (readCredit n s.b)) := rfl
theorem exec_mcWriteCredit (n : Nat) (s : State) : exec (.mcWriteCredit n) s = .next (s.after (writeCredit n s.b)) := rfl

section
variable {b : Block} {n : Nat}

/-- A channel that is not up takes no credit. -/
theorem credits_down (down : chanUp b n = false) : readCredit n b = b ∧ writeCredit n b = b :=
  ⟨if_pos (by simp [down]), if_pos (by simp [down])⟩

variable (up : chanUp b n = true)
include up

theorem readCredit_up : readCredit n b = if (b.chan n).rcred = 255 then raise b 37 n
    else b.setChan n { b.chan n with rcred := (b.chan n).rcred + 1 } := if_neg (by simp [up])

theorem writeCredit_up : writeCredit n b = if (b.chan n).wcred = 255 then raise b 37 n
    else b.setChan n { b.chan n with wcred := (b.chan n).wcred + 1 } := if_neg (by simp [up])

end

/-! ### The bound of the counters -/

/-- Every credit counter of every channel is at 255 or less (R38). -/
def CreditsBounded (b : Block) : Prop := ∀ m, (b.chan m).rcred ≤ 255 ∧ (b.chan m).wcred ≤ 255

section
variable {b : Block} (bounded : CreditsBounded b) (n : Nat)
include bounded

theorem CreditsBounded.setChan {c : Chan} (bound : c.rcred ≤ 255 ∧ c.wcred ≤ 255) : CreditsBounded (b.setChan n c) := by
  intro m
  by_cases same : m = n
  · rw [same, Block.setChan_chan]
    exact bound
  · rw [Block.setChan_chan_other _ _ _ _ same]
    exact bounded m

theorem CreditsBounded.readCredit : CreditsBounded (readCredit n b) := by
  obtain ⟨hr, hw⟩ := bounded n
  cases up : chanUp b n with
  | false => rwa [(credits_down up).1]
  | true =>
    rw [readCredit_up up]
    split
    · exact bounded
    · exact bounded.setChan n ⟨by simp only; omega, hw⟩

theorem CreditsBounded.writeCredit : CreditsBounded (writeCredit n b) := by
  obtain ⟨hr, hw⟩ := bounded n
  cases up : chanUp b n with
  | false => rwa [(credits_down up).2]
  | true =>
    rw [writeCredit_up up]
    split
    · exact bounded
    · exact bounded.setChan n ⟨hr, by simp only; omega⟩

end

/-- Settles O13: a credit by whether the channel is up and its counter at 255. -/
theorem creditsReturned : Obligations.CreditsReturned := by
  unfold Obligations.CreditsReturned
  refine ⟨fun s n down => ?_, fun s t n bounded row => ?_, fun s n up => ⟨fun room => ?_, fun room => ?_, fun full => ?_,
    fun full => ?_⟩⟩
  · rw [exec_mcReadCredit, exec_mcWriteCredit, (credits_down down).1, (credits_down down).2]
    exact ⟨rfl, rfl⟩
  · rcases row with row | row
    · cases row
      exact CreditsBounded.readCredit bounded n
    · cases row
      exact CreditsBounded.writeCredit bounded n
  · rw [exec_mcReadCredit, readCredit_up up, if_neg room]
  · rw [exec_mcWriteCredit, writeCredit_up up, if_neg room]
  · rw [exec_mcReadCredit, readCredit_up up, if_pos full]
  · rw [exec_mcWriteCredit, writeCredit_up up, if_pos full]

end Sys2Proof.Machine
end

section
/-! SUPPORT. Responses of a memory channel and tags that time out (R41, R42): one equation per row of R41. -/

namespace Sys2Proof.Machine

theorem exec_mcReadResponse (n tag resp : Nat) (data : Bytes) (par : List Bool) (chk : Bytes) (s : State) :
    exec (.mcReadResponse n tag resp data par chk) s = .next (s.after (readResponse n tag resp data par chk s.b)) := rfl
theorem exec_mcWriteResponse (n tag resp : Nat) (s : State) :
    exec (.mcWriteResponse n tag resp) s = .next (s.after (writeResponse n tag resp s.b)) := rfl
theorem exec_tagTimeout (n : Nat) (write : Bool) (tag : Nat) (s : State) :
    exec (.tagTimeout n write tag) s = .next (s.after (tagTimeout n write tag s.b)) := rfl

section
variable {b : Block} {n tag : Nat} {data : Bytes} {par : List Bool} {chk : Bytes}

/-! ### A read beat -/

/-- The block with a read tag of a channel freed. -/
def freedRead (b : Block) (n tag : Nat) : Block :=
  b.setChan n { b.chan n with rtags := Tab.erase (b.chan n).rtags tag }

section
variable (takes : takesResponses b n = true)
include takes

theorem readResponse_quarantined (resp : Nat) (quarantined : (b.chan n).rquar.contains tag = true) :
    readResponse n tag resp data par chk b = b.setChan n { b.chan n with rquar := (b.chan n).rquar.filter (· != tag) } := by
  simp only [readResponse, takes, quarantined, Bool.not_true, Bool.false_eq_true, if_false, if_true]

variable (current : (b.chan n).rquar.contains tag = false)
include current

theorem readResponse_unknown (resp : Nat) (unknown : ((b.chan n).rtags.find? fun e => e.1 == tag) = none) :
    readResponse n tag resp data par chk b = raise b 37 n (detail := tag) := by
  simp only [readResponse, takes, current, unknown, Bool.not_true, Bool.false_eq_true, if_false]

theorem readResponse_outstanding (resp : Nat) {i : Nat} {a : Acc}
    (outstanding : ((b.chan n).rtags.find? fun e => e.1 == tag) = some (i, a)) :
    readResponse n tag resp data par chk b = settleWrites (readBeat b n tag resp data par chk a) := by
  simp only [readResponse, takes, current, outstanding, Bool.not_true, Bool.false_eq_true, if_false]

end

theorem readBeat_uncorrectable {a : Acc} (kept : a.owner ≠ .discard) : readBeat b n tag 3 data par chk a =
    failAcc (raiseFail (freedRead b n tag) a .uncorrectable) a .uncorrectable := by
  simp only [readBeat, Block.modChan, beq_iff_eq, kept, if_true, if_false]
  rfl

section
variable {a : Acc} (plain : sym8 (freedRead b n tag) n = false)
include plain

/-- Without check bits a beat that does not poison its data goes by its response and its parity. -/
theorem readBeat_plain {resp : Nat} (delivered : resp ≠ 3) : readBeat b n tag resp data par chk a =
    if resp ≠ 0 then tryAgain (freedRead b n tag) a (some tag)
    else if parityOf data ≠ par then
      if a.owner == .discard then freedRead b n tag else failAcc (raiseFail (freedRead b n tag) a .parity) a .parity
    else granRead (freedRead b n tag) a data := by
  have noSymbols : sym8 (b.modChan n fun c => { c with rtags := Tab.erase c.rtags tag }) n = false := plain
  simp only [readBeat, delivered, noSymbols, Bool.false_eq_true, if_false, Bool.not_false, Bool.true_or, decide_true,
    Bool.and_true, if_true]
  rfl

theorem readBeat_retry : readBeat b n tag 1 data par chk a = tryAgain (freedRead b n tag) a (some tag) := by
  rw [readBeat_plain plain (by decide), if_pos (by decide)]

theorem readBeat_ok (parity : parityOf data = par) : readBeat b n tag 0 data par chk a =
    granRead (freedRead b n tag) a data := by
  rw [readBeat_plain plain (by decide), if_neg (by decide), if_neg (not_not_intro parity)]

theorem readBeat_parity (parity : parityOf data ≠ par) (kept : a.owner ≠ .discard) : readBeat b n tag 0 data par chk a =
    failAcc (raiseFail (freedRead b n tag) a .parity) a .parity := by
  rw [readBeat_plain plain (by decide), if_neg (by decide), if_pos parity, if_neg (by simpa using kept)]

end

/-! ### A write's answer -/

section
variable (takes : takesResponses b n = true) (current : (b.chan n).wquar.contains tag = false)
include takes current

theorem writeResponse_unknown (resp : Nat) (unknown : ((b.chan n).wtags.find? fun e => e.1 == tag) = none) :
    writeResponse n tag resp b = raise b 37 n (detail := tag) := by
  simp only [writeResponse, takes, current, unknown, Bool.not_true, Bool.false_eq_true, if_false]

variable {i : Nat} {a : Acc} (outstanding : ((b.chan n).wtags.find? fun e => e.1 == tag) = some (i, a))
include outstanding

theorem writeResponse_ok : writeResponse n tag 0 b = settleWrites (writeDone (commitWrite
    (b.setChan n { b.chan n with wtags := Tab.erase (b.chan n).wtags tag }) a) a) := by
  simp only [writeResponse, takes, current, outstanding, Bool.not_true, Bool.false_eq_true, if_false, if_true]

theorem writeResponse_retry : writeResponse n tag 1 b = settleWrites (tryAgain
    (b.setChan n { b.chan n with wtags := Tab.erase (b.chan n).wtags tag }) a (some tag)) := by
  simp only [writeResponse, takes, current, outstanding, Bool.not_true, Bool.false_eq_true, if_false, Nat.one_ne_zero,
    Nat.reduceEqDiff]

end

/-! ### A tag that times out -/

theorem tagTimeout_read {i : Nat} {a : Acc} (outstanding : ((b.chan n).rtags.find? fun e => e.1 == tag) = some (i, a)) :
    tagTimeout n false tag b = settleWrites (tryAgain (raise (b.setChan n { b.chan n with
        rtags := Tab.erase (b.chan n).rtags tag, rquar := (b.chan n).rquar ++ [tag] })
      36 n (vi := a.vi) (ctx := (a.owner.ctx).getD 256) (detail := a.gran * 256)) a none) := by
  simp only [tagTimeout, outstanding, Bool.false_eq_true, if_false]

theorem tagTimeout_write {i : Nat} {a : Acc} (outstanding : ((b.chan n).wtags.find? fun e => e.1 == tag) = some (i, a)) :
    tagTimeout n true tag b = settleWrites (tryAgain (raise (b.setChan n { b.chan n with
        wtags := Tab.erase (b.chan n).wtags tag, wquar := (b.chan n).wquar ++ [tag] })
      36 n (vi := a.vi) (ctx := (a.owner.ctx).getD 256) (detail := a.gran * 256)) a none) := by
  simp only [tagTimeout, outstanding, if_true]

end

/-! ### An access that goes out again (R41, R175) -/

theorem retryAcc_counts {b : Block} {a a' : Acc} (again : retryAcc b a = some a') : a' = { a with retries := a.retries + 1 } :=
  (Option.some.inj (Option.ite_none_left_eq_some.1 again).2).symm

section
variable {b : Block} {a a' : Acc} (tag : Option Nat) (again : retryAcc b a = some a')
  (up : (b.chan a'.ch).service = .inService)
include again up

/-- On a channel in service it stands ahead of what waits on its path. -/
theorem tryAgain_inService : tryAgain b a tag = if a'.reads then
      b.setChan a'.ch { b.chan a'.ch with rwait := { a' with tag := tag } :: (b.chan a'.ch).rwait }
    else b.setChan a'.ch { b.chan a'.ch with wwait := { a' with tag := tag } :: (b.chan a'.ch).wwait } := by
  simp only [tryAgain, again, up]
  rfl

end

/-- Settles O14: a beat by its tag, its response and its parity; a write's answer by its tag; a timeout by its path. -/
theorem channelResponses : Obligations.ChannelResponses := by
  unfold Obligations.ChannelResponses
  refine ⟨fun s n tag resp data par chk takes => ⟨fun quarantined => ?_, fun current unknown => ?_,
      fun i a current outstanding => ⟨fun plain parity => ?_, fun plain => ?_, fun kept => ?_, fun plain parity kept => ?_⟩⟩,
    fun s n tag takes current => ⟨fun i a outstanding => ⟨?_, ?_⟩, fun unknown => ?_⟩,
    fun s n tag i a => ⟨fun outstanding => ?_, fun outstanding => ?_⟩,
    fun b a a' tag again up => ⟨?_, fun reads => ?_, fun writes => ?_⟩⟩
  · rw [exec_mcReadResponse, readResponse_quarantined takes resp quarantined]
  · rw [exec_mcReadResponse, readResponse_unknown takes current resp unknown]
  · rw [exec_mcReadResponse, readResponse_outstanding takes current 0 outstanding, readBeat_ok plain parity]
    rfl
  · rw [exec_mcReadResponse, readResponse_outstanding takes current 1 outstanding, readBeat_retry plain]
    rfl
  · rw [exec_mcReadResponse, readResponse_outstanding takes current 3 outstanding, readBeat_uncorrectable kept]
    rfl
  · rw [exec_mcReadResponse, readResponse_outstanding takes current 0 outstanding, readBeat_parity plain parity kept]
    rfl
  · rw [exec_mcWriteResponse, writeResponse_ok takes current outstanding]
  · rw [exec_mcWriteResponse, writeResponse_retry takes current outstanding]
  · rw [exec_mcWriteResponse, writeResponse_unknown takes current 0 unknown]
  · rw [exec_tagTimeout, tagTimeout_read outstanding]
  · rw [exec_tagTimeout, tagTimeout_write outstanding]
  · rw [retryAcc_counts again]
  · rw [tryAgain_inService tag again up, if_pos reads]
  · rw [tryAgain_inService tag again up, if_neg (by simp [writes])]

end Sys2Proof.Machine
end

section
/-! SUPPORT. Negotiation of a memory channel, its loss, and thermal states (R43, R75 to R78, R295, R364). -/

namespace Sys2Proof.Machine

theorem exec_capIVld (n : Nat) (cap : Word64) (s : State) : exec (.capIVld n cap) s = .next (s.after (capIVld n cap s.b)) := rfl
theorem exec_channelModeFix (n : Nat) (s : State) : exec (.channelModeFix n) s = .next (s.after (modeFix n s.b)) := rfl
theorem exec_channelNegotiationTimeout (n : Nat) (s : State) :
    exec (.channelNegotiationTimeout n) s = .next (s.after (negotiationTimeout n s.b)) := rfl
theorem exec_capIVldLoss (n : Nat) (s : State) : exec (.capIVldLoss n) s = .next (s.after (capLoss n s.b)) := rfl
theorem exec_thermChange (n : Nat) (t : BitVec 2) (s : State) :
    exec (.thermChange n t) s = .next (s.after (resumeBoot s.ao (thermChange n t s.b))) := rfl

/-! ### The capability words and the mode (R75 to R77) -/

section
variable {b : Block} {n : Nat}

section
variable (negotiates : (b.chan n).service = .offered ∨ (b.chan n).service = .lost)
include negotiates

theorem capIVld_taken (cap : Word64) : capIVld n cap b = b.setChan n { b.chan n with capI := some cap } :=
  if_pos (by rcases negotiates with h | h <;> rw [h] <;> rfl)

theorem negotiating_open : ((b.chan n).service != .offered && (b.chan n).service != .lost) = false := by
  rcases negotiates with h | h <;> rw [h] <;> rfl

variable {w : Word64} (word : (b.chan n).capI = some w)
include word

theorem modeFix_common {m : ChanMode} (chosen : chooseMode (b.chan n).capO.toNat w.toNat = some m) :
    modeFix n b = b.setChan n { b.chan n with
      mode := some m, service := .inService, rquar := [], wquar := [], therm := if m.therm then (b.chan n).therm else 0, found := [] } := by
  simp only [modeFix, word, negotiating_open negotiates, chosen, Bool.false_eq_true, if_false]

theorem modeFix_unlike (unlike : chooseMode (b.chan n).capO.toNat w.toNat = none) :
    modeFix n b = raiseOwn (fenceChan b n) n := by
  simp only [modeFix, word, negotiating_open negotiates, unlike, Bool.false_eq_true, if_false]

end

theorem negotiationTimeout_offered (offered : (b.chan n).service = .offered) (noWord : (b.chan n).capI = none) :
    negotiationTimeout n b = raiseOwn (fenceChan b n) n :=
  if_pos (by rw [offered, noWord]; rfl)

theorem chooseMode_some {own peer : Nat} {m : ChanMode} (chosen : chooseMode own peer = some m) : bitsOf peer 3 0 = 1 ∧ m =
    { full := bitOf peer 4, run := if bitOf peer 10 then 16 else if bitOf peer 9 then 4 else 1, sym8 := bitOf peer 17
      therm := bitOf peer 18, drainable := bitOf peer 20, trusted := bitOf own 24 && bitOf peer 24
      tagMax := min 511 (bitsOf peer 40 32) } := by
  obtain ⟨version, fields⟩ := Option.ite_none_left_eq_some.1 chosen
  obtain ⟨-, made⟩ := Option.ite_none_left_eq_some.1 fields
  simp only [Bool.or_eq_true, decide_eq_true_eq, not_or, not_not] at version
  exact ⟨version.1, (Option.some.inj made).symm⟩

/-! ### A channel is fenced (R295) -/

theorem rewriteSteering_changes (b : Block) (c : Nat) : ∃ table, rewriteSteering b c = { b with steerOver := table } := by
  by_cases none : steerPool b c = []
  · exact ⟨b.steerOver, if_pos (List.isEmpty_iff.2 none)⟩
  · exact ⟨_, rewriteSteering_eq none⟩

theorem dropLinesOf_keeps (b : Block) (c : Nat) : (dropLinesOf b c).chans = b.chans ∧ (dropLinesOf b c).islands = b.islands ∧
    (dropLinesOf b c).flt.units = b.flt.units := by
  unfold dropLinesOf
  dsimp only
  split <;> exact ⟨rfl, rfl, rfl⟩

/-- A channel's interface in the fenced state: its outputs at their reset values (R34, R295). -/
def Chan.fence (c : Chan) : Chan := { c with service := .fenced, capO := 0, capOVld := false, rqOut := none, wqOut := none }

/-- The block with a channel fenced, before its lines and its table entries are dealt with. -/
def chanFenced (b : Block) (n : Nat) : Block :=
  { (b.setHealth .channel n { b.health .channel n with state := .fenced }).setChan n (b.chan n).fence with
    islands := { b.islands with
      safe := b.islands.safe ||| BitVec.ofNat 38 (2 ^ (5 + n)), alive := b.islands.alive.put false n false } }

/-- The block with a channel fenced, its lines dropped and its table entries rewritten: what waits there is steered next. -/
def fencedBlock (b : Block) (n : Nat) : Block :=
  if readyLocal (dropLinesOf (chanFenced b n) n) then rewriteSteering (dropLinesOf (chanFenced b n) n) n
  else dropLinesOf (chanFenced b n) n

theorem fenceChan_eq (open_ : (b.chan n).service ≠ .fenced) : fenceChan b n = resteer (fencedBlock b n) n :=
  if_neg (by simpa using open_)

theorem fencedBlock_keeps (b : Block) (n : Nat) : (fencedBlock b n).chans = (chanFenced b n).chans ∧
    (fencedBlock b n).islands = (chanFenced b n).islands ∧ (fencedBlock b n).flt.units = (chanFenced b n).flt.units := by
  unfold fencedBlock
  split
  · obtain ⟨table, rewritten⟩ := rewriteSteering_changes (dropLinesOf (chanFenced b n) n) n
    rw [rewritten]
    exact dropLinesOf_keeps _ n
  · exact dropLinesOf_keeps _ n

theorem fencedBlock_chan (b : Block) (n : Nat) : (fencedBlock b n).chan n = (b.chan n).fence := by
  rw [Block.chan, (fencedBlock_keeps b n).1]
  exact Block.setChan_chan _ n (b.chan n).fence

theorem fencedBlock_health (b : Block) (n : Nat) : ((fencedBlock b n).health .channel n).state = .fenced := by
  rw [Block.health, (fencedBlock_keeps b n).2.2]
  exact congrArg UnitHealth.state
    (Tab.get_put_same {} b.flt.units (healthKey .channel n) { b.health .channel n with state := .fenced })

theorem fencedBlock_alive (b : Block) (n : Nat) : (fencedBlock b n).islands.alive.get false n = false := by
  rw [(fencedBlock_keeps b n).2.1]
  exact Tab.get_put_same false b.islands.alive n false

/-! ### The word's loss (R78) -/

theorem capLoss_inService (serves : (b.chan n).service = .inService) : capLoss n b = settleWrites
    (countWaiting n (raise (b.setChan n { b.chan n with capI := none, service := .lost }) 38 n)) := by
  simp only [capLoss, serves]

theorem exec_channelWaitRetryTick_lost {s : State} (lost : (s.b.chan n).service = .lost) :
    exec (.channelWaitRetryTick n) s = .next (s.after (settleWrites (countWaiting n (s.b.setChan n { s.b.chan n with
      found := (s.b.chan n).found.map fun e => (e.1, e.2.1, e.2.2 + 1) })))) :=
  congrArg (fun b => Host.Outcome.next (s.after b)) (if_pos (by rw [lost]; rfl))

section
variable (lost : (b.chan n).service = .lost)
include lost

/-- An access within a row that has met the lost channel counts on from there. -/
theorem chanStatus_found {r g k : Nat} (found : (b.chan n).found = [(r, g, k)]) :
    chanStatus b r n g = some (if rowLimit b r ≤ k then .busRetryExhausted else .held) := by
  simp only [chanStatus, lost, found, List.find?_cons, BEq.rfl, Bool.and_self]
  split <;> rfl

theorem chanStatus_first (r g : Nat) (first : (b.chan n).found = []) :
    chanStatus b r n g = some (if rowLimit b r ≤ 1 then .busRetryExhausted else .held) := by
  simp only [chanStatus, lost, first, List.find?_nil]
  split <;> rfl

end

/-- The one access that waits goes back to its path with one RETRY more. -/
theorem countWaiting_read {a a' : Acc} (waits : (b.chan n).rwait = [a]) (alone : (b.chan n).wwait = [])
    (again : retryAcc b a = some a') (reads : a'.reads = true) :
    (countWaiting n b).chan n = { b.chan n with rwait := [a'], wwait := [] } := by
  have counted : retryAcc (b.setChan n { b.chan n with rwait := [], wwait := [] }) a = some a' := again
  simp only [countWaiting, waits, alone, List.append_nil, List.foldl_cons, List.foldl_nil, counted, reads, if_true,
    Block.modChan, Block.setChan_chan, List.nil_append]

/-! ### Thermal states (R43, R66, R364) -/

theorem resumeBoot_none (ao : AO) (noStart : b.boot.stalled = none) : resumeBoot ao b = b := by
  simp only [resumeBoot, noStart]

section
variable {m : ChanMode} {t : BitVec 2} (listed : n < 24) (mode : (b.chan n).mode = some m) (reports : m.therm = true)
  (changed : (b.chan n).therm ≠ t)
include listed mode reports changed

theorem thermChange_cool (cool : t ≠ 3) : thermChange n t b = b.setChan n { b.chan n with therm := t } := by
  have acts : (decide (24 ≤ n) || (b.chan n).therm == t) = false := by simp [Nat.not_le.2 listed, changed]
  simp only [thermChange, mode, reports, acts, beq_false_of_ne cool, Bool.false_and, Bool.false_eq_true, if_true, if_false]

theorem thermChange_critical (critical : t = 3) (further : anyCritical b = true) : thermChange n t b =
    raise (b.setChan n { b.chan n with therm := 3, budget := 0 }) 40 n := by
  subst critical
  have acts : (decide (24 ≤ n) || (b.chan n).therm == 3) = false := by
    rw [decide_eq_false (Nat.not_le.2 listed), beq_false_of_ne changed]
    rfl
  simp only [thermChange, mode, reports, acts, further, BEq.rfl, Bool.not_true, Bool.and_false, Bool.false_eq_true, if_true, if_false]

end

end

/-- Settles O15: each row by where the channel stands, a fenced one by the block its waiting requests are steered in. -/
theorem channelNegotiation : Obligations.ChannelNegotiation := by
  unfold Obligations.ChannelNegotiation
  refine ⟨fun s n => ⟨fun cap negotiates => ?_, fun w m word negotiates chosen => ?_, fun w word offered unlike => ?_,
      fun offered noWord => ?_, fun serves => ?_, exec_channelWaitRetryTick_lost⟩,
    fun b r n g k lost => ⟨chanStatus_found lost, chanStatus_first lost r g⟩,
    fun b n a a' waits alone again reads => ?_, fun b n open_ => ⟨_, fenceChan_eq open_, ?_⟩, fun own peer m chosen => ?_,
    fun s n m t listed noStart mode reports changed => ⟨fun cool => ?_, fun critical further => ?_⟩⟩
  · rw [exec_capIVld, capIVld_taken negotiates]
  · refine ⟨_, exec_channelModeFix n s, ?_⟩
    rw [modeFix_common negotiates word chosen]
    simp only [State.after_chan, Block.setChan_chan]
    exact ⟨trivial, trivial, trivial, trivial, fun i other => Block.setChan_chan_other _ _ _ _ other⟩
  · rw [exec_channelModeFix, modeFix_unlike (.inl offered) word unlike]
  · rw [exec_channelNegotiationTimeout, negotiationTimeout_offered offered noWord]
  · rw [exec_capIVldLoss, capLoss_inService serves]
  · rw [countWaiting_read waits alone again reads]
    exact ⟨rfl, rfl, rfl⟩
  · rw [fencedBlock_chan, fencedBlock_health, fencedBlock_alive]
    exact ⟨rfl, rfl, rfl, rfl, rfl, rfl, rfl⟩
  · obtain ⟨version, made⟩ := chooseMode_some chosen
    subst made
    refine ⟨by simpa [bitsOf] using version, by simp, Nat.min_le_left _ _, Nat.min_le_right _ _, ?_, id⟩
    dsimp only
    split_ifs <;> simp
  · rw [exec_thermChange, thermChange_cool listed mode reports changed cool, resumeBoot_none]
    exact noStart
  · rw [exec_thermChange, thermChange_critical listed mode reports changed critical further, resumeBoot_none]
    exact noStart

end Sys2Proof.Machine
end

section
/-! SUPPORT. Beats of the stream ports (R45 to R47, R108): one equation per fate of a beat. -/

namespace Sys2Proof.Machine

theorem exec_streamIngressBeat (p : Nat) (x : Beat) (s : State) :
    exec (.streamIngressBeat p x) s = .next (s.after (ingressBeat p x s.b)) := rfl
theorem exec_streamEgressBeat (p : Nat) (s : State) : exec (.streamEgressBeat p) s = .next (s.after (egressBeat p s.b)) := rfl

/-! ### Ingress (R45, R46) -/

section
variable {b : Block} {p : Nat} {x : Beat} (up : quadUp b (quadOfPort p) = true) (ready : readyLocal b = true)
include up ready

theorem ingressBeat_notOpen (closed : ((b.sport p).openNos.find? fun o => o.1 == x.cid && !o.2.egress) = none) :
    ingressBeat p x b = raise (setReady b p true) 51 p (detail := x.cid) := by
  simp only [ingressBeat, up, ready, closed, Bool.not_true, Bool.or_self, Bool.false_eq_true, if_false]

variable {k : Nat} {o : StreamNo} (opened : ((b.sport p).openNos.find? fun o => o.1 == x.cid && !o.2.egress) = some (k, o))
include opened

theorem ingressBeat_bad {st : Status} (bad : beatFault o x = some st) : ingressBeat p x b = badBeat b p o x st := by
  simp only [ingressBeat, up, ready, opened, bad, Bool.not_true, Bool.or_self, Bool.false_eq_true, if_false]

/-- A good beat of a stream that an execution consumes is taken where a lane waits for it, and left at the port else. -/
theorem ingressBeat_good {c : Nat} {e : Exec} (consumed : consumer b p x.cid = some (c, e)) (good : beatFault o x = none) :
    ingressBeat p x b = if ingressOpen b p e && laneWaits b c e then takeBeat b p c e o x else setReady b p false := by
  simp only [ingressBeat, up, ready, opened, good, consumed, Bool.not_true, Bool.or_self, Bool.false_eq_true, if_false]

end

section
variable (b : Block) (p : Nat) (o : StreamNo) (x : Beat)

/-- The block with a bad beat taken off its port. -/
def badTaken : Block := b.setSport p { b.sport p with
  openNos := if x.eoc then (b.sport p).openNos.filter fun q => q.1 != x.cid
    else Tab.insert (b.sport p).openNos x.cid { o with bad := true }
  ready := true }

variable {b p o x} (st : Status)

theorem badBeat_consumed {c : Nat} {e : Exec} (consumed : consumer (badTaken b p o x) p x.cid = some (c, e)) :
    badBeat b p o x st = haltBegin (raise (badTaken b p o x) 51 p (status := st) (vi := o.vi) (ctx := c) (detail := x.cid))
      c st 0 0 (some e.seq) := by
  unfold badTaken at consumed
  simp only [badBeat, consumed]
  rfl

theorem badBeat_unconsumed (unconsumed : consumer (badTaken b p o x) p x.cid = none) :
    badBeat b p o x st = raise (badTaken b p o x) 51 p (status := st) (vi := o.vi) (detail := x.cid) := by
  unfold badTaken at unconsumed
  simp only [badBeat, unconsumed]
  rfl

end

/-! ### Egress (R45, R47) -/

section
variable {b : Block} {o : OutBeat} {rest : List OutBeat}

theorem eocWaits_settled (settled : o.last = false ∨ o.beat.eoc = true ∨ eocOpen b o.ctx = false) :
    eocWaits b o rest = false := by
  rcases settled with h | h | h <;> simp [eocWaits, lastOut, h]

theorem egressBeat_leaves {p : Nat} (oldest : (b.sport p).out = o :: rest) (noDomain : domainOfPort b p = none)
    (up : quadUp b (quadOfPort p) = true) (settled : eocWaits b o rest = false) : egressBeat p b =
    releaseLanes (modExec (b.setSport p { b.sport p with
        out := rest
        openNos := if (eocOn b o rest).beat.eoc then (b.sport p).openNos.filter fun q => q.1 != (eocOn b o rest).beat.cid
          else (b.sport p).openNos })
      (eocOn b o rest).ctx (eocOn b o rest).seq fun e => { e with sent := e.sent + Beat.count (eocOn b o rest).beat })
      (eocOn b o rest).ctx := by
  simp only [egressBeat, oldest, noDomain, up, settled, Bool.not_true, Bool.or_self, Bool.false_eq_true, if_false]

theorem eocOn_notLast (more : lastOut b o rest = false) : eocOn b o rest = o ∧ eocWaits b o rest = false :=
  ⟨if_neg (by simp [more]), by simp [eocWaits, more]⟩

theorem eocOn_chained (last : lastOut b o rest = true) (chained : eocNext b o.ctx = some true) :
    (eocOn b o rest).beat.eoc = true := by
  rw [eocOn, last, chained]
  rfl

end

/-- Settles O16: a beat taken by its stream and what it finds there, one that leaves by whether its eoc is settled. -/
theorem streamBeats : Obligations.StreamBeats := by
  unfold Obligations.StreamBeats
  refine ⟨fun s p x up ready => ⟨fun closed => ?_, fun k o opened => ⟨fun c e consumed isOpen waits good => ?_,
      fun c e consumed unwanted good => ?_, fun st bad => ⟨fun c e consumed => ?_, fun unconsumed => ?_⟩⟩⟩,
    fun s p o rest oldest noDomain up settled => ?_, fun b o rest => ⟨eocOn_notLast, eocOn_chained⟩⟩
  · rw [exec_streamIngressBeat, ingressBeat_notOpen up ready closed]
    rfl
  · rw [exec_streamIngressBeat, ingressBeat_good up ready opened consumed good, isOpen, waits]
    rfl
  · rw [exec_streamIngressBeat, ingressBeat_good up ready opened consumed good, unwanted]
    rfl
  · rw [exec_streamIngressBeat, ingressBeat_bad up ready opened bad, badBeat_consumed st consumed]
    rfl
  · rw [exec_streamIngressBeat, ingressBeat_bad up ready opened bad, badBeat_unconsumed st unconsumed]
    rfl
  · rw [exec_streamEgressBeat, egressBeat_leaves oldest noDomain up (eocWaits_settled settled)]

end Sys2Proof.Machine
end

section
/-! SUPPORT. The power-domain handshake past start-up, and requests on a line (R56 to R58, R371 to R376). -/

namespace Sys2Proof.Machine

theorem exec_pdAck (d : Nat) (s : State) : exec (.pdAck d) s = .next (s.after (pdAck d s.b)) := rfl
theorem exec_drainBoundExpiry (d : Nat) (s : State) : exec (.drainBoundExpiry d) s = .next (s.after (drainExpiry d s.b)) := rfl
theorem exec_pdReqRelease (d : Nat) (s : State) : exec (.pdReqRelease d) s = .next (s.after (pdRelease d s.b)) := rfl
theorem exec_drq (i : Nat) (s : State) : exec (.drq i) s = .next (s.after (drqSeen i s.b)) := rfl

/-! ### The handshake of a domain -/

section
variable {b : Block} {d : Nat}

/-- Past step 6 an idle domain's request begins its drain (R371). -/
theorem pdReq_drains (hd : d < 16) (defined_ : (domainRec b d).isSome = true) (late : 7 ≤ b.boot.stage)
    (notFailed : b.boot.stage ≠ 0xF) (notP3 : b.power.state ≠ 3) (up : ctUp b = true) (idle : b.pdom d = {}) :
    pdReq d b = settleWrites (drainLines
      (retireUndrained (b.setPdom d { req := true, ack := false, drain := true }) d) d) := by
  have known : (domainRec (b.setPdom d { req := true, ack := false, drain := true }) d).isNone = false := by
    rw [← Option.not_isSome, show domainRec (b.setPdom d _) d = domainRec b d from rfl, defined_]
    rfl
  simp [pdReq, idle, up, notFailed, notP3, Nat.not_le.2 hd, Nat.not_lt.2 late, known]

section
variable (drains : (b.pdom d).drain = true)
include drains

theorem pdAck_draining : pdAck d b = if domainDrained b d then
    settleWrites (ackDomain (retireTags b d (tagsIn b d)) d) else drainLines b d := if_neg (by simp [drains])

theorem drainExpiry_draining : drainExpiry d b = settleWrites (ackDomain (raise
    ((portsOf (dropDirty (retireTags b d (tagsIn b d)) d) d).foldl dropBeats (dropDirty (retireTags b d (tagsIn b d)) d)) 41 d) d) :=
  if_neg (by simp [drains])

theorem pdRelease_draining : pdRelease d b = b.setPdom d { b.pdom d with req := false } := if_pos drains

end

section
variable (still : (b.pdom d).drain = false)
include still

theorem pdRelease_acknowledged (ack : (b.pdom d).ack = true) : pdRelease d b = resumeDomain b d := by
  simp only [pdRelease, still, ack, Bool.false_eq_true, if_false, if_true]

/-- A domain that neither drains nor is acknowledged has nothing to answer. -/
theorem handshake_idle (noAck : (b.pdom d).ack = false) : pdAck d b = b ∧ drainExpiry d b = b ∧ pdRelease d b = b :=
  ⟨if_pos (by simp [still]), if_pos (by simp [still]),
    by simp only [pdRelease, still, noAck, Bool.false_eq_true, if_false]⟩

end

theorem answerFalls_one (fallen : b.pd = [(d, { req := false, ack := true, drain := false })]) :
    answerFalls b = resumeDomain b d := by
  simp only [answerFalls, fallen, List.filter_cons, Bool.not_false, Bool.and_self, if_true, List.filter_nil, List.foldl_cons,
    List.foldl_nil]

end

/-! ### P2 is left for work (R453) -/

theorem openPorts_changes (b : Block) : ∃ ports, openPorts b = { b with sports := ports } := by
  unfold openPorts
  generalize List.range 8 = l
  induction l generalizing b with
  | nil => exact ⟨b.sports, rfl⟩
  | cons p l ih =>
    rw [List.foldl_cons]
    split
    · exact ih (b.setSport p { b.sport p with ready := true })
    · exact ih b

theorem requestPower_changes (b : Block) (t : Nat) : ∃ power, requestPower b t = { b with power := power } := by
  unfold requestPower
  dsimp only
  split
  · exact ⟨b.power, rfl⟩
  · split
    · exact ⟨_, rfl⟩
    · split
      · exact ⟨b.power, rfl⟩
      · exact ⟨_, rfl⟩

theorem takeDeferred_changes (b : Block) : ∃ power, takeDeferred b = { b with power := power } := by
  unfold takeDeferred
  split
  · next t _ => exact requestPower_changes (b.setPower fun p => { p with deferred := none }) t
  · exact ⟨b.power, rfl⟩

theorem exitP2_changes (b : Block) (t : Nat) (auto : Bool) :
    ∃ ports power, exitP2 b t auto = { b with sports := ports, power := power } := by
  obtain ⟨ports, opened⟩ := openPorts_changes (b.setPower fun p => { p with state := t, busy := none, auto := auto })
  exact ⟨ports, _, opened⟩

/-- Leaving P2 changes the stream ports and the power state alone. -/
theorem wakeP2_changes (b : Block) : ∃ ports power, wakeP2 b = { b with sports := ports, power := power } := by
  unfold wakeP2
  dsimp only
  split
  · split
    · exact exitP2_changes b _ true
    · next t _ =>
      split
      · obtain ⟨ports, power, exited⟩ := exitP2_changes b t false
        rw [exited]
        obtain ⟨power', taken⟩ := takeDeferred_changes { b with sports := ports, power := power }
        exact ⟨ports, power', taken⟩
      · obtain ⟨ports, power, exited⟩ := exitP2_changes b (if bitOf b.power.ctl.toNat 2 then 1 else 0) true
        rw [exited]
        obtain ⟨power', taken⟩ := takeDeferred_changes { b with sports := ports, power := { power with pending := some t } }
        exact ⟨ports, power', taken⟩
  · exact ⟨b.sports, b.power, rfl⟩

/-- A request on a line of a running quadrant is held; every other line and every context stays. -/
theorem drqSeen_held {b : Block} {i : Nat} (listed : i < 64) (runs : b.islands.out.get false (i / 16) = true) :
    (∀ j, (drqSeen i b).line j = (b.setLine i { b.line i with held := true, ack := false }).line j) ∧
      (drqSeen i b).ctxs = b.ctxs := by
  rw [drqSeen, if_pos (by simp [listed, runs])]
  obtain ⟨ports, power, woken⟩ := wakeP2_changes (b.setLine i { b.line i with held := true, ack := false })
  rw [woken]
  exact ⟨fun _ => rfl, rfl⟩

/-- Settles O18: each row by where the domain's handshake stands; a request line by what waking the quadrants changes. -/
theorem domainsAndRequestLines : Obligations.DomainsAndRequestLines := by
  unfold Obligations.DomainsAndRequestLines
  refine ⟨fun s d hd => ⟨fun defined_ late notFailed notP3 up req ack drain => ?_, fun drains drained => ?_,
      fun drains more => ?_, fun drains => ?_, fun drains => ?_, fun still ack => ?_, fun still noAck => ?_, fun b => rfl,
      fun noCommand fallen => ?_⟩, fun s i listed runs => ?_⟩
  · rw [exec_pdReq, pdReq_drains hd defined_ late notFailed notP3 up (PDom.eq_idle req ack drain)]
  · rw [exec_pdAck, pdAck_draining drains, if_pos drained]
  · rw [exec_pdAck, pdAck_draining drains, if_neg (by simp [more])]
  · rw [exec_drainBoundExpiry, drainExpiry_draining drains]
  · rw [exec_pdReqRelease, pdRelease_draining drains]
  · rw [exec_pdReqRelease, pdRelease_acknowledged still ack]
    rfl
  · obtain ⟨noAckDue, noBound, noRelease⟩ := handshake_idle still noAck
    rw [exec_pdAck, exec_drainBoundExpiry, exec_pdReqRelease, noAckDue, noBound, noRelease]
    exact ⟨rfl, rfl, rfl⟩
  · rw [step_idle noCommand, tick, answerFalls_one fallen]
  · obtain ⟨lines, ctxs⟩ := drqSeen_held listed runs
    refine ⟨_, exec_drq i s, ?_⟩
    simp only [State.after_line, State.after_ctxs, lines, ctxs, Block.setLine_line]
    exact ⟨trivial, trivial, trivial, fun j other => Block.setLine_line_other _ _ _ _ other, trivial⟩

end Sys2Proof.Machine
end

section
/-! SUPPORT. Training of a link port, its timeouts and the capability exchange (R49 to R51, R80, R81, R419). -/

namespace Sys2Proof.Machine

theorem exec_trnDone (p : Nat) (s : State) : exec (.trnDone p) s = .next (s.after (trnDone p s.b)) := rfl
theorem exec_rxLockLoss (p : Nat) (s : State) : exec (.rxLockLoss p) s = .next (s.after (lockLoss p s.b)) := rfl
theorem exec_retrain (p : Nat) (s : State) : exec (.retrain p) s = .next (s.after (retrain p s.b)) := rfl
theorem exec_fecUncorr (p lane : Nat) (s : State) : exec (.fecUncorr p lane) s = .next (s.after (fecUncorr p s.b)) := rfl
theorem exec_trainingTimeout (p : Nat) (s : State) : exec (.trainingTimeout p) s = .next (s.after (trainTimeout p s.b)) := rfl
theorem exec_fencedPortRetry (p : Nat) (s : State) : exec (.fencedPortRetry p) s = .next (s.after (fencedRetry p s.b)) := rfl

section
variable {b : Block} {p : Nat}

/-! ### Training and the exchange (R50, R51, R80) -/

theorem trnDone_trained (training : (b.link p).phase = .training) (asked : (b.link p).trnReq = true) :
    trnDone p b = sendCapability (b.setLink p { b.link p with phase := .exchange }) p :=
  if_pos (by rw [training, asked]; rfl)

theorem lockLoss_locked (asked : (b.link p).trnReq = true) :
    lockLoss p b = b.setLink p { b.link p with phase := .training, trnReq := false, peerCap := none } := if_pos asked

theorem retrain_training (training : (b.link p).phase = .training) (lowered : (b.link p).trnReq = false) :
    retrain p b = b.setLink p { b.link p with phase := .training, trnReq := true } := if_pos (by rw [training, lowered]; rfl)

theorem fecUncorr_counted (running : (b.link p).phase ≠ .reset) : fecUncorr p b =
    raise (b.setLink p { b.link p with fecCount := min ((b.link p).fecCount + 1) (2 ^ 32 - 1) }) 43 p :=
  if_neg (by simpa using running)

theorem exec_capabilityResend_silent {s : State} (exchange : (s.b.link p).phase = .exchange)
    (silent : (s.b.link p).peerCap = none) : exec (.capabilityResend p) s = .next (s.after (sendCapability s.b p)) :=
  congrArg (fun b => Host.Outcome.next (s.after b)) (if_pos (by rw [exchange, silent]; rfl))

theorem exec_idMismatchRepeat_mismatch {s : State} (exchange : (s.b.link p).phase = .exchange)
    (mismatch : (s.b.link p).mismatch = true) : exec (.idMismatchRepeat p) s = .next (s.after
      (sendCapability (s.b.setLink p { s.b.link p with mismatch := false, peerCap := none }) p)) :=
  congrArg (fun b => Host.Outcome.next (s.after b)) (if_pos (by rw [exchange, mismatch]; rfl))

theorem fencedRetry_fenced (fenced : (b.link p).phase = .fenced) :
    fencedRetry p b = if b.islands.safe.getLsbD (29 + p) then b else startTraining b p := by
  have atFence : ((b.link p).phase == .fenced) = true := by rw [fenced]; rfl
  cases safe : b.islands.safe.getLsbD (29 + p) <;> simp [fencedRetry, atFence, safe]

/-! ### A training that times out (R81) -/

/-- A port trained again on fewer lanes, by its settings before it went down. -/
def narrowed (b : Block) (p : Nat) (l : Link) : Block :=
  (retrainWith b p (l.lanes / 2) l.rate l.fec).modLink p fun x => { x with narrow := l.lanes / 2 }

/-- A port fenced after training failed on its last lane. -/
def trainingFenced (b : Block) (p : Nat) : Block :=
  ({ b.setHealth .link p { b.health .link p with state := .fenced } with
      islands := { b.islands with alive := b.islands.alive.put false (40 + p) false } } : Block).modLink p
    fun l => { l.clamp with phase := .fenced }

theorem trainTimeout_training (training : (b.link p).phase = .training) (asked : (b.link p).trnReq = true) :
    trainTimeout p b = if (b.link p).lanes ≤ 1 then trainingFenced (linkDown b p) p
      else narrowed (linkDown b p) p (b.link p) := by
  unfold trainTimeout
  generalize linkDown b p = down
  exact if_pos (by rw [training, asked]; rfl)

theorem narrowed_link (l : Link) : ((narrowed b p l).link p).lanes = l.lanes / 2 ∧
    ((narrowed b p l).link p).narrow = l.lanes / 2 ∧ ((narrowed b p l).link p).trnReq = false ∧
    ((narrowed b p l).link p).phase = .training := by
  simp only [narrowed, retrainWith, Block.modLink, Block.setLink_link, and_self]

theorem trainingFenced_port (b : Block) (p : Nat) : ((trainingFenced b p).link p).phase = .fenced ∧
    ((trainingFenced b p).link p).laneEn = 0 ∧ ((trainingFenced b p).link p).trnReq = false ∧
    (trainingFenced b p).islands.alive.get false (40 + p) = false ∧ (trainingFenced b p).isFenced .link p = true := by
  refine ⟨?_, ?_, ?_, Tab.get_put_same false b.islands.alive (40 + p) false, ?_⟩
  · rw [trainingFenced, Block.modLink, Block.setLink_link]
  · rw [trainingFenced, Block.modLink, Block.setLink_link]
    rfl
  · rw [trainingFenced, Block.modLink, Block.setLink_link]
    rfl
  · exact Block.setHealth_isFenced b .link p { b.health .link p with state := .fenced }

theorem trainingFenced_link_other {q : Nat} (other : q ≠ p) : (trainingFenced b p).link q = b.link q :=
  Block.setLink_link_other _ _ _ _ other

theorem narrowed_link_other {q : Nat} (l : Link) (other : q ≠ p) : (narrowed b p l).link q = b.link q :=
  (Block.setLink_link_other _ _ _ _ other).trans (Block.setLink_link_other _ _ _ _ other)

theorem trainTimeout_link_other {q : Nat} (other : q ≠ p) (training : (b.link p).phase = .training)
    (asked : (b.link p).trnReq = true) : (trainTimeout p b).link q = (linkDown b p).link q := by
  rw [trainTimeout_training training asked]
  split
  · exact trainingFenced_link_other other
  · exact narrowed_link_other _ other

theorem State.after_isFenced (s : State) (b : Block) (k : UnitKind) (i : Nat) : (s.after b).b.isFenced k i = b.isFenced k i := rfl

/-! ### A port that goes down with nothing to send again -/

theorem releaseHeld_none (noRequest : b.held = []) (noFlit : b.heldFlits = []) : releaseHeld b = b := by
  cases b
  subst noRequest
  subst noFlit
  rfl

theorem sendEnds_noEncoder (free : (b.link p).encoder = none) : sendEnds b p = b := by
  simp only [sendEnds, free]

theorem releaseAll_none (noRequest : b.held = []) (noFlit : b.heldFlits = []) (free : ∀ q, (b.link q).encoder = none) :
    releaseAll b = b := by
  rw [releaseAll, releaseHeld_none noRequest noFlit]
  generalize List.range 8 = l
  induction l with
  | nil => rfl
  | cons q l ih => rwa [List.foldl_cons, sendEnds_noEncoder (free q)]

theorem linkDown_quiet (noWrite : (ringGiveBack b p).1 = []) (noRequest : b.held = []) (noFlit : b.heldFlits = [])
    (free : ∀ q, (b.link q).encoder = none) : linkDown b p = portDropped b p := by
  have given : (ringGiveBack (raise (b.setLink p (dropPort (b.link p))) 45 p (status := .linkDown)) p).1 = [] := noWrite
  simp only [linkDown, free p, given, List.append_nil, List.foldl_nil]
  refine releaseAll_none noRequest noFlit fun q => ?_
  by_cases same : q = p
  · rw [same]
    exact congrArg Link.encoder (portDropped_link b p)
  · exact (congrArg Link.encoder (portDropped_link_other b same)).trans (free q)

end

/-- Settles O19: each row by the phase of its port; a timeout by the lanes left. -/
theorem linkTraining : Obligations.LinkTraining := by
  unfold Obligations.LinkTraining
  refine ⟨fun s p lane => ⟨fun training asked => ?_, fun asked => ?_, fun training lowered => ?_, fun running => ?_⟩,
    fun s p => ⟨fun training asked => ⟨fun lanes => ?_, fun last => ?_⟩,
      fun training asked _ noWrite noRequest noFlit free => ?_, fun fenced => ⟨fun open_ => ?_, fun safe => ?_⟩,
      exec_capabilityResend_silent, exec_idMismatchRepeat_mismatch⟩⟩
  · rw [exec_trnDone, trnDone_trained training asked]
  · rw [exec_rxLockLoss, lockLoss_locked asked]
  · rw [exec_retrain, retrain_training training lowered]
  · rw [exec_fecUncorr, fecUncorr_counted running]
  · refine ⟨_, exec_trainingTimeout p s, ?_⟩
    rw [State.after_link, trainTimeout_training training asked, if_neg (by omega)]
    exact narrowed_link (s.b.link p)
  · refine ⟨_, exec_trainingTimeout p s, ?_⟩
    rw [trainTimeout_training training asked, if_pos last, State.after_link, State.after_islands, State.after_isFenced]
    exact trainingFenced_port (linkDown s.b p) p
  · refine ⟨_, exec_trainingTimeout p s, fun q other => ?_⟩
    rw [State.after_link, trainTimeout_link_other other training asked, linkDown_quiet noWrite noRequest noFlit free,
      portDropped_link_other s.b other]
  · rw [exec_fencedPortRetry, fencedRetry_fenced fenced, if_neg (by simp [open_])]
  · rw [exec_fencedPortRetry, fencedRetry_fenced fenced, if_pos safe]

end Sys2Proof.Machine
end

section
/-! SUPPORT. Heartbeats, the DRBG, open-write bounds and requests held for a port (R35, R89, R115, R178, R330, R395). -/

namespace Sys2Proof.Machine

theorem exec_lvAliveToggle (p : LvPort) (s : State) : exec (.lvAliveToggle p) s = .next (s.after (toggleAlive p s.b)) := rfl

theorem toggleAlive_runs {b : Block} {p : LvPort} (runs : (heartbeat b p).2 = true) : toggleAlive p b =
    { b with islands := { b.islands with
      alive := b.islands.alive.put false (heartbeat b p).1 (!b.islands.alive.get false (heartbeat b p).1) } } := if_pos runs

theorem exec_drbgReseed_due {s : State} (runs : s.b.sec.drbgOn = true) (due : 2 ^ 20 ≤ s.b.sec.drbgCount) :
    exec .drbgReseed s = .next (s.after { s.b with sec := { s.b.sec with drbgCount := 0 } }) :=
  congrArg (fun b => Host.Outcome.next (s.after b)) (if_pos (by rw [runs, decide_eq_true due]; rfl))

theorem exec_openWriteBoundExpiry_runs {s : State} {w : WriteBound} (runs : boundRuns s.b w = true)
    (noStart : s.b.boot.startPending = false) : exec (.openWriteBoundExpiry w) s =
      .next (s.after (settleWrites (retireOpen s.b (boundCovers w)))) :=
  congrArg (fun b => Host.Outcome.next (s.after b)) (if_pos (by rw [runs, noStart]; rfl))

theorem portless_iff (b : Block) (c : Nat) (r : RemReq) :
    portless b c r = true ↔ r.acc.owner.source = c ∧ routeTo b r.chip = .notReady := by
  rw [portless, Bool.and_eq_true, beq_iff_eq, beq_iff_eq]

/-- A granule of a record that fails is told to the row that waits for it. -/
theorem failAcc_recRead {b : Block} {a : Acc} {r : Nat} (st : Status) (owner : a.owner = .recRead r) (noFill : a.fill = false) :
    failAcc b a st = recAnswer b r a.vi a.va st [] := by
  simp only [failAcc, owner, noFill, markBad, Bool.false_eq_true, if_false]

/-- Settles O60: a heartbeat by the table it is put in, the bounds by what lets them run, a failed record by its owner. -/
theorem timersAndBounds : Obligations.TimersAndBounds := by
  unfold Obligations.TimersAndBounds
  refine fun s => ⟨fun p runs => ⟨_, exec_lvAliveToggle p s, ?_⟩, exec_drbgReseed_due, fun w => exec_openWriteBoundExpiry_runs,
    fun c => rfl, portless_iff s.b, fun b a r st owner noFill => ?_⟩
  · rw [State.after_islands, toggleAlive_runs runs]
    exact ⟨Tab.get_put_same _ _ _ _, fun k other => Tab.get_put_other _ _ _ other, rfl⟩
  · rw [failAcc_recRead st owner noFill]
    rfl

end Sys2Proof.Machine
end

section
/-! SUPPORT. Tamper events, detectors, clocks and health tests (R35, R62, R73, R396, R399, R405, R406, R458). -/

namespace Sys2Proof.Machine

theorem exec_islandClockLoss (i : Nat) (s : State) : exec (.islandClockLoss i) s = .next (s.after (clockLoss i s.b)) := rfl

/-! ### A tamper event (R405, R406) -/

theorem cutJob_none {b : Block} (noJob : b.regs.otpJob = none) : cutJob b = b := by
  simp only [cutJob, noJob]

/-- The block after the wipe of a tamper event: no SSP, the window closed, the count bit owed, a security event, source 59. -/
def tampered (b : Block) : Block := raise (toAo (toAo (closeWindow (zeroSsps b)) .tampered) .security) 59 0

theorem orderStart_tampered {b : Block} (noJob : b.regs.otpJob = none) : orderStart (tampered b) = { tampered b with
    boot := { b.boot with startPending := true }, islands := { b.islands with alive := [] } } := by
  have noJobLeft : (tampered b).regs.otpJob = none := noJob
  rw [orderStart, cutJob_none noJobLeft]
  rfl

/-- Outside the error state and P3 the event orders a start. -/
theorem tamper_orders {b : Block} (serves : b.boot.stage ≠ 0xE) (notP3 : b.power.state ≠ 3) (noJob : b.regs.otpJob = none) :
    ∃ boot : Boot, boot.startPending = true ∧
      tamper b = { tampered b with boot := boot, islands := { b.islands with alive := [] } } := by
  have wiped : tamper b = if inStartup b && (b.boot.again || !b.boot.startPending) then
      { orderStart (tampered b) with boot := { (orderStart (tampered b)).boot with again := true } }
      else orderStart (tampered b) := by
    have noError : ¬ errorState (tampered b) = true := fun failed => serves (eq_of_beq failed)
    rw [tamper, cutJob_none noJob]
    exact (if_neg noError).trans (if_neg notP3)
  rw [wiped, orderStart_tampered noJob]
  split
  · exact ⟨{ b.boot with startPending := true, again := true }, rfl, rfl⟩
  · exact ⟨{ b.boot with startPending := true }, rfl, rfl⟩

theorem tampered_sess (b : Block) (p : Nat) : ((tampered b).link p).sess = {} := by
  have wiped : ∀ t : Tab Link, (Tab.get {} (t.mapVals {} fun _ l => { l with sess := {} }) p).sess = {} :=
    fun t => Tab.get_mapVals_of (P := fun l : Link => l.sess = {}) rfl (fun _ _ => rfl) t p
  exact wiped b.links

theorem exec_tamperEvent_on {s : State} (t : TamperIn) (on : s.ao.on = true) :
    exec (.tamperEvent t) s = .next (s.after (tamper s.b)) :=
  congrArg (fun b => Host.Outcome.next (s.after b)) (if_pos on)

/-! ### Detectors and clocks (R35, R458) -/

theorem exec_detectorWarning_on {s : State} (w : WarnIn) (on : s.ao.on = true) :
    exec (.detectorWarning w) s = .next (s.after (raise s.b 62 0 (detail := warnDetail w))) :=
  congrArg (fun b => Host.Outcome.next (s.after b)) (if_pos on)

theorem clockLoss_first {b : Block} {i : Nat} (listed : i < 38) (clocked : b.islands.lost.get false i = false) :
    clockLoss i b = raise { b with islands := { b.islands with
      lost := b.islands.lost.put false i true, alive := stopAlive b.islands.alive i } } 57 i :=
  if_neg (by simp [clocked, Nat.not_le.2 listed])

theorem stopAlive_channel (t : Tab Bool) {i : Nat} (listed : i < 24) : (stopAlive t (5 + i)).get false i = false := by
  have key : stopAlive t (5 + i) = Tab.erase t i := by
    simp [stopAlive, show ¬ 5 + i < 4 by omega, show 5 + i < 29 by omega]
  rw [key, Tab.get_erase_same]

theorem stopAlive_ct (t : Tab Bool) {i : Nat} (listed : i < 8) : (stopAlive t 37).get false (32 + i) = false := by
  have keys : stopAlive t 37 = (List.range 8).foldl (fun t k => Tab.erase t (32 + k)) t := rfl
  rw [keys, Tab.get_foldl_erase]
  simp [listed]

/-! ### A failed health test (R73, R396, R399) -/

section
variable {s : State} (on : s.ao.on = true)
include on

theorem exec_healthTestFailure_on : exec .healthTestFailure s = .next (s.after
    (if s.b.boot.stage = 0xF then raise s.b 60 0 else enterError (raise s.b 60 0))) :=
  congrArg (fun b => Host.Outcome.next (s.after b)) (if_pos on)

end

theorem enterError_chan_bare (b : Block) (n : Nat) : ((enterError b).chan n).service = .reset ∧
    ((enterError b).chan n).rtags = [] ∧ ((enterError b).chan n).wtags = [] := by
  have bare : ∀ t : Tab Chan, ∃ therm, Tab.get {} (t.mapVals {} fun _ c => { therm := c.therm }) n = { therm := therm } :=
    fun t => Tab.get_mapVals_of (P := fun c : Chan => ∃ therm, c = { therm := therm }) ⟨0, rfl⟩ (fun _ c => ⟨c.therm, rfl⟩) t n
  obtain ⟨therm, reset⟩ := bare b.chans
  rw [show (enterError b).chan n = _ from reset]
  exact ⟨rfl, rfl, rfl⟩

/-- Settles O58: a tamper event by the start it orders, a clock by its first loss, a health test by whether BOOT_FAIL stays. -/
theorem tamperAndDetectors : Obligations.TamperAndDetectors := by
  unfold Obligations.TamperAndDetectors
  refine ⟨fun s t on serves notP3 noJob => ⟨_, exec_tamperEvent_on t on, ?_⟩,
    fun s => ⟨fun w => exec_detectorWarning_on w, fun i listed clocked => ?_, fun i => stopAlive_channel _,
      fun i => stopAlive_ct _, fun v => rfl, fun on starts => ?_, fun on failed => ?_⟩⟩
  · obtain ⟨boot, pending, ordered⟩ := tamper_orders serves notP3 noJob
    rw [ordered]
    refine ⟨pending, rfl, rfl, rfl, rfl, tampered_sess s.b, ?_, ⟨_, rfl, rfl⟩⟩
    show ((s.b.ev ++ [AoEvent.tampered] ++ [AoEvent.security]).foldl AO.apply s.ao).countDue = true
    rw [List.foldl_append, List.foldl_append]
    rfl
  · rw [exec_islandClockLoss, clockLoss_first listed clocked]
  · rw [exec_healthTestFailure_on on, if_neg starts]
    exact ⟨_, rfl, rfl, rfl, rfl, rfl, enterError_chan_bare _⟩
  · rw [exec_healthTestFailure_on on, if_pos failed]

end Sys2Proof.Machine
end

section
/-! SUPPORT. Plain registers, mailboxes and doorbells written through the control port (R53, R54, R92 to R101). -/

namespace Sys2Proof.Machine

/-- A doorbell write is the row of its first word. -/
theorem exec_bells {s : State} {a : Nat} {w : CtlWrite} (bell : inBell a = true) :
    (firstKind a w = false → exec (.submissionTail a w) s = .next (s.after (access a w (ringBells a w) s.ao s.b))) ∧
    (firstKind a w = true → exec (.completionHead a w) s = .next (s.after (access a w (ringBells a w) s.ao s.b))) :=
  ⟨fun kind => by rw [exec_submissionTail, if_pos (by simp [bell, kind])],
    fun kind => by rw [exec_completionHead, if_pos (by simp [bell, kind])]⟩

section
variable {s : State} {a : Nat} {w : CtlWrite} (up : ctUp s.b = true) (aligned : a % 8 = 0) (mapped : a < 2 ^ 20) (vi : w.vi < 256)
  (admitted : portCheck s.ao s.b a w = none)
include up aligned mapped vi admitted

/-! ### An admitted write (R54) -/

/-- A write without a row of its own is its register's. -/
theorem exec_registerWrite_taken {b' : Block} (plain : ownRow a = false) (taken : plainWrite a w s.ao s.b = .ok b') :
    exec (.registerWrite a w) s = .next (s.after (respond b' .ok)) := by
  rw [exec_registerWrite, if_neg (by simp [plain]), access_taken up aligned mapped vi admitted taken]

theorem exec_registerWrite_refused {st : Status} (plain : ownRow a = false) (refused : plainWrite a w s.ao s.b = .error st) :
    exec (.registerWrite a w) s = .next (s.after (refusePort s.b a w st)) := by
  rw [exec_registerWrite, if_neg (by simp [plain]), access_error up aligned mapped vi admitted refused]

theorem access_bells_rung (passed : ((wBells w a).findSome? fun e => bellCheck s.b e.1 e.2) = none) :
    access a w (ringBells a w) s.ao s.b = respond ((wBells w a).foldl ringBell s.b) .ok :=
  access_taken up aligned mapped vi admitted (by simp only [ringBells, passed])

theorem access_bells_refused {st : Status} (failed : ((wBells w a).findSome? fun e => bellCheck s.b e.1 e.2) = some st) :
    access a w (ringBells a w) s.ao s.b = refusePort s.b a w st :=
  access_error up aligned mapped vi admitted (by simp only [ringBells, failed])

end

/-! ### Mailboxes (R92) -/

section
variable {ao : AO} {b : Block} {a : Nat} {w : CtlWrite} (mbox : inMbox a = true)
include mbox

theorem plainWrite_mbox : plainWrite a w ao b = mboxWrite b w.vi (a % 256) w := by
  have range : 0x40000 ≤ a ∧ a < 0x50000 := by simpa [inMbox] using mbox
  have others : a ≠ 0x58 ∧ a ≠ 0x100 ∧ ¬ (0x200 ≤ a ∧ a < 0x400) ∧ a ≠ 0x1120 ∧ a ≠ 0x1128 ∧ ¬ (0x1000 ≤ a ∧ a < 0x1100) := by omega
  obtain ⟨h1, h2, h3, h4, h5, h6⟩ := others
  simp only [plainWrite, h1, h2, h3, h4, h5, h6, mbox, Bool.and_eq_true, decide_eq_true_eq, if_false, if_true]

theorem plainWrite_command (word : a % 256 < 0x40) (idle : (b.mbox w.vi).busy = false) : plainWrite a w ao b =
    .ok (b.setMbox w.vi { b.mbox w.vi with
      cmd := patchAt (b.mbox w.vi).cmd (a % 256)
        (natLe 8 (wOver w (BitVec.ofNat 64 (fieldAt (b.mbox w.vi).cmd (a % 256) 8))).toNat) }) := by
  simp only [plainWrite_mbox mbox, mboxWrite, word, idle, if_true, Bool.false_eq_true, if_false]

section
variable (bell : a % 256 = 0x60)
include bell

theorem plainWrite_bell_idle (rings : wSets w 0 = true) (idle : (b.mbox w.vi).busy = false) :
    plainWrite a w ao b = .ok (b.setMbox w.vi { b.mbox w.vi with busy := true }) := by
  simp only [plainWrite_mbox mbox, bell, mboxWrite, idle, rings, Nat.reduceLT, if_true, Bool.false_eq_true, if_false]

theorem plainWrite_bell_busy (busy : (b.mbox w.vi).busy = true) : plainWrite a w ao b = .error .queueFull := by
  simp only [plainWrite_mbox mbox, bell, mboxWrite, busy, Nat.reduceLT, if_true, if_false]

end

end

/-! ### Doorbell words (R95, R97, R100, R101) -/

section
variable {b : Block} {i d : Nat}

theorem ringBell_tail (tail : bitOf d 31 = false) : ringBell b (i, d) = ringTail b i (bitsOf d 15 0) :=
  if_neg (by simp [tail])

theorem ringBell_head (head : bitOf d 31 = true) : ringBell b (i, d) = ringHead b (bitsOf d 27 16) (bitsOf d 15 0) :=
  if_pos head

theorem ringTail_normal (x : Nat) (normal : (b.sq i).direct = false) : ringTail b i x = b.setSq i { b.sq i with tail := x } :=
  if_neg (by simp [normal])

theorem ringTail_direct (x : Nat) (direct : (b.sq i).direct = true) : ringTail b i x = wakeP2 (b.setSq i { b.sq i with
    fill := (x + (b.sq i).size - (b.sq i).head) % (b.sq i).size, tail := x }) := if_pos direct

end

/-- Settles O28: a register by its offset, a mailbox by whether it is busy, a doorbell by its words. -/
theorem registerWrites : Obligations.RegisterWrites := by
  unfold Obligations.RegisterWrites
  refine ⟨fun s a w up aligned mapped vi admitted => ⟨fun at_ => ?_, fun mbox word idle => ?_, fun mbox bell rings idle => ?_,
      fun mbox bell busy => ?_, fun at_ => ?_⟩,
    fun s a w bell up aligned mapped vi admitted => ⟨fun passed => ?_, fun st failed => ?_⟩,
    fun b i d => ⟨fun tail normal => ?_, fun tail direct => ?_, fun head => ?_⟩⟩
  · subst at_
    exact exec_registerWrite_taken up aligned mapped vi admitted rfl rfl
  · obtain ⟨-, -, plain, -⟩ := ranges_of_inMbox mbox
    exact exec_registerWrite_taken up aligned mapped vi admitted plain (plainWrite_command mbox word idle)
  · obtain ⟨-, -, plain, -⟩ := ranges_of_inMbox mbox
    exact exec_registerWrite_taken up aligned mapped vi admitted plain (plainWrite_bell_idle mbox bell rings idle)
  · obtain ⟨-, -, plain, -⟩ := ranges_of_inMbox mbox
    exact exec_registerWrite_refused up aligned mapped vi admitted plain (plainWrite_bell_busy mbox bell busy)
  · subst at_
    exact exec_registerWrite_taken up aligned mapped vi admitted rfl rfl
  · rw [← access_bells_rung up aligned mapped vi admitted passed]
    exact exec_bells bell
  · rw [← access_bells_refused up aligned mapped vi admitted failed]
    exact exec_bells bell
  · rw [ringBell_tail tail, ringTail_normal _ normal]
  · rw [ringBell_tail tail, ringTail_direct _ direct]
  · rw [ringBell_head head]
    rfl

end Sys2Proof.Machine
end

section
/-! SUPPORT. Islands in and out of reset, and readiness (R33, R34, R64, R77, R80, R88). -/

namespace Sys2Proof.Machine

/-! ### ISLAND_RESET (R33) -/

/-- An island's reset line moved, and its watch window begun anew. -/
def lineMoved (b : Block) (i : Nat) (release : Bool) : Block :=
  { b with islands := { b.islands with out := b.islands.out.put false i release, win := b.islands.win.put 0 i 0 } }

/-- A released island serves the outside: after step 6, under no clamp, no RESET_CHIP and no ordered start (R34, R413). -/
def releaseDrives (b : Block) : Bool :=
  (b.boot.stage == 7 || b.boot.stage == 8) && b.power.state != 3 && !b.boot.resetChip && !b.boot.startPending

theorem lineMoved_out (b : Block) (i : Nat) (release : Bool) : (lineMoved b i release).islands.out.get false i = release :=
  Tab.get_put_same false b.islands.out i release

theorem releaseDrives_iff (b : Block) : releaseDrives b = true ↔ (b.boot.stage = 7 ∨ b.boot.stage = 8) ∧
    b.power.state ≠ 3 ∧ b.boot.resetChip = false ∧ b.boot.startPending = false := by
  simp [releaseDrives, and_assoc]

/-- Before rst_ao_n is high no island's line moves (R33). -/
theorem exec_islandReset_off {s : State} (i : Nat) (release : Bool) (off : s.ao.on = false) (quiet : s.b.ev = []) :
    exec (.islandReset i release) s = .next s := by
  refine (congrArg (fun b => Host.Outcome.next (s.after b)) (if_pos (by simp [off]))).trans ?_
  rw [State.after_self s quiet]

theorem exec_islandReset_resets {s : State} (i : Nat) (on : s.ao.on = true) :
    exec (.islandReset i false) s = .next (s.after (islandReset i false s.b)) :=
  congrArg (fun b => Host.Outcome.next (s.after b)) (if_neg (by simp [on]))

/-- With no start that waits for M0, a release only drives the island's own interface. -/
theorem exec_islandReset_releases {s : State} {i : Nat} {b : Block} (on : s.ao.on = true)
    (released : islandReset i true s.b = b) (noStart : b.boot.stalled = none) :
    exec (.islandReset i true) s = .next (s.after b) := by
  refine (congrArg (fun b => Host.Outcome.next (s.after b)) (if_neg (by simp [on]))).trans ?_
  simp only [if_true, released, resumeBoot_none _ noStart]

section
variable {b : Block} {i : Nat}

section
variable (held : b.islands.out.get false i = false)
include held

theorem islandReset_releases (listed : i < 38) : islandReset i true b =
    if 5 ≤ i && i < 29 && releaseDrives b then offerChan (lineMoved b i true) (i - 5)
    else if 29 ≤ i && i < 37 && releaseDrives b then offerLink (lineMoved b i true) (i - 29)
    else if i < 4 && releaseDrives b && b.boot.stage == 8 && quadUp (lineMoved b i true) i then
      [2 * i, 2 * i + 1].foldl (fun b p => b.setSport p { b.sport p with ready := true }) (lineMoved b i true)
    else lineMoved b i true :=
  if_neg (by simp [held, listed])

theorem releases_quad (quad : i < 4) (ready : b.boot.stage = 8) (drives : releaseDrives b = true)
    (runs : quadUp (lineMoved b i true) i = true) : islandReset i true b =
    [2 * i, 2 * i + 1].foldl (fun b p => b.setSport p { b.sport p with ready := true }) (lineMoved b i true) := by
  rw [islandReset_releases held (by omega), if_neg (by simp; omega), if_neg (by simp; omega), if_pos (by simp [quad, drives, ready, runs])]

theorem releases_chan (first : 5 ≤ i) (last : i < 29) (drives : releaseDrives b = true) :
    islandReset i true b = offerChan (lineMoved b i true) (i - 5) := by
  rw [islandReset_releases held (by omega), if_pos (by simp [first, last, drives])]

theorem releases_link (first : 29 ≤ i) (last : i < 37) (drives : releaseDrives b = true) :
    islandReset i true b = offerLink (lineMoved b i true) (i - 29) := by
  rw [islandReset_releases held (by omega), if_neg (by simp; omega), if_pos (by simp [first, last, drives])]

/-- A release that drives no output, as nothing serves yet, or as the island has no output of its own. -/
theorem releases_quiet (listed : i < 38)
    (quiet : releaseDrives b = false ∨ i = 4 ∨ i = 37 ∨ i < 4 ∧ quadUp (lineMoved b i true) i = false) :
    islandReset i true b = lineMoved b i true := by
  rw [islandReset_releases held listed]
  rcases quiet with still | rfl | rfl | ⟨quad, gated⟩
  · simp [still]
  · simp
  · simp
  · rw [if_neg (by simp; omega), if_neg (by simp; omega), if_neg (by simp [gated])]

end

theorem offerChan_offers {n : Nat} (open_ : b.isFenced .channel n = false) (populated : hasBit b.setup.populated n = true)
    (out : b.islands.out.get false (5 + n) = true) : offerChan b n = b.setChan n { (b.chan n).refill b.setup.pct with
      service := .offered, capO := BitVec.ofNat 64 (capWord b n), capOVld := true } := by
  rw [offerChan, if_neg (by simp [open_]), if_neg (by simp [populated]), if_pos out]
  rfl

theorem offerLink_trains {p : Nat} (out : b.islands.out.get false (29 + p) = true)
    (safe : b.islands.safe.getLsbD (29 + p) = false) : offerLink b p = startTraining b p :=
  if_pos (by simp [out, safe])

/-! ### A reset (R33, R34, R64) -/

section
variable (runs : b.islands.out.get false i = true)
include runs

theorem islandReset_resets (listed : i < 38) : islandReset i false b =
    if i < 4 then resetQuad (lineMoved b i false) i
    else if i = 4 then resetGesso (lineMoved b i false)
    else if i < 29 then resetChan (lineMoved b i false) (i - 5)
    else if i < 37 then resetLink (lineMoved b i false) (i - 29)
    else resetCt (lineMoved b i false) :=
  if_neg (by simp [runs, listed])

end

/-- What Gesso's reset leaves of a context: its cores hold none of its streams. -/
def Ctx.streamless (x : Ctx) : Ctx := { x with execs := x.execs.map fun e => { e with streams := [] } }

theorem resetGesso_streams (b : Block) (c : Nat) : ∀ e ∈ ((resetGesso b).ctx c).execs, e.streams = [] := by
  have each : ∀ (_ : Nat) (x : Ctx), ∀ e ∈ x.streamless.execs, e.streams = [] := by
    intro _ x e he
    obtain ⟨e', -, rfl⟩ := List.mem_map.1 he
    rfl
  exact Tab.get_mapVals_of (P := fun x : Ctx => ∀ e ∈ x.execs, e.streams = []) (d := {})
    (fun _ listed => absurd listed List.not_mem_nil) each b.ctxs c

/-- A channel's state while its island is in reset (R34): a fenced one stays so (R419). -/
def Chan.resetState (c : Chan) : Chan := { service := if c.service = .fenced then .fenced else .reset, therm := c.therm }

theorem resetChan_eq (b : Block) (n : Nat) : resetChan b n =
    let b2 := b.setChan n (b.chan n).resetState
    settleWrites ((chanAccs (b.chan n)).foldl (fun b a => failAcc b a .busRetryExhausted)
      (dropPoints { b2 with islands := { b2.islands with alive := b2.islands.alive.erase n } } [arbChan n false, arbChan n true])) := by
  unfold resetChan Chan.resetState
  simp only [beq_iff_eq]

theorem resetLink_link (b : Block) (p : Nat) : ∃ epoch reqs everReady, (resetLink b p).link p =
    { epoch := epoch, reqs := reqs, everReady := everReady
      phase := if (b.link p).phase = .fenced then .fenced else .reset } := by
  unfold resetLink
  generalize (if (b.link p).everReady || (b.link p).trnReq then linkDown b p else b) = down
  refine ⟨(down.link p).epoch, (down.link p).reqs, (down.link p).everReady, ?_⟩
  refine (Block.setLink_link down p _).trans ?_
  simp only [beq_iff_eq]

theorem cutJob_mem (b : Block) : (cutJob b).mem = b.mem := by
  unfold cutJob
  split
  · rfl
  · rw [foldl_toAo_fuse]

theorem cutJob_islands (b : Block) : (cutJob b).islands = b.islands := by
  unfold cutJob
  split
  · rfl
  · rw [foldl_toAo_fuse]

theorem resetCt_out (b : Block) : (resetCt b).islands.out = b.islands.out :=
  (congrArg Islands.out (cutJob_islands b) :)

end

/-! ### READY_LOCAL (R88) -/

theorem mayBeReady_settled {b : Block} (stage : b.boot.stage = 7) (noStart : b.boot.startPending = false)
    (clocked : b.power.state ≠ 3) (noReset : b.boot.resetChip = false)
    (settled : ∀ n < 24, (b.chan n).service = .inService ∨ (b.chan n).service = .fenced) : mayBeReady b = true := by
  simp only [mayBeReady, stage, noStart, noReset, List.all_eq_true, Bool.and_eq_true, bne_iff_ne, Bool.or_eq_true, beq_iff_eq]
  exact ⟨⟨⟨⟨trivial, rfl⟩, clocked⟩, rfl⟩, fun n hn => settled n (List.mem_range.1 hn)⟩

theorem foldl_rewriteSteering_changes (l : List Nat) (b : Block) :
    ∃ table, l.foldl rewriteSteering b = { b with steerOver := table } := by
  induction l generalizing b with
  | nil => exact ⟨b.steerOver, rfl⟩
  | cons c l ih =>
    obtain ⟨table, rewritten⟩ := rewriteSteering_changes b c
    obtain ⟨table', rest⟩ := ih (rewriteSteering b c)
    exact ⟨table', by rw [List.foldl_cons, rest, rewritten]⟩

/-- A stream port opens with its quadrant out of reset (R88). -/
def openPort (b : Block) (p : Nat) : Block :=
  if b.islands.out.get false (quadOfPort p) then b.setSport p { b.sport p with ready := true } else b

theorem openPort_ready {b : Block} {p q : Nat}
    (open_ : q = p ∧ b.islands.out.get false (quadOfPort q) = true ∨ (b.sport q).ready = true) :
    ((openPort b p).sport q).ready = true := by
  unfold openPort
  by_cases same : q = p
  · subst same
    split
    · rw [Block.setSport_sport]
    · next held => exact (open_.resolve_left fun h => held h.2)
  · have was := open_.resolve_left fun h => same h.1
    split
    · rwa [Block.setSport_sport_other (h := same)]
    · exact was

theorem openPort_changes (b : Block) (p : Nat) : ∃ ports, openPort b p = { b with sports := ports } := by
  unfold openPort
  split
  · exact ⟨_, rfl⟩
  · exact ⟨b.sports, rfl⟩

theorem foldl_openPort_changes (l : List Nat) (b : Block) : ∃ ports, l.foldl openPort b = { b with sports := ports } := by
  induction l generalizing b with
  | nil => exact ⟨b.sports, rfl⟩
  | cons p l ih =>
    obtain ⟨_, opened⟩ := openPort_changes b p
    obtain ⟨ports, rest⟩ := ih (openPort b p)
    exact ⟨ports, by rw [List.foldl_cons, rest, opened]⟩

theorem foldl_openPort_ready (l : List Nat) (b : Block) {q : Nat}
    (open_ : q ∈ l ∧ b.islands.out.get false (quadOfPort q) = true ∨ (b.sport q).ready = true) :
    ((l.foldl openPort b).sport q).ready = true := by
  induction l generalizing b with
  | nil => exact open_.resolve_left (by simp)
  | cons p l ih =>
    obtain ⟨_, opened⟩ := openPort_changes b p
    refine ih (openPort b p) ?_
    rcases open_ with ⟨listed, out⟩ | was
    · rcases List.mem_cons.1 listed with rfl | later
      · exact .inr (openPort_ready (.inl ⟨rfl, out⟩))
      · exact .inl ⟨later, by rwa [opened]⟩
    · exact .inr (openPort_ready (.inr was))

/-- The block of READY_LOCAL but for its steering table and its stream ports. -/
def readied (b : Block) : Block :=
  let b1 := (drbg b 32).2
  let b2 : Block := { b1 with
    boot := { b1.boot with stage := 8 }
    sec := { b1.sec with nonce := (drbg b 32).1 }
    flt := { b1.flt with resetHold := false }
    steerSpread := if !(b.vinst 0).live then inServiceChans b1 else b1.steerSpread }
  if !(b.vinst 0).live then b2.setVinst 0 { live := true } else b2

theorem readied_live (b : Block) : ((readied b).vinst 0).live = true := by
  cases live : (b.vinst 0).live
  · rw [readied, if_pos (by simp [live])]
    exact congrArg Vinst.live (Tab.get_put_same {} b.rin.vis 0 { live := true })
  · rw [readied, if_neg (by simp [live])]
    exact live

theorem readied_keeps (b : Block) : (readied b).boot.stage = 8 ∧ (readied b).flt.resetHold = false ∧
    (readied b).sec.nonce = (drbg b 32).1 ∧ (readied b).islands = b.islands ∧ (readied b).chans = b.chans ∧ (readied b).mem = b.mem := by
  unfold readied
  dsimp only
  split <;> exact ⟨rfl, rfl, rfl, rfl, rfl, rfl⟩

theorem enterReadyLocal_eq (b : Block) : ∃ table ports, enterReadyLocal b = { readied b with steerOver := table, sports := ports } ∧
    ∀ q < 8, b.islands.out.get false (quadOfPort q) = true → (ports.get {} q).ready = true := by
  obtain ⟨table, rewritten⟩ := foldl_rewriteSteering_changes
    ((List.range 24).filter fun n => ((readied b).chan n).service == .fenced) (readied b)
  obtain ⟨ports, opened⟩ := foldl_openPort_changes (List.range 8) { readied b with steerOver := table }
  obtain ⟨-, -, -, islands, -⟩ := readied_keeps b
  refine ⟨table, ports, ?_, fun q hq out => ?_⟩
  · rw [← opened, ← rewritten]
    rfl
  · have ready := foldl_openPort_ready (List.range 8) { readied b with steerOver := table } (q := q)
      (.inl ⟨List.mem_range.2 hq, by rwa [islands]⟩)
    rwa [opened] at ready

theorem exec_readyLocal_settled {s : State} (settled : mayBeReady s.b = true) :
    exec .readyLocal s = .next (s.after (enterReadyLocal s.b)) :=
  congrArg (fun b => Host.Outcome.next (s.after b)) (if_pos settled)

theorem exec_readyLocal_early {s : State} (early : mayBeReady s.b = false) (quiet : s.b.ev = []) :
    exec .readyLocal s = .next s := by
  refine (congrArg (fun b => Host.Outcome.next (s.after b)) (if_neg (by simp [early]))).trans ?_
  rw [State.after_self s quiet]

/-- Settles O12: a release by what its island serves, a reset by the island, READY_LOCAL by whether step 7 has ended. -/
theorem islandsAndReadiness : Obligations.IslandsAndReadiness := by
  unfold Obligations.IslandsAndReadiness
  refine ⟨fun s i on listed held noStart => ?_, fun s i on listed runs => ?_,
    fun s i r off quiet => exec_islandReset_off i r off quiet,
    fun s stage noStart clocked noReset settled => ?_, fun s early quiet => exec_readyLocal_early early quiet⟩
  · refine ⟨fun quad stage late quadRuns => ?_, fun first last stage open_ populated late => ?_,
      fun first last stage safe late => ?_, fun quiet => ?_⟩
    · have drives := (releaseDrives_iff s.b).2 ⟨.inr stage, late⟩
      exact exec_islandReset_releases on (releases_quad held quad stage drives quadRuns) noStart
    · have drives := (releaseDrives_iff s.b).2 ⟨stage, late⟩
      have out : (lineMoved s.b i true).islands.out.get false (5 + (i - 5)) = true := by
        rw [Nat.add_sub_cancel' first, lineMoved_out]
      exact exec_islandReset_releases on
        ((releases_chan held first last drives).trans (offerChan_offers open_ populated out)) noStart
    · have drives := (releaseDrives_iff s.b).2 ⟨stage, late⟩
      have out : (lineMoved s.b i true).islands.out.get false (29 + (i - 29)) = true := by
        rw [Nat.add_sub_cancel' first, lineMoved_out]
      have unsafe_ : (lineMoved s.b i true).islands.safe.getLsbD (29 + (i - 29)) = false := by
        rwa [Nat.add_sub_cancel' first]
      exact exec_islandReset_releases on ((releases_link held first last drives).trans (offerLink_trains out unsafe_)) noStart
    · refine exec_islandReset_releases on (releases_quiet held listed ?_) noStart
      rcases quiet with clamped | early | rest
      · exact .inl (Bool.eq_false_iff.2 fun drives => clamped ((releaseDrives_iff s.b).1 drives).2)
      · exact .inl (Bool.eq_false_iff.2 fun drives => by have := ((releaseDrives_iff s.b).1 drives).1; omega)
      · exact .inr rest
  · have row := exec_islandReset_resets i on
    rw [islandReset_resets runs listed] at row
    refine ⟨fun quad => ?_, fun gesso => ?_, fun first last => ?_, fun first last => ?_, fun ct => ?_⟩
    · rwa [if_pos quad] at row
    · rw [if_neg (by omega), if_pos gesso] at row
      exact ⟨_, row, rfl, resetGesso_streams _⟩
    · rwa [if_neg (by omega), if_neg (by omega), if_pos last, resetChan_eq] at row
    · rw [if_neg (by omega), if_neg (by omega), if_neg (by omega), if_pos last] at row
      obtain ⟨epoch, reqs, everReady, reset⟩ := resetLink_link (lineMoved s.b i false) (i - 29)
      refine ⟨_, row, ?_⟩
      rw [State.after_link, reset]
      exact ⟨rfl, rfl, rfl, rfl, rfl, rfl⟩
    · rw [if_neg (by omega), if_neg (by omega), if_neg (by omega), if_neg (by omega)] at row
      exact ⟨_, row, rfl, rfl, rfl, rfl, rfl, rfl, resetCt_out _, cutJob_mem _⟩
  · have row := exec_readyLocal_settled (mayBeReady_settled stage noStart clocked noReset settled)
    obtain ⟨table, ports, readyBlock, opened⟩ := enterReadyLocal_eq s.b
    obtain ⟨stage8, noHold, nonce, -, chans, mem⟩ := readied_keeps s.b
    rw [readyBlock] at row
    exact ⟨_, row, stage8, noHold, nonce, readied_live s.b, opened, fun n => congrArg (fun t => Tab.get ({} : Chan) t n) chans, mem⟩

end Sys2Proof.Machine
end

section
/-! SUPPORT. Entry to P2 with a request line that its table lists twice (R34, R450). -/

namespace Sys2Proof.Machine

/-- A block whose transition to P2 is under way and whose table lists request line 0 twice, held and acknowledged both times;
a canonical table (`Tab.wf`) lists a line once. -/
def lineListedTwice : Block :=
  { power := { busy := some 2 }, drq := [(0, { held := true, ack := true }), (0, { held := true, ack := true })] }

/-- Clamping quadrant 0 changes the first of the two entries; clamping another writes every entry as it stands back to its line,
the second one last. -/
theorem lineListedTwice_clamped : (clampQuad lineListedTwice 0).drq = [(0, { held := true }), (0, { held := true, ack := true })] ∧
    (clampQuad (clampQuad lineListedTwice 0) 1).drq = lineListedTwice.drq := by
  decide

theorem enterP2_lineListedTwice : ((enterP2 lineListedTwice).line 0).ack = true := by
  decide

/-- Refutes O35: the statement takes every block, also one whose table of request lines is not canonical; where line 0 is listed
twice, it is acknowledged still when the entry to P2 has ended. -/
theorem not_powerStates : ¬ Obligations.PowerStates := by
  unfold Obligations.PowerStates
  intro holds
  obtain ⟨-, -, -, entersP2, -⟩ := holds { pending := [], ao := {}, b := lineListedTwice }
  obtain ⟨t, ended, -, -, -, lowered, -⟩ := entersP2 rfl rfl rfl
  obtain rfl := Host.Outcome.next.inj ended
  exact absurd (enterP2_lineListedTwice.symm.trans (lowered 0 (by decide))) (by decide)

end Sys2Proof.Machine
end
